-- ==== Sys2Proof/Word.lean ====
section
/-! DEFINITION. The words the manual treats as bits, and byte-list helpers (R10: little endian). -/

namespace Sys2Proof
set_option Elab.async false

/-- A byte of a memory, header or record. -/
abbrev Byte := BitVec 8

/-- A register word (R545). -/
abbrev Word := BitVec 32

end Sys2Proof
end

