-- ==== Sys2Proof/Syntax.lean ====
section
/-! DEFINITION. The commands Abnos takes and their operands (one constructor per row of the table). An operand carries what the
step needs from outside: bytes of a packet, a time stamp, the result of a test, a reading. -/

namespace Sys2Proof
set_option Elab.async false

/-- Who reads or writes a register, a memory or the debug module (R12, R368, R547). `cp1b` is the second core of a split CP1. -/
inductive Requester where
  | cp0 | cp1 | cp1b | i3c | dbg
  deriving DecidableEq, Repr

/-- A received PTP event or general message (R283, R285). `ok`: it parses under a supported option. Times are in ns,
corrections in 2^-16 ns. `dt` is the number of TIME edges since the previous event. -/
structure PtpMsg where
  dt : Nat
  port : Fin 6
  ok : Bool
  domain : Byte
  clock : BitVec 64
  sport : BitVec 16
  seq : BitVec 16
  twoStep : Bool
  ts : Nat
  corr : Int
  reqClock : BitVec 64
  logInterval : Int
  deriving DecidableEq, Repr

/-- The data set of an Announce message (R283), in the order the best-master comparison takes it. -/
structure PtpAnn where
  port : Fin 6
  ok : Bool
  domain : Byte
  clock : BitVec 64
  sport : BitVec 16
  prio1 : Byte
  cls : Byte
  acc : Byte
  var : BitVec 16
  prio2 : Byte
  gm : BitVec 64
  steps : BitVec 16
  deriving DecidableEq, Repr

/-- A received Jexong datagram (R295): the sender, whether header and CRC are good, and the 40-byte payload. -/
structure JxMsg where
  ok : Bool
  payload : List Byte
  deriving DecidableEq, Repr


/-- What a start meets (Tables 17-2 to 17-4): µs of steps 1 to 7, alignment repeats, a clock that still differs after them, the enclosure
switch, pseudo-channels that fail training, comparators that fail (numbered as the test lanes), cores with a bad word, another bad word
(0 library, 1 other), strands that fail with their group, units that fail with their segment, a failing SHK engine, a clock that differs
at roll call, and SAFE_REQ_N at the end of roll call. -/
structure StartEnv where
  us : List Nat
  repeats : Fin 4
  phase : Option (Fin 6)
  enclosure : Bool
  hbmBad : List (Fin 32)
  lanesBad : List (Fin 72)
  coresBad : List (Fin 66)
  wordBad : Option (Fin 2)
  strandsBad : List (Fin 66 × Fin 8 × Fin 100 × BitVec 16)
  unitsBad : List (Fin 6 × Fin 66 × BitVec 16)
  shkBad : Bool
  rollPhase : Option (Fin 6)
  safeReq : Bool
  deriving DecidableEq, Repr

/-- Where an Ethernet datagram came from. -/
structure UdpFrom where
  mac : BitVec 48
  ip : BitVec 32
  udp : BitVec 16
  deriving DecidableEq, Repr

/-- The commands of the part: one constructor per row of opcode_table.json. -/
inductive Instr where
  /-- The TSU reaches the next bell boundary B, fires bell N and advances B by BELL_PERIOD. (R290) -/
  | bellEdge
  /-- At H_N the fault collector forms the health verdict of bell N. (R25) -/
  | healthPoint
  /-- At H_N + 50,000 cycles, each sequencer rewrites its patch sites from BASE and the current K. (R111) -/
  | scalePhase2
  /-- At G_N Abnos checks the verdict and the CP0 heartbeat, and keeps ALIVE toggling or stops it. (R26) -/
  | gatePoint
  /-- ALIVE starts at the first half-period edge after the first gate that passes outside SAFE. (R357) -/
  | aliveStart
  /-- At each half-period boundary of TSU time, ALIVE_A and ALIVE_B swap conduction, break before make. (R356) -/
  | aliveToggle
  /-- The collector compares each ALIVE readback with its drive and sends ALIVE_FB on a difference. (R358) -/
  | aliveReadbackCheck (a b : Bool)
  /-- At G_N + HB_GRACE each member judges missing or negative peer heartbeats and forms the failure set for bell N+2. (R329) -/
  | heartbeatDeadline
  /-- At H + 100,000 cycles, the cores whose images differ between plans are reloaded from the system region. (R330) -/
  | planReload
  /-- The instruction starts the budget counter of its task. (R45) -/
  | taskBegin (core : Fin 64)
  /-- A task's budget counter reaches BUDGET + 1 while the task runs, and BUDGET is sent. (R45) -/
  | budget (core : Fin 64) (task : Byte)
  /-- A core mover or HMOVER starts the transfer named by its descriptor. (R46) -/
  | move (core : Fin 64)
  /-- A MOVE's transfer completes with its last write landed. (R44) -/
  | moveComplete (mover : BitVec 16) (extra : Nat) (links : List (Nat × Fin 6))
  /-- A MOVE is incomplete at its DEADLINE edge; the mover sends DEADLINE, aborts and writes void headers. (R46) -/
  | deadline (mover : BitVec 16) (delivered : Nat)
  /-- A matrix engine runs a Form T operation of its descriptor. (R68) -/
  | mmFormT (core : Fin 64)
  /-- A matrix engine runs a Form W operation of its descriptor. (R69) -/
  | mmFormW (core : Fin 64)
  /-- A matrix engine runs an element-wise operation. (R76) -/
  | ew (core : Fin 64)
  /-- An MM or EW completes D cycles after issue with its last output tile written. (R83) -/
  | mmComplete (engine : BitVec 16)
  /-- The VECTOR station runs a VECTOR program in op order. (R84) -/
  | vec (core : Fin 64)
  /-- A VEC program completes with its last output written. (R84) -/
  | vecComplete (core : Fin 64)
  /-- A CODEC unit compresses the tiles of its input stream at a fixed rate. (R136) -/
  | compress (core : Fin 64)
  /-- A CODEC unit checks and expands compressed tiles. (R137) -/
  | expand (core : Fin 64)
  /-- A CODEC operation completes after its fixed duration. (R134) -/
  | codecComplete (unit : Fin 8)
  /-- A DETECT unit runs windowed max pooling. (R125) -/
  | poolMax (core : Fin 64)
  /-- A DETECT unit runs windowed average pooling. (R125) -/
  | poolAvg (core : Fin 64)
  /-- A DETECT unit decodes anchor-based 2D boxes. (R130) -/
  | anchor2d (core : Fin 64)
  /-- A DETECT unit decodes center-based 2D boxes. (R130) -/
  | center2d (core : Fin 64)
  /-- A DETECT unit decodes center-based BEV boxes. (R130) -/
  | centerBev (core : Fin 64)
  /-- A DETECT unit runs axis-aligned non-maximum suppression. (R132) -/
  | nmsAxis (core : Fin 64)
  /-- A DETECT unit runs rotated ground-plane non-maximum suppression. (R133) -/
  | nmsBev (core : Fin 64)
  /-- A DETECT operation completes after its fixed duration. (R127) -/
  | detectComplete (unit : Fin 4)
  /-- ATTEND applies the control tile, assigns buckets, shares pages, evicts and writes the plan tile. (R159) -/
  | attPlan (core : Fin 64)
  /-- ATTEND encodes one layer's new keys and values into pages, allocating at layer 0. (R148) -/
  | attAppend (core : Fin 64)
  /-- ATTEND widens one block of one slot and head into key, value and mask tiles. (R164) -/
  | attFetch (core : Fin 64)
  /-- ATTEND writes each row value COUNT times, optionally negated. (R165) -/
  | attSpread (core : Fin 64)
  /-- An ATTEND command completes after its fixed duration. (R162) -/
  | attendComplete (late : Bool)
  /-- While idle, ATTEND takes one frame from the release queue and frees it when its count reaches 0. (R155) -/
  | attReleaseFrame
  /-- RUBRIC checks a range of rubric records against a released tile. (R396) -/
  | rubricRun (core : Fin 64)
  /-- RUBRIC compares the main detection tile with the proctor tile and marks a mismatch CONTESTED. (R312) -/
  | proctorCompare (core : Fin 64)
  /-- A rubric run or proctor compare completes after its fixed duration. (R396) -/
  | rubricComplete
  /-- EMIT checks and forms one output record, or a VOID record, and queues it on its links and destinations. (R488) -/
  | emitRelease (core : Fin 64)
  /-- An EMIT release completes after its fixed duration. (R487) -/
  | emitReleaseComplete
  /-- A sequencer submits its dual-run digest pair for a region to the comparator. (R50) -/
  | digest (core : Fin 64)
  /-- 64 cycles after DIGEST, the comparator judges the region's two digests. (R50) -/
  | digestCompare (region : Byte)
  /-- The evidence unit finishes copying the suspects' operands into an evidence tile. (R388) -/
  | evidenceCaptureDone (slot : Byte) (dt : Nat)
  /-- A rotation step advances an engine's recess set and loads the incoming strands. (R53) -/
  | swap (core : Fin 64)
  /-- 12 cycles after a SWAP, the new recess strands start the strand test program. (R378) -/
  | swapComplete (engine : BitVec 16)
  /-- A recess strand completes the test program and its signatures are judged. (R378) -/
  | strandProgramDone (phys : Fin 66) (engine : Fin 8) (fails : List (Fin 100 × BitVec 16))
  /-- A suspect strand's replay against a reference ends, and the suspect is retired on a difference. (R392) -/
  | suspectReplayDone (slot : Byte) (suspect : Fin 8) (equal : Bool)
  /-- A core recess window opens and reserves its units for test segments. (R54) -/
  | recess (core : Fin 64)
  /-- A unit test segment ends; its output is judged and the next fitting segment starts. (R383) -/
  | unitSegmentDone (unit : Fin 6) (index : Fin 66) (pass : Bool)
  /-- The recess window ends on its fixed edge and defers the remaining segments. (R54) -/
  | recessEnd (core : Fin 64)
  /-- A core issues its BARRIER, and the barrier unit checks the instance. (R52) -/
  | barrier (core : Fin 64)
  /-- The timetable's end-of-list instruction issues once every earlier instruction has completed. (R44) -/
  | endTask (core : Fin 64)
  /-- A spare core finishes loading a fenced logical core's desk and operand-buffer images and its patch pass. (R55) -/
  | remapLoadDone (core : Fin 64)
  /-- The collector records a pending fault message, forms its severity, writes the gradebook and starts its reactions. (R346) -/
  | faultRecord
  /-- Once the HBM zero-fill and locket wipe have ended, held entries are written to the rings in SEQ order. (R351) -/
  | earlyBufferRelease
  /-- The NVM writer finishes one gradebook entry in the boot store and takes the next from its queue. (R350) -/
  | nvmEntryWritten
  /-- One copy of the retirement map finishes writing to the boot store. (R394) -/
  | retirementMapWritten
  /-- The scrubber reads one word per bank and writes back any corrected word. (R187) -/
  | sramScrub (upset : List (Nat × Fin 3))
  /-- The L2 scrubber reads and corrects one line. (R367) -/
  | l2Scrub (line : BitVec 15) (wrong : Fin 3)
  /-- The patrol scrub reads one burst per pseudo-channel and writes back corrected bursts. (R210) -/
  | patrolScrub (upset : List (Nat × Fin 3))
  /-- A channel 0 controller reads the stack temperature and updates the temperature state. (R211) -/
  | hbmTempPoll (reading : Option (BitVec 8))
  /-- A bank with a power-down request powers down once its outstanding-write counter is zero. (R192) -/
  | bankPowerDown (lib : Bool) (core : Fin 66) (bank : Fin 256)
  /-- A bank not drained within 10 µs stays on and BANK_DRAIN is sent. (R192) -/
  | bankDrainTimeout (lib : Bool) (core : Fin 66) (bank : Fin 256)
  /-- SHK reads an object's last byte, compares its digest with REF and adds a bad object to the bad map. (R398) -/
  | weightDigestCheck
  /-- A weight digest pass running for 8 s sends COVERAGE_MISSED for unit 6. (R398) -/
  | digestPassTimeout
  /-- Every 1,024 ms each comparator's test lane is driven different for one cycle and checked. (R370) -/
  | testLaneRound (missed : List (Fin 72))
  /-- A control pair's lead and shadow outputs differ; the pair stops and LOCKSTEP is sent. (R366) -/
  | lockstepMismatch (pair : Fin 2) (group : Fin 5) (cycle : BitVec 32)
  /-- A shadow sequencer differs from its lead and SEQ_MISMATCH is sent. (R58) -/
  | sequencerMismatch (phys : Fin 66)
  /-- The collector copies differ; ALIVE turns off and Abnos enters HALT. (R361) -/
  | collectorMismatch
  /-- The phase checker finds divider counters out of step and sends PHASE_ALIGN. (R408) -/
  | phaseMismatch (clock : Fin 6)
  /-- The clock-loss detector trips, switches ALIVE off and holds every domain in reset. (R463) -/
  | clockLoss (cause : Fin 3)
  /-- After stopping ALIVE and waiting for NVM writes, Abnos begins a new start with reset alignment. (R466) -/
  | warmReset (env : StartEnv)
  /-- Power good starts the start-up timeline from reset alignment to the end of the model load. (R467) -/
  | powerOnStart (env : StartEnv)
  /-- The image load watchdog expires 10 s into step 7 and the load ends with cause 8. (R450) -/
  | imageLoadWatchdog (us : Nat)
  /-- The input below 16.5 V for 50 µs sends POWER_LIMIT, unpowers cameras and starts the undervoltage sequence. (R526) -/
  | undervoltage (vin : BitVec 16)
  /-- The input above 60 V for 50 µs sends POWER_LIMIT and starts the undervoltage sequence. (R526) -/
  | overvoltage (vin : BitVec 16)
  /-- The hold-up time ends; every supply switches off and Abnos is in OFF. (R526) -/
  | holdUpEnd
  /-- The input outside 18 V to 58 V for 10 ms sends POWER_WARN. (R526) -/
  | inputWarning (vin : BitVec 16)
  /-- An internal rail out of its window for 5 µs sends POWER_LIMIT with cause 4. (R540) -/
  | railFault (rail : BitVec 16)
  /-- Every 1 ms the die sensors are read and judged against the warning and limit levels. (R532) -/
  | dieTempSample (die : BitVec 8) (vin iin pin poc : BitVec 16) (mw : List (BitVec 16))
  /-- Every 100 ms the coolant inlet sensor is read and judged. (R532) -/
  | coolantTempSample (inlet : BitVec 8)
  /-- A power-over-coax port exceeds its current limit, switches off and sends CAM_POC. (R528) -/
  | pocTrip (camera : Fin 16)
  /-- 1 s after a first trip, the port is switched on again once. (R247) -/
  | pocRestore (camera : Fin 16)
  /-- A qualified assertion of SAFE_REQ_N is recorded as SAFE_REQUEST and stops ALIVE. (R360) -/
  | safeReqAssert
  /-- SAFE_REQ_N qualifies as released. (R530) -/
  | safeReqRelease
  /-- A qualified WAKE edge in PARK ungates clocks, leaves self-refresh, ramps class K and starts the wake sequence. (R476) -/
  | wakeRequest
  /-- The WIPE fill, reloads and test lanes end, which sets T_READY after a wake. (R476) -/
  | wakeReady (us : Nat) (reading : Option (BitVec 8)) (missed : List (Fin 72))
  /-- A glitch monitor or the enclosure switch trips; the locket is wiped, KEYS is cleared and TAMPER is sent. (R433) -/
  | tamperTrip (monitor : Fin 3)
  /-- At t_trig, Abnos sends a trigger GPIO event on the camera's uplink. (R222) -/
  | cameraTrigger (camera : Fin 16)
  /-- An FS packet is timestamped and the receiver takes a frame buffer. (R224) -/
  | frameStart (camera : Fin 16) (vc : Fin 4) (frame : BitVec 16) (ecc : Fin 3) (latency : Nat) (dt : Nat)
  /-- A CSI-2 long packet is checked and its line written, repaired or discarded. (R227) -/
  | longPacket (camera : Fin 16) (vc : Fin 4) (dtype : BitVec 6) (ecc : Fin 3) (crcOk : Bool) (payload : List Byte) (dt : Nat)
  /-- An FE packet closes a frame; its digests are finished and the buffer becomes COMPLETE. (R227) -/
  | frameEnd (camera : Fin 16) (vc : Fin 4) (ecc : Fin 3) (dt : Nat)
  /-- No packet for FRAME_TIMEOUT closes an open frame as if FE had arrived. (R227) -/
  | frameTimeout (camera : Fin 16)
  /-- A camera link goes down, CAM_LINK is sent, and its samples become VOID with cause LINK. (R246) -/
  | camLinkDown (camera : Fin 16)
  /-- A camera link comes up at its gear. (R246) -/
  | camLinkUp (camera : Fin 16) (gear : Fin 6) (scriptOk : Bool)
  /-- An idle pipeline takes the COMPLETE buffer with the earliest T_SOF and selects its parameter set. (R232) -/
  | ispFrameStart (pipe : Fin 4)
  /-- After T_PROC, the output set becomes COMPLETE and the buffer returns to FREE. (R230) -/
  | ispFrameDone (pipe : Fin 4) (dropped : List Nat)
  /-- A WRITE command enqueues a sensor register write on a tunnel queue. (R241) -/
  | i2cWrite (req : Requester) (camera : Fin 16) (queue : Fin 2) (cmd : BitVec 32) (data : BitVec 32)
  /-- A READ command enqueues a sensor register read. (R241) -/
  | i2cRead (req : Requester) (camera : Fin 16) (queue : Fin 2) (cmd : BitVec 32)
  /-- GROUP_OPEN with a tag opens an exposure group on queue 0. (R242) -/
  | groupOpen (req : Requester) (camera : Fin 16) (queue : Fin 2) (cmd : BitVec 32)
  /-- GROUP_COMMIT sends hold, the held writes, the tag and the release as one sequence. (R242) -/
  | groupCommit (req : Requester) (camera : Fin 16) (queue : Fin 2) (cmd : BitVec 32)
  /-- A tunnel transaction ends with data, a NACK or a group completion time tc. (R241) -/
  | i2cTransactionDone (camera : Fin 16) (nack : Option Nat) (data : BitVec 32) (dt : Nat)
  /-- A bus timeout of 10 ms sets the error bit and sends CAM_I2C. (R241) -/
  | i2cTimeout (camera : Fin 16) (step : Nat)
  /-- The staged parameter set is committed with its tag to the camera's waiting sets. (R244) -/
  | psetCommit (req : Requester) (camera : Fin 16) (tag : BitVec 32)
  /-- SIEVE matches and checks a lidar datagram and forms point records for its input queue. (R254) -/
  | lidarDatagram (port : Fin 6) (srcIp : BitVec 32) (dstUdp : BitVec 16) (checksumOk : Bool) (payload : List Byte) (dt : Nat)
  /-- SIEVE checks an ego-motion message and adds it to its ring or rejects it. (R256) -/
  | egoMessage (port : Fin 6) (dstUdp : BitVec 16) (record : List Byte) (dt : Nat)
  /-- SIEVE compensates a queued point and inserts it into the voxel table. (R261) -/
  | voxelInsert
  /-- At a batch's READY cycle, unwritten tiles are written void and INGEST_LATE is sent. (R270) -/
  | batchReadyDeadline (batch : Fin 32) (late : Option (BitVec 12))
  /-- A Sync message on the slave port gives an offset measurement that drives the servo. (R285) -/
  | ptpSync (m : PtpMsg)
  /-- A Follow_Up completes a two-step Sync measurement. (R285) -/
  | ptpFollowUp (m : PtpMsg)
  /-- On a GM port, Abnos answers a Delay_Req with a Delay_Resp. (R283) -/
  | ptpDelayReq (m : PtpMsg)
  /-- A Delay_Resp updates the E2E path delay. (R285) -/
  | ptpDelayResp (m : PtpMsg)
  /-- Abnos answers a Pdelay_Req with a one-step Pdelay_Resp. (R282) -/
  | ptpPdelayReq (m : PtpMsg)
  /-- A Pdelay_Resp updates the peer path delay. (R285) -/
  | ptpPdelayResp (m : PtpMsg)
  /-- A Pdelay_Resp_Follow_Up completes a two-step peer delay measurement. (R285) -/
  | ptpPdelayRespFollowUp (m : PtpMsg)
  /-- An Announce message feeds the BMCA selection of the slave port. (R283) -/
  | ptpAnnounce (a : PtpAnn)
  /-- On each Sync interval, Abnos sends a one-step Sync on every GM port. (R282) -/
  | ptpSyncSend
  /-- Abnos sends Announce on its GM ports with the clockClass of its lock state. (R284) -/
  | ptpAnnounceSend
  /-- The slave port sends its delay request of the profile's mechanism. (R285) -/
  | ptpDelayReqSend
  /-- No Sync for 3 intervals moves LOCKED to HOLDOVER and sends TIME_HOLDOVER. (R285) -/
  | syncLoss
  /-- HOLDOVER lasting HOLDOVER_MAX sends TIME_HOLDOVER and sets FREE_RUNNING. (R288) -/
  | holdoverMax
  /-- LOCK_TIMEOUT without a first lock sends TIME_NO_LOCK and sets TIMEOUT. (R289) -/
  | lockTimeout
  /-- A peer's HELLO is received and the common version and plan digest are judged. (R296) -/
  | jxHello (m : JxMsg)
  /-- Every 100 ms a module sends HELLO until it holds every peer's HELLO. (R296) -/
  | jxHelloSend
  /-- A peer's READY is received. (R297) -/
  | jxReady (m : JxMsg)
  /-- A module sends READY once its load has ended and its TSU is locked or timed out. (R297) -/
  | jxReadySend
  /-- An ARM naming the module prepares it to act on the GO edge, or to start on its own time. (R299) -/
  | jxArm (m : JxMsg)
  /-- The master, holding all READYs, chooses FIRST_BELL and sends ARM. (R297) -/
  | armSend
  /-- READY_TIMEOUT passes at the master, which arms with the ready modules. (R297) -/
  | readyTimeout
  /-- Without an ARM for READY_TIMEOUT + 2 s, the lowest locked ready module arms the system. (R302) -/
  | armFallback
  /-- At GO, the master drives a rising edge on SYNC for 1 µs. (R297) -/
  | goDrive
  /-- A member samples the GO edge, arms and records its skew or loads its TSU. (R298) -/
  | goEdge (late : Nat)
  /-- No GO by GO + 100 µs sends JXL_NO_GO; a locked member starts from its own time. (R298) -/
  | goTimeout
  /-- The master's own GO edge returns or fails to return within 1 µs. (R298) -/
  | goLoopCheck (returned : Option (BitVec 16))
  /-- A peer's HEARTBEAT is received with its verdict and failure set. (R300) -/
  | jxHeartbeat (m : JxMsg)
  /-- A JOIN admits a module, which starts at JOIN_BELL. (R301) -/
  | jxJoin (m : JxMsg)
  /-- The acting master sends JOIN for a locked absent module whose READY it holds. (R301) -/
  | jxJoinSend
  /-- A REFUSE is received and the peer is treated as absent. (R296) -/
  | jxRefuse (m : JxMsg)
  /-- Abnos answers an ARP request for a port's IP address. (R501) -/
  | arpRequest (port : Fin 6) (target : BitVec 32) (peer : UdpFrom)
  /-- A fragment, tagged frame or IPv6 frame is discarded and counted. (R501) -/
  | ethFrameDiscard (port : Fin 6)
  /-- A port's link or SerDes PLL goes down; its queued records are dropped and OUT_PORT is sent. (R503) -/
  | ethLinkDown (port : Fin 6) (pll : Bool)
  /-- A port's link returns and resumes with the next record. (R503) -/
  | ethLinkUp (port : Fin 6)
  /-- A consumer's HELLO is matched to destinations and answered with HELLO_ACK or REFUSE. (R505) -/
  | resultHello (port : Fin 6) (peer : UdpFrom) (data : List Byte)
  /-- A destination sends the next segment of a queued record as a result datagram. (R502) -/
  | resultSegmentSend (dest : Fin 32)
  /-- A CSI output link sends a queued record as one CSI-2 frame. (R498) -/
  | csiRecordSend (link : Fin 4)
  /-- An output link goes down; its queued records are dropped and OUT_PORT is sent. (R500) -/
  | csiOutLinkDown (link : Fin 4)
  /-- An output link comes up and starts with the next whole record. (R500) -/
  | csiOutLinkUp (link : Fin 4)
  /-- OPEN starts a staging session and erases the target slot. (R455) -/
  | stageOpen (port : Fin 6) (peer : UdpFrom) (dg : List Byte)
  /-- The target's erase and optional model copy end, W is programmed and the ACK is sent. (R455) -/
  | stageEraseDone (ok : Bool)
  /-- DATA in offset order is programmed into its part and acknowledged. (R456) -/
  | stageData (port : Fin 6) (peer : UdpFrom) (dg : List Byte) (ok : Bool)
  /-- COMMIT starts the read-back and verification of the target slot. (R457) -/
  | stageCommit (port : Fin 6) (peer : UdpFrom) (dg : List Byte)
  /-- The read-back ends; C is programmed on success and the ACK is sent. (R457) -/
  | stageCommitVerified
  /-- ABORT ends the staging session. (R453) -/
  | stageAbort (port : Fin 6) (peer : UdpFrom) (dg : List Byte)
  /-- 60 s without a valid datagram ends the staging session. (R453) -/
  | stageSessionTimeout
  /-- OPEN in MAINT stops the live sensors, clears carried state and starts a replay session. (R416) -/
  | replayOpen (port : Fin 6) (peer : UdpFrom) (dg : List Byte)
  /-- DATA adds bytes to a replay bell's item stream. (R417) -/
  | replayData (port : Fin 6) (peer : UdpFrom) (dg : List Byte)
  /-- BELL_END is answered with the next expected offset until the bell's stream is whole. (R417) -/
  | replayBellEnd (port : Fin 6) (peer : UdpFrom) (dg : List Byte)
  /-- Once its ISP and SIEVE work ends, the TSU starts replay bell k. (R418) -/
  | replayBellStart
  /-- CLOSE ends the replay session. (R416) -/
  | replayClose (port : Fin 6) (peer : UdpFrom) (dg : List Byte)
  /-- The STATUS command returns state, AGG and bell, and acknowledges AGG on request. (R510) -/
  | status (tag : Byte) (arg0 : BitVec 32)
  /-- The SAFE entry command is recorded as SAFE_REQUEST source 1. (R324) -/
  | safeEnter (tag : Byte)
  /-- The reset command with its key requests a warm reset. (R466) -/
  | reset (tag : Byte) (arg0 : BitVec 32)
  /-- The SAFE exit command starts the recovery bells or is refused with a reason. (R327) -/
  | safeExit (tag : Byte)
  /-- The MAINT entry command takes effect at the next bell edge or at the end of step 7. (R474) -/
  | maintEnter (tag : Byte)
  /-- The PARK command with its key requests PARK at the next bell edge. (R474) -/
  | park (tag : Byte) (arg0 : BitVec 32)
  /-- The wake command in PARK requests a wake. (R476) -/
  | wake (tag : Byte)
  /-- The self-test command queues a test request. (R387) -/
  | selfTest (tag : Byte) (arg0 : BitVec 32)
  /-- The command copies gradebook entries from the HBM or NVM ring into the buffer. (R510) -/
  | gbRead (tag : Byte) (arg0 arg1 : BitVec 32)
  /-- The I3C attestation command starts a signed attestation report. (R430) -/
  | attest (tag : Byte)
  /-- The I3C staging command carries one staging datagram body. (R458) -/
  | stage (tag : Byte)
  /-- The command declares a CSI link consumer's version. (R506) -/
  | declare (tag : Byte) (arg0 : BitVec 32)
  /-- A firmware-handled I3C command ends with its result code and returns. (R510) -/
  | commandDone (dt : Nat)
  /-- A private write sets the window address and writes consecutive registers. (R508) -/
  | i3cPrivateWrite (bytes : List Byte)
  /-- A write to I3C_CMDSET_VER declares the command-set version and renegotiates. (R506) -/
  | cmdsetDeclare (req : Requester) (mmode : Bool) (major minor : Byte)
  /-- A NACKed in-band interrupt is retried at the next bus idle. (R512) -/
  | ibiRetry
  /-- The target takes part in dynamic address assignment and enables interrupts. (R507) -/
  | entdaa (da : BitVec 7)
  /-- The target takes a dynamic address from its static address. (R507) -/
  | setdasa (static : BitVec 7) (da : BitVec 7)
  /-- The dynamic address is reset and interrupts return to their default. (R512) -/
  | rstdaa
  /-- ENEC enables in-band interrupts. (R512) -/
  | enec (events : Byte)
  /-- DISEC disables in-band interrupts. (R512) -/
  | disec (events : Byte)
  /-- The controller sets the maximum write length. (R507) -/
  | setmwl (len : BitVec 16)
  /-- The controller sets the maximum read length. (R507) -/
  | setmrl (len : BitVec 16)
  /-- The target returns its maximum write length. (R507) -/
  | getmwl
  /-- The target returns its maximum read length. (R507) -/
  | getmrl
  /-- The target returns its provisional ID. (R507) -/
  | getpid
  /-- The target returns its BCR. (R507) -/
  | getbcr
  /-- The target returns its DCR. (R507) -/
  | getdcr
  /-- The target returns its CCC status. (R507) -/
  | getstatus
  /-- The target returns its maximum data speed. (R507) -/
  | getmxds
  /-- The bus enters HDR-DDR mode. (R507) -/
  | enthdr0
  /-- A CP0 machine-mode write of bell N reports the bell's heartbeat. (R354) -/
  | fltHeartbeat (req : Requester) (mmode : Bool) (value : BitVec 32)
  /-- A write of 1 clears AGG and withdraws a pending interrupt. (R353) -/
  | fltAck (req : Requester) (mmode : Bool) (value : BitVec 32)
  /-- A write sends a firmware fault report under the writer's source ID. (R362) -/
  | fltSw (req : Requester) (mmode : Bool) (value : BitVec 32)
  /-- A write to FLT_KSEV or FLT_SEV changes a severity in BOOT or MAINT, subject to floors. (R345) -/
  | fltSeverityWrite (req : Requester) (mmode : Bool) (addr : BitVec 40) (value : BitVec 32)
  /-- Injection target 0 records a message as if sent by its source. (R363) -/
  | injectMessage (req : Requester) (mmode : Bool)
  /-- Injection target 1 flips bits in the next write of an SRAM word. (R363) -/
  | injectSram (req : Requester) (mmode : Bool)
  /-- Injection target 2 corrupts symbols in the next write of an HBM burst. (R363) -/
  | injectHbm (req : Requester) (mmode : Bool)
  /-- Injection target 3 inverts one lead output bit for one cycle. (R363) -/
  | injectLockstep (req : Requester) (mmode : Bool)
  /-- Injection target 4 inverts one sequencer issue bit. (R363) -/
  | injectSequencer (req : Requester) (mmode : Bool)
  /-- Injection target 5 inverts bit 0 of a core's next digest. (R363) -/
  | injectDigest (req : Requester) (mmode : Bool)
  /-- Injection target 6 inverts the CRC of a stream's next tile. (R363) -/
  | injectTileCrc (req : Requester) (mmode : Bool)
  /-- Injection target 7 inverts an ALIVE drive for one half-period. (R363) -/
  | injectAlive (req : Requester) (mmode : Bool)
  /-- A keyed CP0 write of PWR_CTRL.RESET requests a warm reset. (R466) -/
  | pwrCtrlReset (req : Requester) (mmode : Bool) (value : BitVec 32)
  /-- A keyed CP0 write of PWR_CTRL.PARK requests PARK. (R474) -/
  | pwrCtrlPark (req : Requester) (mmode : Bool) (value : BitVec 32)
  /-- Request kind 0 queues the extended strand program for a core. (R387) -/
  | strandExtendedRequest (req : Requester) (mmode : Bool) (target : BitVec 7)
  /-- Request kind 1 queues extended segments of a core's VECTOR and movers. (R387) -/
  | unitExtendedRequest (req : Requester) (mmode : Bool) (target : BitVec 7)
  /-- Request kind 2 queues extended segments of a CODEC or DETECT unit. (R387) -/
  | stationExtendedRequest (req : Requester) (mmode : Bool) (detect : Bool) (target : BitVec 7)
  /-- Request kind 3 runs the destructive full BIST in MAINT. (R387) -/
  | fullBist (req : Requester) (mmode : Bool)
  /-- Request kind 4 re-equalises every receiver in MAINT. (R387) -/
  | calibration (req : Requester) (mmode : Bool)
  /-- The SEC ATTEST command starts a signed attestation report. (R430) -/
  | secAttest (req : Requester) (mmode : Bool)
  /-- An SLH-DSA signing ends and the report is written to the command buffer. (R430) -/
  | signingDone (dt : Nat)
  /-- The UNLOCK command checks a debug-unlock token and opens JTAG. (R432) -/
  | unlock (req : Requester) (mmode : Bool)
  /-- The command checks a token, wipes the locket and writes the life-cycle fuses. (R423) -/
  | lcTransition (req : Requester) (mmode : Bool)
  /-- The command starts burning anti-rollback steps up to the running SVN. (R428) -/
  | advanceArb (req : Requester) (mmode : Bool)
  /-- One anti-rollback step finishes burning and the next starts. (R428) -/
  | arbStepDone
  /-- The command programs or revokes an owner key slot. (R425) -/
  | ownerKey (req : Requester) (mmode : Bool)
  /-- A write of OCM_CNT_CTRL.CLEAR zeroes the stall counters. (R184) -/
  | ocmCounterClear (req : Requester) (value : BitVec 32)
  /-- A write to a register without a row of its own acts by its access codes, or is denied with REG_DENIED. (R12) -/
  | registerWrite (req : Requester) (mmode : Bool) (addr : BitVec 40) (size : Fin 65) (value : BitVec 32)
  /-- A read of an RC field returns its value and clears it. (R12) -/
  | readClear (req : Requester) (mmode : Bool) (addr : BitVec 40) (size : Fin 65)
  /-- A read of a _LO register latches its _HI register for that requester. (R547) -/
  | loLatchRead (req : Requester) (mmode : Bool) (addr : BitVec 40)
  /-- A read of SEC_LKT_DATA returns a locket word and advances SEC_LKT_ADDR. (R436) -/
  | locketDataRead (req : Requester) (mmode : Bool)
  /-- A debugger attaches and DEBUG_ACTIVE is sent. (R373) -/
  | debugAttach (hart : Fin 3)
  /-- A debugger detaches and DEBUG_ACTIVE is sent. (R373) -/
  | debugDetach (hart : Fin 3)
  /-- A halt request enters the lead core and is replayed to the shadow. (R373) -/
  | debugHalt (hart : Fin 3)
  /-- A resume enters the lead core and is replayed to the shadow. (R373) -/
  | debugResume (hart : Fin 3)
  /-- An abstract register command enters the lead and is replayed. (R373) -/
  | debugAbstractCommand (hart : Fin 3)
  /-- Program-buffer execution enters the lead and is replayed. (R373) -/
  | debugProgbufExec (hart : Fin 3)
  /-- A debug trigger fires in the lead and is replayed. (R373) -/
  | debugTrigger (hart : Fin 3)
  /-- A debugger system-bus access is made under the CP0 machine-mode limits. (R373) -/
  | debugSysbusAccess (hart : Fin 3) (kind : Fin 3) (addr : BitVec 40) (size : Fin 65) (data : List Byte)
  /-- The reload of a logical core's images and its patch pass for a new mapping plan completes. (R330) -/
  | planReloadDone (core : Fin 64)
  /-- The hold of DIGEST AT + 64 + 40,000 cycles expires with evidence capture unfinished, so the evidence is NONE, requests of kinds 0 and 1 are queued and the event counts as unattributed. (R390) -/
  | evidenceHoldEnd (slot : Byte)
  /-- A control-pair load, store or L2 write-back reaches a desk, the library, HBM or a reserved range, and is served, corrected, poisoned or refused with an error response and OCM_ACCESS or HBM_ACCESS. (R180) -/
  | controlPairAccess (req : Requester) (mmode : Bool) (kind : Fin 3) (addr : BitVec 40) (size : Fin 65) (data : List Byte)
  /-- A parity or CRC error on the I3C bus is counted in I3C_ERR.PARITY and OUT_PORT cause 2 is sent. (R513) -/
  | i3cBusError
  /-- The input returns inside 18 V to 58 V, and PWR_FLAGS.VIN_WARN clears. (R526) -/
  | inputWarningClear (vin : BitVec 16)
  /-- The destructive full BIST of about 250 ms ends, with memories cleared and the image to be reloaded before RUN. (R387) -/
  | fullBistDone
  /-- The factory tester moves a BLANK device to FACTORY_TEST over JTAG. (R423) -/
  | factoryJtagTransition (grade : Fin 3) (serial : BitVec 14) (mac : BitVec 48) (seed key0 key1 : List Byte)
  deriving DecidableEq, Repr

end Sys2Proof
end

