-- ==== Sys2Proof/Config.lean ====
section
/-! DEFINITION. What an implementation fixes and the spec leaves open: free values, each a constant with no body. -/

namespace Sys2Proof.Config
set_option Elab.async false

/-- A fresh free byte, applied to the state's counter (void payloads, values the spec leaves undefined; log 4). -/
opaque freeByte : Nat → Byte

/-- A fresh free word (log 4). -/
opaque freeWord : Nat → BitVec 64

/-- Whether an SLH-DSA signature over a message verifies under a public key (FIPS 205; log 7). -/
opaque slhVerify : (key msg sig : List Byte) → Bool

/-- The SLH-DSA-SHAKE-256f signature of a message under a private key (FIPS 205; log 7). -/
opaque slhSign : (sk msg : List Byte) → List Byte

/-- Public and private key that slh_keygen_internal makes of a 96-byte string (FIPS 205; log 7). -/
opaque slhKeygen : (m : List Byte) → List Byte × List Byte

/-- How many bells beyond the two that R301 asks for the acting master puts JOIN_BELL ahead, applied to its current bell (log 13). -/
opaque joinLead : Nat → Nat

/-- The result of RSQRT of −0, which R85 does not state, as the code of an FP32 value (log 14). -/
opaque rsqrtNegZero : BitVec 32

end Sys2Proof.Config
end

