-- ==== Sys2Proof/Machine/Float.lean ====
section
/-! DEFINITION. Number formats (04, R93 to R107; 03, R62, R63, R85): exact values, rounding to nearest with ties to even, FACET and MX. -/

namespace Sys2Proof.Machine
open Sys2Proof
set_option Elab.async false

/-- The value an encoding represents: NaN, an infinity, or sign and m × 2^e. -/
inductive FVal where
  | nan
  | inf (neg : Bool)
  | fin (neg : Bool) (m : Nat) (e : Int)
  deriving DecidableEq, Repr

/-- A floating-point layout of Table 4-1: exponent and mantissa widths, bias, and whether it has infinities. -/
structure FFmt where
  ew : Nat
  mw : Nat
  bias : Nat
  hasInf : Bool
  deriving DecidableEq, Repr

def fmtF32 : FFmt := ⟨8, 23, 127, true⟩
def fmtBf16 : FFmt := ⟨8, 7, 127, true⟩
def fmtF16 : FFmt := ⟨5, 10, 15, true⟩
def fmtE5m2 : FFmt := ⟨5, 2, 15, true⟩
def fmtE4m3 : FFmt := ⟨4, 3, 7, false⟩
def fmtE2m1 : FFmt := ⟨2, 1, 1, false⟩

/-- Canonical NaN of a format (R97). -/
def FFmt.nanBits (f : FFmt) : Nat :=
  if f.hasInf then (2 ^ f.ew - 1) * 2 ^ f.mw + 2 ^ (f.mw - 1) else 2 ^ (f.ew + f.mw) - 1

def FFmt.signBit (f : FFmt) (neg : Bool) : Nat := if neg then 2 ^ (f.ew + f.mw) else 0
def FFmt.infBits (f : FFmt) (neg : Bool) : Nat := f.signBit neg + (2 ^ f.ew - 1) * 2 ^ f.mw
/-- Code of the largest finite magnitude. -/
def FFmt.maxCode (f : FFmt) : Nat := if f.hasInf then (2 ^ f.ew - 1) * 2 ^ f.mw - 1 else 2 ^ (f.ew + f.mw) - 2

/-- Decode an encoding (R96, R98). -/
def FFmt.decode (f : FFmt) (x : Nat) : FVal :=
  have neg := bitAt x (f.ew + f.mw)
  have ex := bits x (f.ew + f.mw - 1) f.mw
  have mant := x % 2 ^ f.mw
  if f.hasInf && ex == 2 ^ f.ew - 1 then (if mant = 0 then .inf neg else .nan)
  else if !f.hasInf && f.mw == 3 && ex == 15 && mant == 7 then .nan
  else if ex = 0 then .fin neg mant (1 - (f.bias : Int) - f.mw)
  else .fin neg (mant + 2 ^ f.mw) ((ex : Int) - f.bias - f.mw)

/-- m × 2^(−k) for k ≥ 0, rounded to nearest, ties to even. -/
def roundShift (m k : Nat) : Nat :=
  if k = 0 then m
  else
    have q := m >>> k
    have r := m % 2 ^ k
    have h := 2 ^ (k - 1)
    if r > h ∨ (r = h ∧ q % 2 = 1) then q + 1 else q

/-- round_even(m × 2^e). -/
def roundDy (m : Nat) (e : Int) : Nat := if 0 ≤ e then m <<< e.toNat else roundShift m (-e).toNat

/-- Round a non-zero exact value to a format (R99): code without NaN, whether it saturated. -/
def FFmt.round (f : FFmt) (neg : Bool) (m : Nat) (e : Int) : Nat × Bool :=
  if m = 0 then (f.signBit neg, false)
  else
    have ex : Int := (m.log2 : Int) + e
    have q : Int := max ex (1 - (f.bias : Int)) - f.mw
    have n := roundDy m (e - q)
    let (n, q) := if n = 2 ^ (f.mw + 1) then (2 ^ f.mw, q + 1) else (n, q)
    have code : Int := if n < 2 ^ f.mw then n else (q + f.mw + f.bias) * (2 ^ f.mw : Nat) + ((n : Int) - (2 ^ f.mw : Nat))
    if (f.maxCode : Int) < code then
      if f.hasInf && f.mw != 2 then (f.infBits neg, true) else (f.signBit neg + f.maxCode, true)
    else (f.signBit neg + code.toNat, false)

/-- cvt_float of R99 on a value: the code, and whether a saturation is counted. -/
def FFmt.encode (f : FFmt) : FVal → Nat × Bool
  | .nan => (f.nanBits, false)
  | .inf neg => if f.hasInf then (f.infBits neg, false) else (f.signBit neg + f.maxCode, true)
  | .fin neg m e => f.round neg m e

/-! ### FP32 arithmetic: every operation rounds to nearest, ties to even -/

/-- An FP32 encoding. -/
abbrev F32 := Nat

def f32val (x : F32) : FVal := fmtF32.decode x
def f32of (v : FVal) : F32 := (fmtF32.encode v).1
def f32nan : F32 := 0x7FC00000
def f32isNan (x : F32) : Bool := decide (f32val x = .nan)

def fvNeg : FVal → FVal
  | .nan => .nan
  | .inf n => .inf (!n)
  | .fin n m e => .fin (!n) m e

/-- Exact sum; opposite infinities give NaN, and +0 + −0 is +0 (R63, R65). -/
def fvAdd : FVal → FVal → FVal
  | .nan, _ => .nan
  | _, .nan => .nan
  | .inf a, .inf b => if a = b then .inf a else .nan
  | .inf a, _ => .inf a
  | _, .inf b => .inf b
  | .fin s1 m1 e1, .fin s2 m2 e2 =>
    have e := min e1 e2
    have a : Int := (if s1 then -1 else 1) * ((m1 <<< (e1 - e).toNat : Nat) : Int)
    have b : Int := (if s2 then -1 else 1) * ((m2 <<< (e2 - e).toNat : Nat) : Int)
    have r := a + b
    if r = 0 then .fin (s1 && s2) 0 e else .fin (decide (r < 0)) r.natAbs e

/-- Exact product; an infinity times zero is NaN (R65). -/
def fvMul : FVal → FVal → FVal
  | .nan, _ => .nan
  | _, .nan => .nan
  | .inf a, .inf b => .inf (xor a b)
  | .inf a, .fin b m _ => if m = 0 then .nan else .inf (xor a b)
  | .fin a m _, .inf b => if m = 0 then .nan else .inf (xor a b)
  | .fin a m1 e1, .fin b m2 e2 => .fin (xor a b) (m1 * m2) (e1 + e2)

def f32add (a b : F32) : F32 := f32of (fvAdd (f32val a) (f32val b))
def f32sub (a b : F32) : F32 := f32of (fvAdd (f32val a) (fvNeg (f32val b)))
def f32mul (a b : F32) : F32 := f32of (fvMul (f32val a) (f32val b))
/-- a × b + c, rounded once (Table 3-6). -/
def f32fma (a b c : F32) : F32 := f32of (fvAdd (fvMul (f32val a) (f32val b)) (f32val c))

/-- Quotient of two values with a sticky bit, so that one rounding of it is the correctly rounded quotient. -/
def fvDiv : FVal → FVal → FVal
  | .nan, _ => .nan
  | _, .nan => .nan
  | .inf _, .inf _ => .nan
  | .inf a, .fin b _ _ => .inf (xor a b)
  | .fin a _ _, .inf b => .fin (xor a b) 0 0
  | .fin a m1 e1, .fin b m2 e2 =>
    if m2 = 0 then (if m1 = 0 then .nan else .inf (xor a b))
    else
      have n := m1 <<< 320
      have q := n / m2
      have st := if n % m2 = 0 then 0 else 1
      .fin (xor a b) (2 * q + st) (e1 - e2 - 321)

def f32div (a b : F32) : F32 := f32of (fvDiv (f32val a) (f32val b))

/-- Conversion of an integer to FP32, ties to even (R73, R98). -/
def f32ofInt (i : Int) : F32 := (fmtF32.round (decide (i < 0)) i.natAbs 0).1

/-- a < b on values; false with a NaN. -/
def fvLt : FVal → FVal → Bool
  | .nan, _ => false
  | _, .nan => false
  | .inf true, .inf b => !b
  | .inf true, _ => true
  | .inf false, _ => false
  | .fin _ _ _, .inf b => !b
  | .fin s1 m1 e1, .fin s2 m2 e2 =>
    have e := min e1 e2
    have a : Int := (if s1 then -1 else 1) * ((m1 <<< (e1 - e).toNat : Nat) : Int)
    have b : Int := (if s2 then -1 else 1) * ((m2 <<< (e2 - e).toNat : Nat) : Int)
    decide (a < b)

def f32lt (a b : F32) : Bool := fvLt (f32val a) (f32val b)
def f32le (a b : F32) : Bool := !f32isNan a && !f32isNan b && !f32lt b a
def f32eq (a b : F32) : Bool := !f32isNan a && !f32isNan b && !f32lt a b && !f32lt b a
def f32neg (a : F32) : F32 := if f32isNan a then f32nan else a ^^^ 0x80000000
def f32abs (a : F32) : F32 := a % 2 ^ 31
def f32isNeg (a : F32) : Bool := bitAt a 31
def f32isFinite (a : F32) : Bool := match f32val a with
  | .fin _ _ _ => true
  | _ => false

/-- Larger of two: NaN if either is NaN; +0 over −0 (Table 3-6). -/
def f32max (a b : F32) : F32 :=
  if f32isNan a || f32isNan b then f32nan else if f32lt a b then b else if f32lt b a then a else if f32isNeg a then b else a

def f32min (a b : F32) : F32 :=
  if f32isNan a || f32isNan b then f32nan else if f32lt a b then a else if f32lt b a then b else if f32isNeg a then a else b

/-- round_even of a finite value. -/
def fvRoundInt (neg : Bool) (m : Nat) (e : Int) : Int := have n : Int := roundDy m e; if neg then -n else n

/-- cvt_int (R95): the code, whether a saturation is counted, whether it was NaN. -/
def cvtInt (y : F32) (zp lo hi : Int) : Int × Bool × Bool :=
  match f32val y with
  | .nan => (0, false, true)
  | .inf neg => (if neg then lo else hi, true, false)
  | .fin neg m e =>
    have v := fvRoundInt neg m e + zp
    if hi < v then (hi, true, false) else if v < lo then (lo, true, false) else (v, false, false)

/-- Largest n with n × n ≤ v, by bits from 2^k down. -/
def isqrtGo (v : Nat) : Nat → Nat → Nat
  | 0, r => r
  | k + 1, r => have t := r + 2 ^ k; if t * t ≤ v then isqrtGo v k t else isqrtGo v k r

def isqrt (v : Nat) : Nat := isqrtGo v (v.log2 / 2 + 1) 0

/-- Fixed-point scale of the transcendental functions: 2^-256 (log 14). -/
def fxBits : Nat := 256
def fxOne : Nat := 2 ^ 256

/-- Sum of x^k / k! from k = n on, with fuel. -/
def expSeries (x : Nat) : Nat → Nat → Nat → Nat
  | 0, _, _ => 0
  | f + 1, k, term => term + expSeries x f (k + 1) (term * x / fxOne / (k + 1))

/-- Sum of z^(2k+1) / (2k+1), with fuel. -/
def atanhSeries (z2 : Nat) : Nat → Nat → Nat → Nat
  | 0, _, _ => 0
  | f + 1, k, p => p / (2 * k + 1) + atanhSeries z2 f (k + 1) (p * z2 / fxOne)

/-- ln 2 in fixed point: 2 atanh(1/3). -/
def fxLn2 : Nat := 2 * atanhSeries (fxOne / 9) 100 0 (fxOne / 3)

/-- e to the power x (R85). A finite result is an inexact value with a sticky bit. -/
def fvExp : FVal → FVal
  | .nan => .nan
  | .inf neg => if neg then .fin false 0 0 else .inf false
  | .fin neg m e =>
    if m = 0 then .fin false 1 0
    else if 8 < (m.log2 : Int) + e then (if neg then .fin false 1 (-2000) else .inf false)
    else if (m.log2 : Int) + e < -40 then .fin false (if neg then 2 ^ 40 - 1 else 2 ^ 40 + 1) (-40)
    else
      have x : Int := (if neg then -1 else 1) * ((roundDy m (e + fxBits) : Nat) : Int)
      have k : Int := x / (fxLn2 : Int)
      have r : Int := x - k * fxLn2
      .fin false (2 * expSeries r.toNat 90 0 fxOne + 1) (k - fxBits - 1)

/-- Natural logarithm of a positive value m × 2^e (R85). -/
def fvLogPos (m : Nat) (e : Int) : FVal :=
  have k : Int := (m.log2 : Int) + e
  have f := m <<< (fxBits - m.log2)               -- mantissa in [1, 2) as fixed point
  if f = fxOne ∧ k = 0 then .fin false 0 0
  else
    have z := (f - fxOne) * fxOne / (f + fxOne)
    have l : Int := 2 * atanhSeries (z * z / fxOne) 110 0 z + k * fxLn2
    .fin (decide (l < 0)) (2 * l.natAbs + 1) (-(fxBits : Int) - 1)

def f32exp (x : F32) : F32 := f32of (fvExp (f32val x))
def f32rcp (x : F32) : F32 := f32div 0x3F800000 x
def f32log (x : F32) : F32 :=
  match f32val x with
  | .nan => f32nan
  | .inf neg => if neg then f32nan else x
  | .fin neg m e => if m = 0 then fmtF32.infBits true else if neg then f32nan else f32of (fvLogPos m e)

/-- 1 ÷ √x, correctly rounded (R85). The spec names +0 only: the result of −0 is a free value (log 14). -/
def f32rsqrt (x : F32) : F32 :=
  match f32val x with
  | .nan => f32nan
  | .inf neg => if neg then f32nan else 0
  | .fin neg m e =>
    if m = 0 then (if neg then Config.rsqrtNegZero.toNat else fmtF32.infBits false)
    else if neg then f32nan
    else
      let (m, e) := if e % 2 = 0 then (m, e) else (2 * m, e - 1)
      have n := 2 ^ 400
      have q := n / m
      have t := isqrt q
      have st := if t * t = q ∧ n % m = 0 then 0 else 1
      f32of (.fin false (2 * t + st) (-200 - e / 2 - 1))

/-! ### Elements by format code (Table 3-3) -/

def fmtInt8 : Nat := 0
def fmtInt4 : Nat := 1

/-- Floating layout of a format code, if it is one. -/
def ffmtOf (c : Nat) : Option FFmt :=
  if c = 2 then some fmtE4m3 else if c = 3 then some fmtE5m2 else if c = 4 then some fmtBf16 else if c = 5 then some fmtF16
  else if c = 6 then some fmtF32 else none

/-- Bits per element of a plain format. -/
def fmtBits (c : Nat) : Nat :=
  if c = 1 ∨ c = 0xC ∨ c = 9 then 4 else if c = 4 ∨ c = 5 then 16 else if c = 6 ∨ c = 7 then 32 else 8

/-- Bytes of n elements of a plain format. -/
def fmtBytes (c n : Nat) : Nat := ceilDiv (n * fmtBits c) 8

/-- Code of element i of a packed list of a plain format (R94: lower index in the low bits). -/
def elemCode (c : Nat) (bs : List Byte) (i : Nat) : Nat :=
  if fmtBits c = 4 then bits (leAt bs (i / 2) 1) (4 * (i % 2) + 3) (4 * (i % 2)) else leAt bs (i * (fmtBits c / 8)) (fmtBits c / 8)

/-- Integer value of a code (INT8, INT4, INT32). -/
def intVal (c code : Nat) : Int := toSigned (fmtBits c) code

/-- FP32 value of a code, widened exactly (R98; INT32 rounds). -/
def widen (c code : Nat) : F32 :=
  match ffmtOf c with
  | some f => f32of (f.decode code)
  | none => f32ofInt (intVal c code)

/-- FP32 value of element i. -/
def elemF32 (c : Nat) (bs : List Byte) (i : Nat) : F32 := widen c (elemCode c bs i)

/-- Convert an FP32 result to a code of FMT_OUT (R73, R95, R99): code, saturated, NaN. -/
def cvtOut (c : Nat) (zp : Int) (y : F32) : Nat × Bool × Bool :=
  match ffmtOf c with
  | some f => let (b, st) := f.encode (f32val y); (b, st, f32isNan y)
  | none =>
    have w := fmtBits c
    let (v, st, nan) := cvtInt y zp (-((2 ^ (w - 1) : Nat) : Int)) ((2 ^ (w - 1) : Nat) - 1)
    (ofSigned w v, st, nan)

/-- Pack codes of a plain format into bytes. -/
def packCodes (c : Nat) (l : List Nat) : List Byte :=
  if fmtBits c = 4 then
    let rec go : List Nat → List Byte
      | [] => []
      | [a] => leBytes 1 (a % 16)
      | a :: b :: r => leBytes 1 (a % 16 + 16 * (b % 16)) ++ go r
    go l
  else (l.map (leBytes (fmtBits c / 8))).flatten

/-! ### FACET and MX blocks (R100 to R107) -/

/-- One 32-element block as the block stage of R72 takes it: codes as integers or FP32, scale, wide values, side list (POS, VALUE). -/
structure Blk where
  mode : Nat
  ints : List Int
  flts : List F32
  sa : F32
  side : List (Nat × F32)
  len : Nat
  deriving DecidableEq, Repr

/-- Code bytes of a block format: 32 codes of 8 or 4 bits. -/
def blkC (fmt : Nat) : Nat := if fmt = 9 ∨ fmt = 0xC then 16 else 32

/-- Parse the block at the front of a byte list (R100 to R104). -/
def parseBlk (fmt : Nat) (bs : List Byte) : Blk :=
  have h := leAt bs 0 4
  have c := blkC fmt
  have w := if c = 16 then 1 else 0
  have code (off i : Nat) := elemCode w (bs.drop off) i
  if fmt = 8 ∨ fmt = 9 then
    have esc : Int := if fmt = 8 then -128 else -8
    match bits h 31 30 with
    | 0 =>
      have n := bits h 29 27
      have ints := (List.range 32).map (fun i => have v := intVal w (code 4 i); if v = esc then 0 else v)
      have side := (List.range n).map (fun k => have e := leAt bs (4 + c + 4 * k) 4; (bits e 20 16, widen 4 (bits e 15 0)))
      { mode := 0, ints := ints, flts := [], sa := widen 4 (bits h 15 0), side := side, len := 4 + c + 4 * n }
    | 1 => { mode := 1, ints := List.replicate 32 1, flts := [], sa := leAt bs 4 4, side := [], len := 8 + c }
    | _ => { mode := 2, ints := [], flts := (List.range 32).map (fun i => widen 4 (leAt bs (4 + 2 * i) 2)), sa := 0x3F800000, side := [], len := 68 }
  else
    have e := leAt bs 0 1
    have sc (x : Nat) : F32 := if e = 255 then f32nan else f32of (.fin false 1 ((e : Int) - x))
    if fmt = 0xA then
      { mode := 0, ints := (List.range 32).map (fun i => intVal 0 (code 4 i)), flts := [], sa := sc 133, side := [], len := 4 + c }
    else
      have f := if fmt = 0xB then fmtE4m3 else fmtE2m1
      { mode := 0, ints := [], flts := (List.range 32).map (fun i => f32of (f.decode (code 4 i))), sa := sc 127, side := [], len := 4 + c }

/-- The first n blocks of a byte list. -/
def parseBlks (fmt : Nat) : Nat → List Byte → List Blk
  | 0, _ => []
  | n + 1, bs => have b := parseBlk fmt bs; b :: parseBlks fmt n (bs.drop b.len)

/-- facet_value of R105 for a FACET block given by its bytes. -/
def facetValue (fmt : Nat) (bs : List Byte) (i : Nat) : F32 :=
  have b := parseBlk fmt bs
  match b.mode with
  | 1 => b.sa
  | 2 => (b.flts[i]?).getD 0
  | _ =>
    match b.side.find? (fun e => e.1 == i) with
    | some e => e.2
    | none => f32mul (f32ofInt ((b.ints[i]?).getD 0)) b.sa

/-- |v| of BF16 codes compares as their low 15 bits do. -/
def bfMag (v : Nat) : Nat := v % 2 ^ 15

/-- Positions ordered by magnitude descending, ties to the lower position. -/
def rankPos (v : List Nat) : List Nat :=
  sortBy (List.range v.length) (fun a b =>
    have x := bfMag ((v[a]?).getD 0)
    have y := bfMag ((v[b]?).getD 0)
    decide (y < x) || (x == y && decide (a ≤ b)))

/-- The FACET encoder of R107 over 32 BF16 codes; QMAX 127 (FACET8) or 7 (FACET4). -/
def facetEncode (v : List Nat) (qmax : Nat) : List Byte :=
  have fs := v.map (widen 4)
  have esc : Nat := if qmax = 127 then 0x80 else 0x8
  have w := if qmax = 127 then 0 else 1
  have anyNan := fs.any f32isNan
  have f0 := fs.headD 0
  have wide : List Byte := leBytes 4 (2 * 2 ^ 30) ++ (v.map (leBytes 2)).flatten
  if !anyNan && fs.all (fun x => f32eq x f0) then
    have c := if f0 = 0x80000000 then 0 else f0
    leBytes 4 (2 ^ 30) ++ leBytes 4 c ++ List.replicate (if qmax = 127 then 32 else 16) 0
  else if fs.any (fun x => !f32isFinite x) then wide
  else
    have rank := rankPos v
    have at0 (i : Nat) : F32 := f32abs ((fs[i]?).getD 0)
    have m8 := at0 ((rank[8]?).getD 0)
    have big (i : Nat) : Bool := fvLt (fvMul (f32val 0x41000000) (f32val m8)) (f32val (at0 i))
    have n := if m8 = 0 then 0 else ((List.range 32).filter big).length
    if 4 < n then wide
    else
      have escaped := rank.take n
      have m := (List.range 32).foldl (fun a i => if escaped.contains i then a else f32max a (at0 i)) 0
      have scale : Nat :=
        if m = 0 then 0x3F80
        else
          have t := f32div m (f32ofInt qmax)
          t / 65536 + (if t % 65536 = 0 then 0 else 1)
      have codes := (List.range 32).map (fun i =>
         if escaped.contains i then esc
         else
           have q := f32val (f32div ((fs[i]?).getD 0) (widen 4 scale))
           match q with
           | .fin neg mm e => ofSigned (fmtBits w) (clampI (fvRoundInt neg mm e) (-(qmax : Int)) qmax)
           | _ => 0)
      have side := ((List.range 32).filter (fun i => escaped.contains i)).map (fun i => leBytes 4 (i * 2 ^ 16 + (v[i]?).getD 0))
      leBytes 4 (n * 2 ^ 27 + scale) ++ packCodes w codes ++ side.flatten

end Sys2Proof.Machine
end

