-- ==== Sys2Proof/Machine/Keccak.lean ====
section
/-! DEFINITION. SHAKE256 (R421 names FIPS 202): Keccak-f[1600] with rate 136 bytes. -/

namespace Sys2Proof.Machine
open Sys2Proof
set_option Elab.async false

/-- Left rotation of a 64-bit lane. -/
def rotl64 (x n : Nat) : Nat := have n := n % 64; (x * 2 ^ n + x / 2 ^ (64 - n)) % 2 ^ 64

/-- Round constants of Keccak-f[1600] (FIPS 202). -/
def keccakRc : List Nat :=
  [0x0000000000000001, 0x0000000000008082, 0x800000000000808A, 0x8000000080008000, 0x000000000000808B, 0x0000000080000001,
   0x8000000080008081, 0x8000000000008009, 0x000000000000008A, 0x0000000000000088, 0x0000000080008009, 0x000000008000000A,
   0x000000008000808B, 0x800000000000008B, 0x8000000000008089, 0x8000000000008003, 0x8000000000008002, 0x8000000000000080,
   0x000000000000800A, 0x800000008000000A, 0x8000000080008081, 0x8000000000008080, 0x0000000080000001, 0x8000000080008008]

/-- Rotation of lane x + 5 × y (FIPS 202). -/
def keccakRot : List Nat :=
  [0, 1, 62, 28, 27, 36, 44, 6, 55, 20, 3, 10, 43, 25, 39, 41, 45, 15, 21, 8, 18, 2, 61, 56, 14]

/-- One round on 25 lanes. -/
def keccakRound (a : List Nat) (rc : Nat) : List Nat :=
  have l (l : List Nat) (i : Nat) : Nat := (l[i]?).getD 0
  have c := (List.range 5).map (fun x => l a x ^^^ l a (x + 5) ^^^ l a (x + 10) ^^^ l a (x + 15) ^^^ l a (x + 20))
  have d := (List.range 5).map (fun x => l c ((x + 4) % 5) ^^^ rotl64 (l c ((x + 1) % 5)) 1)
  have a := (List.range 25).map (fun i => l a i ^^^ l d (i % 5))
  -- B[y, 2x + 3y] = rot(A[x, y])
  have b := (List.range 25).map (fun i =>
     have x' := i % 5
     have y' := i / 5
     -- x = x' + 3y', y = x' inverts x' = y, y' = 2x + 3y
     have x := (x' + 3 * y') % 5
     have y := x'
     rotl64 (l a (x + 5 * y)) (l keccakRot (x + 5 * y)))
  have a := (List.range 25).map (fun i =>
     have x := i % 5
     have y := i / 5
     l b i ^^^ ((2 ^ 64 - 1 - l b ((x + 1) % 5 + 5 * y)) &&& l b ((x + 2) % 5 + 5 * y)))
  a.set 0 (l a 0 ^^^ rc)

def keccakF (a : List Nat) : List Nat := keccakRc.foldl keccakRound a

/-- XOR a 136-byte block into the state and permute. -/
def keccakAbsorb (a : List Nat) (blk : List Byte) : List Nat :=
  keccakF ((List.range 25).map (fun i => (a[i]?).getD 0 ^^^ (if i < 17 then leAt blk (8 * i) 8 else 0)))

/-- Padding of SHAKE256: 0x1F, zeros, last bit of the block. -/
def shakePad (bs : List Byte) : List Byte :=
  have r := 136 - bs.length % 136
  if r = 1 then bs ++ [0x9F] else bs ++ [0x1F] ++ List.replicate (r - 2) 0 ++ [0x80]

/-- Absorb n blocks. -/
def shakeAbsorb : Nat → List Nat → List Byte → List Nat
  | 0, a, _ => a
  | n + 1, a, bs => shakeAbsorb n (keccakAbsorb a (bs.take 136)) (bs.drop 136)

/-- Squeeze n blocks of 136 bytes. -/
def shakeSqueeze : Nat → List Nat → List Byte
  | 0, _ => []
  | n + 1, a => ((a.take 17).map (leBytes 8)).flatten ++ shakeSqueeze n (keccakF a)

/-- SHAKE256 of a byte list, n output bytes. -/
def shake256 (bs : List Byte) (n : Nat) : List Byte :=
  have p := shakePad bs
  (shakeSqueeze (ceilDiv n 136) (shakeAbsorb (p.length / 136) (List.replicate 25 0) p)).take n

end Sys2Proof.Machine
end

