-- ==== Sys2Proof/Machine/Mem.lean ====
section
/-! DEFINITION. Sparse storage in one canonical form: keys strictly rising, no entry equal to what an unlisted key reads as. -/

namespace Sys2Proof.Machine
set_option Elab.async false

/-- Find the entry of a key in a sorted list. -/
def smFind {α : Type} : List (Nat × α) → Nat → Option α
  | [], _ => none
  | (k, v) :: r, a => if k = a then some v else smFind r a

/-- Insert or replace the entry of a key, keeping the keys rising. -/
def smInsert {α : Type} : List (Nat × α) → Nat → α → List (Nat × α)
  | [], a, x => [(a, x)]
  | (k, v) :: r, a, x =>
    if a < k then (a, x) :: (k, v) :: r
    else if k = a then (a, x) :: r
    else (k, v) :: smInsert r a x

/-- Remove the entry of a key. -/
def smErase {α : Type} : List (Nat × α) → Nat → List (Nat × α)
  | [], _ => []
  | (k, v) :: r, a => if k = a then r else (k, v) :: smErase r a

/-- Read a key; an unlisted key reads its default. -/
def smGet {α : Type} (d : Nat → α) (m : List (Nat × α)) (a : Nat) : α := (smFind m a).getD (d a)

/-- Write a key; writing the default removes the entry. -/
def smSet {α : Type} [DecidableEq α] (d : Nat → α) (m : List (Nat × α)) (a : Nat) (x : α) : List (Nat × α) :=
  if x = d a then smErase m a else smInsert m a x

/-- Every key of a list is above a bound. -/
def smAbove {α : Type} (b : Nat) (m : List (Nat × α)) : Prop := ∀ p ∈ m, b < p.1

/-- The canonical form: keys strictly rising and no entry equal to its default. -/
def smWf {α : Type} [DecidableEq α] (d : Nat → α) : List (Nat × α) → Prop
  | [] => True
  | (k, v) :: r => v ≠ d k ∧ smAbove k r ∧ smWf d r

/-- The canonical form as a truth value. -/
def smWfB {α : Type} [DecidableEq α] (d : Nat → α) : List (Nat × α) → Bool
  | [] => true
  | (k, v) :: r => decide (v ≠ d k) && r.all (fun p => decide (k < p.1)) && smWfB d r

/-- Write a list of values at successive keys. -/
def smSetList {α : Type} [DecidableEq α] (d : Nat → α) : List (Nat × α) → Nat → List α → List (Nat × α)
  | m, _, [] => m
  | m, a, x :: xs => smSetList d (smSet d m a x) (a + 1) xs

/-- Read n values at successive keys. -/
def smGetList {α : Type} (d : Nat → α) (m : List (Nat × α)) (a : Nat) : Nat → List α
  | 0 => []
  | n + 1 => smGet d m a :: smGetList d m (a + 1) n

end Sys2Proof.Machine
end

