-- ==== Sys2Proof/Machine/Kinds.lean ====
section
/-! DEFINITION. Fault kinds (the kind tables of the chapters): names, codes, default severities (R343), floors (R323). -/

namespace Sys2Proof.Machine
set_option Elab.async false

/-- Severity codes of R320. -/
abbrev Sev := Nat

/-- The fault kinds by the name of their table. -/
inductive Kind where
  | BUDGET -- R58
  | LATE_ISSUE -- R58
  | BELL_OVERRUN -- R58
  | BARRIER_MISS -- R58
  | SEQ_MISMATCH -- R58
  | DEADLINE -- R58
  | TILE_CRC -- R58
  | TILE_ID -- R58
  | TILE_LENGTH -- R58
  | VOID_UNEXPECTED -- R58
  | TILE_BELL -- R58
  | TILE_INDEX -- R58
  | DIGEST_MISMATCH -- R58
  | DIGEST_MISSING -- R58
  | NO_SPARE -- R58
  | NUM_NAN -- R89
  | DRAIN_STALL -- R89
  | SPARE_LOW -- R89
  | SCATTER_RANGE -- R89
  | SCALE_LIMIT -- R117
  | CODEC_FORMAT -- R139
  | DET_CAND_OVF -- R139
  | DET_NONFINITE -- R139
  | KV_POOL_FULL -- R171
  | KV_CTX_LIMIT -- R171
  | KV_BUCKET_FULL -- R171
  | KV_NONFINITE -- R171
  | KV_PAGE_ID -- R171
  | KV_LATE -- R171
  | KV_RECLAIM -- R171
  | KV_CONTROL -- R171
  | SRAM_CE -- R196
  | SRAM_UE -- R196
  | SRAM_UE_CODE -- R196
  | SRAM_STUCK -- R196
  | BANK_DRAIN -- R196
  | BANK_OFF -- R196
  | OCM_ACCESS -- R196
  | LOCKET_UE -- R196
  | HBM_CE -- R215
  | HBM_UE -- R215
  | HBM_LINK -- R215
  | HBM_STUCK -- R215
  | HBM_ACCESS -- R215
  | HBM_HOT -- R215
  | HBM_OVERTEMP -- R215
  | HBM_TEMP_READ -- R215
  | HBM_TRAIN -- R215
  | CAM_LINK -- R248
  | CAM_HDR -- R248
  | CAM_LINE_CRC -- R248
  | CAM_CORRUPT -- R248
  | CAM_DROP -- R248
  | CAM_TRIG -- R248
  | CAM_SKIP -- R248
  | FB_CRC -- R248
  | TAG_UNKNOWN -- R248
  | CAM_I2C -- R248
  | CAM_POC -- R248
  | TAP_DROP -- R248
  | LID_BAD_PKT -- R273
  | LID_SAMPLE_VOID -- R273
  | VOX_OVERFLOW -- R273
  | LID_OVERRUN -- R273
  | EGO_STALE -- R273
  | EGO_REJECT -- R273
  | VOX_TRUNC -- R273
  | INGEST_LATE -- R273
  | TIME_NO_LOCK -- R303
  | TIME_OFFSET -- R303
  | TIME_HOLDOVER -- R303
  | TIME_RATE -- R303
  | TIME_LATE_STEP -- R303
  | PTP_BAD -- R303
  | JXL_VERSION -- R303
  | JXL_SKEW -- R303
  | JXL_LINK -- R303
  | JXL_NO_GO -- R303
  | JXL_PEER_LOST -- R303
  | JXL_READY_TIMEOUT -- R303
  | JXL_STRAY_GO -- R303
  | AGE_LIMIT -- R335
  | PROCTOR_MISMATCH -- R335
  | CONTEST_LIMIT -- R335
  | FALLBACK_GAP -- R335
  | SAFE_REQUEST -- R335
  | PLAN_SWITCH -- R335
  | SAFE_EXIT -- R335
  | LOCKSTEP -- R374
  | LKS_LATENT -- R374
  | ROLL_COMPARE -- R374
  | L2_CE -- R374
  | L2_UE -- R374
  | GATE_MISS -- R374
  | ALIVE_FB -- R374
  | FLT_MERGE -- R374
  | REG_DENIED -- R374
  | GB_PERSIST_LOST -- R374
  | DEBUG_ACTIVE -- R374
  | COVERAGE_MISSED -- R399
  | STRAND_FAIL -- R399
  | UNIT_TEST_FAIL -- R399
  | REPLAY_RESULT -- R399
  | UNATTR_LIMIT -- R399
  | RUBRIC_FAIL -- R399
  | WEIGHT_DIGEST -- R399
  | TEST_REQUEST -- R399
  | PHASE_ALIGN -- R435
  | TAMPER -- R435
  | SIG_FAIL -- R435
  | ROLLBACK -- R435
  | LC_EVENT -- R435
  | UNLOCK -- R435
  | ATTEST -- R435
  | REPLAY_INPUT -- R435
  | IMG_REJECT -- R459
  | STAGE_EVENT -- R459
  | CLK_LOSS -- R481
  | ROLL_FAIL -- R481
  | OUT_FORMAT -- R513
  | OUT_PORT -- R513
  | POWER_WARN -- R540
  | POWER_LIMIT -- R540
  | FW_0 -- R362
  | FW_1 -- R362
  | FW_2 -- R362
  | FW_3 -- R362
  | FW_4 -- R362
  | FW_5 -- R362
  | FW_6 -- R362
  | FW_7 -- R362
  deriving DecidableEq, Repr

/-- Kind codes (R342 and the kind tables). -/
def Kind.code : Kind → Nat
  | .BUDGET => 0x01
  | .LATE_ISSUE => 0x02
  | .BELL_OVERRUN => 0x03
  | .BARRIER_MISS => 0x04
  | .SEQ_MISMATCH => 0x05
  | .DEADLINE => 0x10
  | .TILE_CRC => 0x11
  | .TILE_ID => 0x12
  | .TILE_LENGTH => 0x13
  | .VOID_UNEXPECTED => 0x14
  | .TILE_BELL => 0x15
  | .TILE_INDEX => 0x16
  | .DIGEST_MISMATCH => 0x20
  | .DIGEST_MISSING => 0x21
  | .NO_SPARE => 0x30
  | .NUM_NAN => 0x40
  | .DRAIN_STALL => 0x41
  | .SPARE_LOW => 0x42
  | .SCATTER_RANGE => 0x43
  | .SCALE_LIMIT => 0x44
  | .CODEC_FORMAT => 0x50
  | .DET_CAND_OVF => 0x51
  | .DET_NONFINITE => 0x52
  | .KV_POOL_FULL => 0x60
  | .KV_CTX_LIMIT => 0x61
  | .KV_BUCKET_FULL => 0x62
  | .KV_NONFINITE => 0x63
  | .KV_PAGE_ID => 0x64
  | .KV_LATE => 0x65
  | .KV_RECLAIM => 0x66
  | .KV_CONTROL => 0x67
  | .SRAM_CE => 0x70
  | .SRAM_UE => 0x71
  | .SRAM_UE_CODE => 0x72
  | .SRAM_STUCK => 0x73
  | .BANK_DRAIN => 0x74
  | .BANK_OFF => 0x75
  | .OCM_ACCESS => 0x76
  | .LOCKET_UE => 0x77
  | .HBM_CE => 0x80
  | .HBM_UE => 0x81
  | .HBM_LINK => 0x82
  | .HBM_STUCK => 0x83
  | .HBM_ACCESS => 0x84
  | .HBM_HOT => 0x85
  | .HBM_OVERTEMP => 0x86
  | .HBM_TEMP_READ => 0x87
  | .HBM_TRAIN => 0x88
  | .CAM_LINK => 0x90
  | .CAM_HDR => 0x91
  | .CAM_LINE_CRC => 0x92
  | .CAM_CORRUPT => 0x93
  | .CAM_DROP => 0x94
  | .CAM_TRIG => 0x95
  | .CAM_SKIP => 0x96
  | .FB_CRC => 0x97
  | .TAG_UNKNOWN => 0x98
  | .CAM_I2C => 0x99
  | .CAM_POC => 0x9A
  | .TAP_DROP => 0x9B
  | .LID_BAD_PKT => 0xA0
  | .LID_SAMPLE_VOID => 0xA1
  | .VOX_OVERFLOW => 0xA2
  | .LID_OVERRUN => 0xA3
  | .EGO_STALE => 0xA4
  | .EGO_REJECT => 0xA5
  | .VOX_TRUNC => 0xA6
  | .INGEST_LATE => 0xA7
  | .TIME_NO_LOCK => 0xB0
  | .TIME_OFFSET => 0xB1
  | .TIME_HOLDOVER => 0xB2
  | .TIME_RATE => 0xB3
  | .TIME_LATE_STEP => 0xB4
  | .PTP_BAD => 0xB5
  | .JXL_VERSION => 0xB8
  | .JXL_SKEW => 0xB9
  | .JXL_LINK => 0xBA
  | .JXL_NO_GO => 0xBB
  | .JXL_PEER_LOST => 0xBC
  | .JXL_READY_TIMEOUT => 0xBD
  | .JXL_STRAY_GO => 0xBE
  | .AGE_LIMIT => 0xC0
  | .PROCTOR_MISMATCH => 0xC1
  | .CONTEST_LIMIT => 0xC2
  | .FALLBACK_GAP => 0xC3
  | .SAFE_REQUEST => 0xC4
  | .PLAN_SWITCH => 0xC5
  | .SAFE_EXIT => 0xC6
  | .LOCKSTEP => 0xD0
  | .LKS_LATENT => 0xD1
  | .ROLL_COMPARE => 0xD2
  | .L2_CE => 0xD3
  | .L2_UE => 0xD4
  | .GATE_MISS => 0xD5
  | .ALIVE_FB => 0xD6
  | .FLT_MERGE => 0xD7
  | .REG_DENIED => 0xD8
  | .GB_PERSIST_LOST => 0xD9
  | .DEBUG_ACTIVE => 0xDA
  | .COVERAGE_MISSED => 0xE0
  | .STRAND_FAIL => 0xE1
  | .UNIT_TEST_FAIL => 0xE2
  | .REPLAY_RESULT => 0xE3
  | .UNATTR_LIMIT => 0xE4
  | .RUBRIC_FAIL => 0xE5
  | .WEIGHT_DIGEST => 0xE6
  | .TEST_REQUEST => 0xE7
  | .PHASE_ALIGN => 0xE8
  | .TAMPER => 0xE9
  | .SIG_FAIL => 0xEA
  | .ROLLBACK => 0xEB
  | .LC_EVENT => 0xEC
  | .UNLOCK => 0xED
  | .ATTEST => 0xEE
  | .REPLAY_INPUT => 0xEF
  | .IMG_REJECT => 0xF0
  | .STAGE_EVENT => 0xF1
  | .CLK_LOSS => 0xF2
  | .ROLL_FAIL => 0xF3
  | .OUT_FORMAT => 0xF4
  | .OUT_PORT => 0xF5
  | .POWER_WARN => 0xF6
  | .POWER_LIMIT => 0xF7
  | .FW_0 => 0xF8
  | .FW_1 => 0xF9
  | .FW_2 => 0xFA
  | .FW_3 => 0xFB
  | .FW_4 => 0xFC
  | .FW_5 => 0xFD
  | .FW_6 => 0xFE
  | .FW_7 => 0xFF

def kindTable0 : List (Nat × Nat × Nat) := [
  (0x01, 3, 3), (0x02, 3, 3), (0x03, 3, 3), (0x04, 3, 3), (0x05, 4, 4), (0x10, 3, 3), (0x11, 3, 3), (0x12, 3, 3), (0x13, 3, 3), (0x14, 0, 0), (0x15, 3, 3), (0x16, 3, 3), (0x20, 3, 3), (0x21, 3, 3), (0x30, 4, 4), (0x40, 0, 0), (0x41, 0, 0), (0x42, 2, 2), (0x43, 3, 3), (0x44, 0, 0), (0x50, 3, 3), (0x51, 0, 0), (0x52, 0, 0), (0x60, 3, 3), (0x61, 0, 0), (0x62, 3, 3), (0x63, 3, 3), (0x64, 3, 3), (0x65, 3, 3), (0x66, 0, 0), (0x67, 0, 0), (0x70, 1, 1), (0x71, 3, 3), (0x72, 2, 2), (0x73, 2, 0), (0x74, 0, 0), (0x75, 3, 3), (0x76, 0, 0), (0x77, 0, 0), (0x80, 1, 1)]
def kindTable1 : List (Nat × Nat × Nat) := [
  (0x81, 3, 3), (0x82, 0, 0), (0x83, 0, 0), (0x84, 0, 0), (0x85, 0, 0), (0x86, 4, 4), (0x87, 0, 0), (0x88, 5, 5), (0x90, 3, 3), (0x91, 0, 0), (0x92, 0, 0), (0x93, 3, 3), (0x94, 0, 0), (0x95, 0, 0), (0x96, 0, 0), (0x97, 3, 3), (0x98, 0, 0), (0x99, 0, 0), (0x9A, 3, 3), (0x9B, 0, 0), (0xA0, 0, 0), (0xA1, 3, 3), (0xA2, 3, 3), (0xA3, 3, 3), (0xA4, 3, 3), (0xA5, 0, 0), (0xA6, 0, 0), (0xA7, 3, 3), (0xB0, 0, 0), (0xB1, 4, 4), (0xB2, 0, 0), (0xB3, 0, 0), (0xB4, 3, 3), (0xB5, 0, 0), (0xB8, 0, 0), (0xB9, 3, 3), (0xBA, 0, 0), (0xBB, 0, 0), (0xBC, 3, 3), (0xBD, 0, 0)]
def kindTable2 : List (Nat × Nat × Nat) := [
  (0xBE, 0, 0), (0xC0, 3, 3), (0xC1, 0, 0), (0xC2, 4, 4), (0xC3, 4, 4), (0xC4, 4, 4), (0xC5, 0, 0), (0xC6, 0, 0), (0xD0, 4, 4), (0xD1, 2, 4), (0xD2, 2, 5), (0xD3, 1, 1), (0xD4, 3, 3), (0xD5, 4, 4), (0xD6, 4, 4), (0xD7, 0, 0), (0xD8, 0, 0), (0xD9, 0, 0), (0xDA, 0, 0), (0xE0, 2, 2), (0xE1, 3, 3), (0xE2, 2, 3), (0xE3, 0, 0), (0xE4, 2, 2), (0xE5, 0, 0), (0xE6, 3, 3), (0xE7, 0, 0), (0xE8, 5, 5), (0xE9, 4, 4), (0xEA, 0, 0), (0xEB, 0, 0), (0xEC, 0, 0), (0xED, 0, 0), (0xEE, 0, 0), (0xEF, 0, 0), (0xF0, 0, 0), (0xF1, 0, 0), (0xF2, 0, 0), (0xF3, 5, 5), (0xF4, 3, 3)]
def kindTable3 : List (Nat × Nat × Nat) := [
  (0xF5, 0, 0), (0xF6, 0, 0), (0xF7, 4, 4), (0xF8, 0, 0), (0xF9, 0, 0), (0xFA, 0, 0), (0xFB, 0, 0), (0xFC, 0, 0), (0xFD, 0, 0), (0xFE, 0, 0), (0xFF, 0, 0)]
/-- (code, default CORE severity, default CHIP severity); a "—" takes the other value (R343). -/
def kindTable : List (Nat × Nat × Nat) := kindTable0 ++ kindTable1 ++ kindTable2 ++ kindTable3

/-- Default severity of a kind code for a source inside (core) or outside a core; a code no table gives is LOG. -/
def kindDefault (core : Bool) (code : Nat) : Sev :=
  match kindTable.find? (fun r => r.1 == code) with
  | some r => if core then r.2.1 else r.2.2
  | none => 0

/-- Severity floors of Table 12-7 (R323); 0 where the table lists none. -/
def kindFloor (code : Nat) : Sev :=
  if code == Kind.SEQ_MISMATCH.code || code == Kind.LOCKSTEP.code || code == Kind.NO_SPARE.code ||
     code == Kind.HBM_OVERTEMP.code || code == Kind.CONTEST_LIMIT.code || code == Kind.FALLBACK_GAP.code ||
     code == Kind.SAFE_REQUEST.code || code == Kind.POWER_LIMIT.code then 4
  else if code == Kind.HBM_TRAIN.code then 5
  else if code == Kind.TIME_OFFSET.code || code == Kind.BELL_OVERRUN.code || code == Kind.DIGEST_MISMATCH.code ||
     code == Kind.DIGEST_MISSING.code || code == Kind.AGE_LIMIT.code then 3
  else if code == Kind.SRAM_UE_CODE.code || code == Kind.SPARE_LOW.code || code == Kind.COVERAGE_MISSED.code then 2
  else 0

/-- SAFE entered through these kinds is left by a reset only (Table 12-7; POWER_LIMIT by a start, 19). -/
def kindResetOnly (code : Nat) : Bool :=
  code == Kind.SEQ_MISMATCH.code || code == Kind.LOCKSTEP.code || code == Kind.NO_SPARE.code ||
  code == Kind.HBM_OVERTEMP.code || code == Kind.TIME_OFFSET.code || code == Kind.POWER_LIMIT.code

end Sys2Proof.Machine
end

