-- ==== Sys2Proof/Machine/Registers.lean ====
section
/-! DEFINITION. Every register of the part (chapter tables and 20 Table 20-3, 20-4): addresses, fields, access codes
and reset values. A value that depends on the image or on fuses is 0 here (assumption log 2) except the fuses of log 3. -/

namespace Sys2Proof.Machine
set_option Elab.async false

/-- A register field: the absolute address of its register and its bit range [hi:lo]. -/
structure Fld where
  addr : Nat
  hi : Nat
  lo : Nat
  deriving DecidableEq, Repr

/-- Access codes of R12. -/
inductive Acc where
  | ro | rw | wo | w1c | rc
  deriving DecidableEq, Repr

/-- One row of the register tables: base address, the strides and counts of its indices, and (hi, lo, access, reset). -/
structure RegRow where
  name : String
  base : Nat
  dims : List (Nat × Nat)
  fields : List (Nat × Nat × Acc × Nat)
  deriving DecidableEq, Repr

end Sys2Proof.Machine

namespace Sys2Proof.Machine

/-- CHIP_REMAP, R57 of 02_stations_timetable.md. -/
def A.CHIP_REMAP (i : Nat) : Nat := 0x2000000400 + 4 * i
/-- CHIP_SPARE, R57 of 02_stations_timetable.md. -/
def A.CHIP_SPARE : Nat := 0x2000000500
/-- TT_STATUS, R60 of 02_stations_timetable.md. -/
def A.TT_STATUS (i : Nat) : Nat := 0x2010004000 + 1048576 * i
/-- TT_CYCLE, R60 of 02_stations_timetable.md. -/
def A.TT_CYCLE (i : Nat) : Nat := 0x2010004004 + 1048576 * i
/-- TT_BELL, R60 of 02_stations_timetable.md. -/
def A.TT_BELL (i : Nat) : Nat := 0x2010004008 + 1048576 * i
/-- TT_LEN, R60 of 02_stations_timetable.md. -/
def A.TT_LEN (i : Nat) : Nat := 0x201000400c + 1048576 * i
/-- TT_PC, R60 of 02_stations_timetable.md. -/
def A.TT_PC (i : Nat) : Nat := 0x2010004010 + 1048576 * i
/-- TT_FLT_CNT, R60 of 02_stations_timetable.md. -/
def A.TT_FLT_CNT (i : Nat) : Nat := 0x2010004020 + 1048576 * i
/-- TT_LAST_FLT, R60 of 02_stations_timetable.md. -/
def A.TT_LAST_FLT (i : Nat) : Nat := 0x2010004024 + 1048576 * i
/-- TT_LAST_CYC, R60 of 02_stations_timetable.md. -/
def A.TT_LAST_CYC (i : Nat) : Nat := 0x2010004028 + 1048576 * i
/-- TT_SLACK_MIN, R60 of 02_stations_timetable.md. -/
def A.TT_SLACK_MIN (i : Nat) : Nat := 0x201000402c + 1048576 * i
/-- TT_SEQ_CMP, R60 of 02_stations_timetable.md. -/
def A.TT_SEQ_CMP (i : Nat) : Nat := 0x2010004030 + 1048576 * i
/-- ENG_STATUS, R90 of 03_strand_engines.md. -/
def A.ENG_STATUS (i : Nat) (j : Nat) : Nat := 0x2010002000 + 1048576 * i + 256 * j
/-- ENG_STEP, R90 of 03_strand_engines.md. -/
def A.ENG_STEP (i : Nat) (j : Nat) : Nat := 0x2010002004 + 1048576 * i + 256 * j
/-- ENG_RETIRED, R90 of 03_strand_engines.md. -/
def A.ENG_RETIRED (i : Nat) (j : Nat) : Nat := 0x2010002008 + 1048576 * i + 256 * j
/-- ENG_SLOTS, R90 of 03_strand_engines.md. -/
def A.ENG_SLOTS (i : Nat) (j : Nat) : Nat := 0x201000200c + 1048576 * i + 256 * j
/-- ENG_BUBBLES, R90 of 03_strand_engines.md. -/
def A.ENG_BUBBLES (i : Nat) (j : Nat) : Nat := 0x2010002010 + 1048576 * i + 256 * j
/-- ENG_SAT, R90 of 03_strand_engines.md. -/
def A.ENG_SAT (i : Nat) (j : Nat) : Nat := 0x2010002014 + 1048576 * i + 256 * j
/-- ENG_NAN, R90 of 03_strand_engines.md. -/
def A.ENG_NAN (i : Nat) (j : Nat) : Nat := 0x2010002018 + 1048576 * i + 256 * j
/-- ENG_STALL, R90 of 03_strand_engines.md. -/
def A.ENG_STALL (i : Nat) (j : Nat) : Nat := 0x201000201c + 1048576 * i + 256 * j
/-- ENG_MCAST_LO, R90 of 03_strand_engines.md. -/
def A.ENG_MCAST_LO (i : Nat) (j : Nat) : Nat := 0x2010002020 + 1048576 * i + 256 * j
/-- ENG_MCAST_HI, R90 of 03_strand_engines.md. -/
def A.ENG_MCAST_HI (i : Nat) (j : Nat) : Nat := 0x2010002024 + 1048576 * i + 256 * j
/-- VEC_STATUS, R91 of 03_strand_engines.md. -/
def A.VEC_STATUS (i : Nat) : Nat := 0x2010003000 + 1048576 * i
/-- VEC_SAT, R91 of 03_strand_engines.md. -/
def A.VEC_SAT (i : Nat) : Nat := 0x2010003004 + 1048576 * i
/-- VEC_NAN, R91 of 03_strand_engines.md. -/
def A.VEC_NAN (i : Nat) : Nat := 0x2010003008 + 1048576 * i
/-- VEC_ND, R91 of 03_strand_engines.md. -/
def A.VEC_ND (i : Nat) : Nat := 0x201000300c + 1048576 * i
/-- VEC_OOR, R91 of 03_strand_engines.md. -/
def A.VEC_OOR (i : Nat) : Nat := 0x2010003010 + 1048576 * i
/-- DET_STATUS, R140 of 05_convolution_detection.md. -/
def A.DET_STATUS : Nat := 0x20000e0000
/-- DET_KEPT, R140 of 05_convolution_detection.md. -/
def A.DET_KEPT (i : Nat) : Nat := 0x20000e0010 + 4 * i
/-- DET_OVF, R140 of 05_convolution_detection.md. -/
def A.DET_OVF (i : Nat) : Nat := 0x20000e0020 + 4 * i
/-- DET_CODEC, R140 of 05_convolution_detection.md. -/
def A.DET_CODEC (i : Nat) : Nat := 0x20000e0040 + 4 * i
/-- KVM_STATUS, R172 of 06_attention_kv.md. -/
def A.KVM_STATUS : Nat := 0x20000d0000
/-- KVM_FREE_HBM, R172 of 06_attention_kv.md. -/
def A.KVM_FREE_HBM : Nat := 0x20000d0004
/-- KVM_FREE_LIB, R172 of 06_attention_kv.md. -/
def A.KVM_FREE_LIB : Nat := 0x20000d0008
/-- KVM_CTX, R172 of 06_attention_kv.md. -/
def A.KVM_CTX : Nat := 0x20000d000c
/-- KVM_RELQ, R172 of 06_attention_kv.md. -/
def A.KVM_RELQ : Nat := 0x20000d0010
/-- KVM_PREFIX, R172 of 06_attention_kv.md. -/
def A.KVM_PREFIX : Nat := 0x20000d0014
/-- KVM_EVENTS, R172 of 06_attention_kv.md. -/
def A.KVM_EVENTS : Nat := 0x20000d0018
/-- KVM_CLASS, R172 of 06_attention_kv.md. -/
def A.KVM_CLASS (i : Nat) : Nat := 0x20000d0020 + 4 * i
/-- CHIP_GEOM_CORE, R174 of 07_onchip_memory.md. -/
def A.CHIP_GEOM_CORE : Nat := 0x2000000100
/-- CHIP_GEOM_OB, R174 of 07_onchip_memory.md. -/
def A.CHIP_GEOM_OB : Nat := 0x2000000104
/-- CHIP_GEOM_DESK, R174 of 07_onchip_memory.md. -/
def A.CHIP_GEOM_DESK : Nat := 0x2000000108
/-- CHIP_GEOM_LIB, R174 of 07_onchip_memory.md. -/
def A.CHIP_GEOM_LIB : Nat := 0x200000010c
/-- CHIP_GEOM_LIBW, R174 of 07_onchip_memory.md. -/
def A.CHIP_GEOM_LIBW : Nat := 0x2000000110
/-- CHIP_GEOM_LOCKET, R174 of 07_onchip_memory.md. -/
def A.CHIP_GEOM_LOCKET : Nat := 0x2000000114
/-- OCM_STATUS, R197 of 07_onchip_memory.md. -/
def A.OCM_STATUS : Nat := 0x2000120000
/-- OCM_CE, R197 of 07_onchip_memory.md. -/
def A.OCM_CE : Nat := 0x2000120004
/-- OCM_CE2, R197 of 07_onchip_memory.md. -/
def A.OCM_CE2 : Nat := 0x2000120008
/-- OCM_UE, R197 of 07_onchip_memory.md. -/
def A.OCM_UE : Nat := 0x200012000c
/-- OCM_LAST_LO, R197 of 07_onchip_memory.md. -/
def A.OCM_LAST_LO : Nat := 0x2000120010
/-- OCM_LAST_HI, R197 of 07_onchip_memory.md. -/
def A.OCM_LAST_HI : Nat := 0x2000120014
/-- OCM_SCRUB, R197 of 07_onchip_memory.md. -/
def A.OCM_SCRUB : Nat := 0x2000120018
/-- OCM_CNT_CTRL, R197 of 07_onchip_memory.md. -/
def A.OCM_CNT_CTRL : Nat := 0x200012001c
/-- OCM_DRAIN, R197 of 07_onchip_memory.md. -/
def A.OCM_DRAIN : Nat := 0x2000120020
/-- OCM_LIB_STALL, R197 of 07_onchip_memory.md. -/
def A.OCM_LIB_STALL (i : Nat) : Nat := 0x2000120040 + 4 * i
/-- OCM_DESK_STALL, R197 of 07_onchip_memory.md. -/
def A.OCM_DESK_STALL (i : Nat) : Nat := 0x2000120100 + 4 * i
/-- OCM_LIB_ON, R197 of 07_onchip_memory.md. -/
def A.OCM_LIB_ON (i : Nat) : Nat := 0x2000120300 + 4 * i
/-- OCM_CPWIN_BASE, R197 of 07_onchip_memory.md. -/
def A.OCM_CPWIN_BASE (i : Nat) : Nat := 0x2000120400 + 8 * i
/-- OCM_CPWIN_LEN, R197 of 07_onchip_memory.md. -/
def A.OCM_CPWIN_LEN (i : Nat) : Nat := 0x2000120404 + 8 * i
/-- MEM_STATUS, R216 of 08_hbm.md. -/
def A.MEM_STATUS : Nat := 0x2000060000
/-- MEM_TRAIN, R216 of 08_hbm.md. -/
def A.MEM_TRAIN : Nat := 0x2000060004
/-- MEM_TEMP, R216 of 08_hbm.md. -/
def A.MEM_TEMP : Nat := 0x2000060008
/-- MEM_REFRESH, R216 of 08_hbm.md. -/
def A.MEM_REFRESH : Nat := 0x200006000c
/-- MEM_UE, R216 of 08_hbm.md. -/
def A.MEM_UE : Nat := 0x2000060010
/-- MEM_BYTES, R216 of 08_hbm.md. -/
def A.MEM_BYTES : Nat := 0x2000060014
/-- MEM_PATROL, R216 of 08_hbm.md. -/
def A.MEM_PATROL : Nat := 0x2000060018
/-- MEM_REPAIR, R216 of 08_hbm.md. -/
def A.MEM_REPAIR : Nat := 0x200006001c
/-- MEM_ELOG_PTR, R216 of 08_hbm.md. -/
def A.MEM_ELOG_PTR : Nat := 0x2000060020
/-- MEM_CE, R216 of 08_hbm.md. -/
def A.MEM_CE (i : Nat) : Nat := 0x2000060040 + 4 * i
/-- MEM_ELOG_ADDR, R216 of 08_hbm.md. -/
def A.MEM_ELOG_ADDR (i : Nat) : Nat := 0x2000060100 + 16 * i
/-- MEM_ELOG_INFO, R216 of 08_hbm.md. -/
def A.MEM_ELOG_INFO (i : Nat) : Nat := 0x2000060104 + 16 * i
/-- MEM_ELOG_BELL, R216 of 08_hbm.md. -/
def A.MEM_ELOG_BELL (i : Nat) : Nat := 0x2000060108 + 16 * i
/-- MEM_ELOG_RSV, R216 of 08_hbm.md. -/
def A.MEM_ELOG_RSV (i : Nat) : Nat := 0x200006010c + 16 * i
/-- CSI_LINK, R249 of 09_camera_pipeline.md. -/
def A.CSI_LINK (i : Nat) : Nat := 0x20000a0000 + 64 * i
/-- CSI_FRAMES, R249 of 09_camera_pipeline.md. -/
def A.CSI_FRAMES (i : Nat) : Nat := 0x20000a0004 + 64 * i
/-- CSI_ERR, R249 of 09_camera_pipeline.md. -/
def A.CSI_ERR (i : Nat) : Nat := 0x20000a0008 + 64 * i
/-- CSI_SOF_NS, R249 of 09_camera_pipeline.md. -/
def A.CSI_SOF_NS (i : Nat) : Nat := 0x20000a000c + 64 * i
/-- CSI_SOF_FRM, R249 of 09_camera_pipeline.md. -/
def A.CSI_SOF_FRM (i : Nat) : Nat := 0x20000a0010 + 64 * i
/-- CSI_GROUP, R249 of 09_camera_pipeline.md. -/
def A.CSI_GROUP (i : Nat) : Nat := 0x20000a0014 + 64 * i
/-- CSI_GROUP_NS, R249 of 09_camera_pipeline.md. -/
def A.CSI_GROUP_NS (i : Nat) : Nat := 0x20000a0018 + 64 * i
/-- CSI_I2C_CMD, R249 of 09_camera_pipeline.md. -/
def A.CSI_I2C_CMD (i : Nat) (j : Nat) : Nat := 0x20000a0020 + 64 * i + 16 * j
/-- CSI_I2C_DATA, R249 of 09_camera_pipeline.md. -/
def A.CSI_I2C_DATA (i : Nat) (j : Nat) : Nat := 0x20000a0024 + 64 * i + 16 * j
/-- CSI_I2C_RD, R249 of 09_camera_pipeline.md. -/
def A.CSI_I2C_RD (i : Nat) (j : Nat) : Nat := 0x20000a0028 + 64 * i + 16 * j
/-- CSI_I2C_STAT, R249 of 09_camera_pipeline.md. -/
def A.CSI_I2C_STAT (i : Nat) (j : Nat) : Nat := 0x20000a002c + 64 * i + 16 * j
/-- ISP_STATUS, R250 of 09_camera_pipeline.md. -/
def A.ISP_STATUS (i : Nat) : Nat := 0x20000b0000 + 32 * i
/-- ISP_FRAMES, R250 of 09_camera_pipeline.md. -/
def A.ISP_FRAMES (i : Nat) : Nat := 0x20000b0004 + 32 * i
/-- ISP_TAGS, R250 of 09_camera_pipeline.md. -/
def A.ISP_TAGS (i : Nat) : Nat := 0x20000b0100 + 4 * i
/-- ISP_TAGERR, R250 of 09_camera_pipeline.md. -/
def A.ISP_TAGERR (i : Nat) : Nat := 0x20000b0140 + 4 * i
/-- ISP_STATS_READY, R250 of 09_camera_pipeline.md. -/
def A.ISP_STATS_READY : Nat := 0x20000b0180
/-- ISP_STATS_SEQ, R250 of 09_camera_pipeline.md. -/
def A.ISP_STATS_SEQ (i : Nat) : Nat := 0x20000b01c0 + 4 * i
/-- ISP_PSET, R250 of 09_camera_pipeline.md. -/
def A.ISP_PSET (i : Nat) (j : Nat) : Nat := 0x20000b1000 + 128 * i + 4 * j
/-- ISP_PSET_COMMIT, R250 of 09_camera_pipeline.md. -/
def A.ISP_PSET_COMMIT (i : Nat) : Nat := 0x20000b1040 + 128 * i
/-- SVE_STATUS, R274 of 10_range_fusion.md. -/
def A.SVE_STATUS : Nat := 0x20000f0000
/-- SVE_GEN, R274 of 10_range_fusion.md. -/
def A.SVE_GEN : Nat := 0x20000f0004
/-- SVE_VOX, R274 of 10_range_fusion.md. -/
def A.SVE_VOX : Nat := 0x20000f0008
/-- SVE_EGO, R274 of 10_range_fusion.md. -/
def A.SVE_EGO : Nat := 0x20000f000c
/-- SVE_EGO_NS, R274 of 10_range_fusion.md. -/
def A.SVE_EGO_NS : Nat := 0x20000f0010
/-- SVE_INGEST, R274 of 10_range_fusion.md. -/
def A.SVE_INGEST : Nat := 0x20000f0014
/-- SVE_POINTS, R274 of 10_range_fusion.md. -/
def A.SVE_POINTS (i : Nat) : Nat := 0x20000f0040 + 16 * i
/-- SVE_DROP, R274 of 10_range_fusion.md. -/
def A.SVE_DROP (i : Nat) : Nat := 0x20000f0044 + 16 * i
/-- SVE_BAD, R274 of 10_range_fusion.md. -/
def A.SVE_BAD (i : Nat) : Nat := 0x20000f0048 + 16 * i
/-- SVE_SAMPLE, R274 of 10_range_fusion.md. -/
def A.SVE_SAMPLE (i : Nat) : Nat := 0x20000f004c + 16 * i
/-- TSU_STATUS, R304 of 11_time_sync.md. -/
def A.TSU_STATUS : Nat := 0x2000050000
/-- TSU_SEC_LO, R304 of 11_time_sync.md. -/
def A.TSU_SEC_LO : Nat := 0x2000050004
/-- TSU_SEC_HI, R304 of 11_time_sync.md. -/
def A.TSU_SEC_HI : Nat := 0x2000050008
/-- TSU_NS, R304 of 11_time_sync.md. -/
def A.TSU_NS : Nat := 0x200005000c
/-- TSU_FRAC, R304 of 11_time_sync.md. -/
def A.TSU_FRAC : Nat := 0x2000050010
/-- TSU_RATE, R304 of 11_time_sync.md. -/
def A.TSU_RATE : Nat := 0x2000050014
/-- TSU_OFFSET, R304 of 11_time_sync.md. -/
def A.TSU_OFFSET : Nat := 0x2000050018
/-- TSU_PDELAY, R304 of 11_time_sync.md. -/
def A.TSU_PDELAY : Nat := 0x200005001c
/-- TSU_STEP_LO, R304 of 11_time_sync.md. -/
def A.TSU_STEP_LO : Nat := 0x2000050020
/-- TSU_STEP_HI, R304 of 11_time_sync.md. -/
def A.TSU_STEP_HI : Nat := 0x2000050024
/-- TSU_BELL_LO, R304 of 11_time_sync.md. -/
def A.TSU_BELL_LO : Nat := 0x2000050028
/-- TSU_BELL_HI, R304 of 11_time_sync.md. -/
def A.TSU_BELL_HI : Nat := 0x200005002c
/-- TSU_PORT_IN, R304 of 11_time_sync.md. -/
def A.TSU_PORT_IN (i : Nat) : Nat := 0x2000050040 + 16 * i
/-- TSU_PORT_EG, R304 of 11_time_sync.md. -/
def A.TSU_PORT_EG (i : Nat) : Nat := 0x2000050044 + 16 * i
/-- TSU_PORT_ASYM, R304 of 11_time_sync.md. -/
def A.TSU_PORT_ASYM (i : Nat) : Nat := 0x2000050048 + 16 * i
/-- TSU_PORT_STAT, R304 of 11_time_sync.md. -/
def A.TSU_PORT_STAT (i : Nat) : Nat := 0x200005004c + 16 * i
/-- JXL_STATUS, R305 of 11_time_sync.md. -/
def A.JXL_STATUS : Nat := 0x2000130000
/-- JXL_FIRST_LO, R305 of 11_time_sync.md. -/
def A.JXL_FIRST_LO : Nat := 0x2000130004
/-- JXL_FIRST_HI, R305 of 11_time_sync.md. -/
def A.JXL_FIRST_HI : Nat := 0x2000130008
/-- JXL_GO_SKEW, R305 of 11_time_sync.md. -/
def A.JXL_GO_SKEW : Nat := 0x200013000c
/-- JXL_LOOP, R305 of 11_time_sync.md. -/
def A.JXL_LOOP : Nat := 0x2000130010
/-- JXL_EVENTS, R305 of 11_time_sync.md. -/
def A.JXL_EVENTS : Nat := 0x2000130014
/-- JXL_PEER_BELL, R305 of 11_time_sync.md. -/
def A.JXL_PEER_BELL (i : Nat) : Nat := 0x2000130020 + 4 * i
/-- FLT_STATUS, R375 of 13_fault_lockstep.md. -/
def A.FLT_STATUS : Nat := 0x2000030000
/-- FLT_ACK, R375 of 13_fault_lockstep.md. -/
def A.FLT_ACK : Nat := 0x2000030004
/-- FLT_SEQ, R375 of 13_fault_lockstep.md. -/
def A.FLT_SEQ : Nat := 0x2000030008
/-- FLT_LAST, R375 of 13_fault_lockstep.md. -/
def A.FLT_LAST (i : Nat) : Nat := 0x2000030010 + 4 * i
/-- FLT_HEARTBEAT, R375 of 13_fault_lockstep.md. -/
def A.FLT_HEARTBEAT : Nat := 0x2000030020
/-- FLT_GATE, R375 of 13_fault_lockstep.md. -/
def A.FLT_GATE : Nat := 0x2000030024
/-- FLT_HB_SEEN, R375 of 13_fault_lockstep.md. -/
def A.FLT_HB_SEEN : Nat := 0x2000030028
/-- FLT_SAFE_CAUSE, R375 of 13_fault_lockstep.md. -/
def A.FLT_SAFE_CAUSE : Nat := 0x200003002c
/-- FLT_ALIVE, R375 of 13_fault_lockstep.md. -/
def A.FLT_ALIVE : Nat := 0x2000030030
/-- FLT_PERSIST, R375 of 13_fault_lockstep.md. -/
def A.FLT_PERSIST : Nat := 0x2000030034
/-- FLT_BOOTS, R375 of 13_fault_lockstep.md. -/
def A.FLT_BOOTS : Nat := 0x2000030038
/-- FLT_SW_ADDR, R375 of 13_fault_lockstep.md. -/
def A.FLT_SW_ADDR : Nat := 0x2000030040
/-- FLT_SW, R375 of 13_fault_lockstep.md. -/
def A.FLT_SW : Nat := 0x2000030044
/-- FLT_INJ_CTRL, R375 of 13_fault_lockstep.md. -/
def A.FLT_INJ_CTRL : Nat := 0x2000030080
/-- FLT_INJ_ARG0, R375 of 13_fault_lockstep.md. -/
def A.FLT_INJ_ARG0 : Nat := 0x2000030084
/-- FLT_INJ_ARG1, R375 of 13_fault_lockstep.md. -/
def A.FLT_INJ_ARG1 : Nat := 0x2000030088
/-- FLT_KSEV, R375 of 13_fault_lockstep.md. -/
def A.FLT_KSEV (i : Nat) : Nat := 0x2000030100 + 4 * i
/-- FLT_SEV, R375 of 13_fault_lockstep.md. -/
def A.FLT_SEV (i : Nat) : Nat := 0x2000031000 + 4 * i
/-- FLT_SRC_CNT, R375 of 13_fault_lockstep.md. -/
def A.FLT_SRC_CNT (i : Nat) : Nat := 0x2000032000 + 4 * i
/-- LKS_STATUS, R376 of 13_fault_lockstep.md. -/
def A.LKS_STATUS : Nat := 0x2000040000
/-- LKS_MM_CYC, R376 of 13_fault_lockstep.md. -/
def A.LKS_MM_CYC (i : Nat) : Nat := 0x2000040004 + 8 * i
/-- LKS_MM_INFO, R376 of 13_fault_lockstep.md. -/
def A.LKS_MM_INFO (i : Nat) : Nat := 0x2000040008 + 8 * i
/-- LKS_ROLL, R376 of 13_fault_lockstep.md. -/
def A.LKS_ROLL : Nat := 0x2000040020
/-- LKS_ROLL_SEQ, R376 of 13_fault_lockstep.md. -/
def A.LKS_ROLL_SEQ (i : Nat) : Nat := 0x2000040024 + 4 * i
/-- LKS_LATENT, R376 of 13_fault_lockstep.md. -/
def A.LKS_LATENT : Nat := 0x2000040040
/-- LKS_LATENT_ERR, R376 of 13_fault_lockstep.md. -/
def A.LKS_LATENT_ERR : Nat := 0x2000040044
/-- LKS_DBG_ACT, R376 of 13_fault_lockstep.md. -/
def A.LKS_DBG_ACT : Nat := 0x2000040048
/-- TST_STATUS, R400 of 14_online_test.md. -/
def A.TST_STATUS : Nat := 0x2000100000
/-- TST_CONTENT, R400 of 14_online_test.md. -/
def A.TST_CONTENT : Nat := 0x2000100004
/-- TST_FAILS, R400 of 14_online_test.md. -/
def A.TST_FAILS : Nat := 0x2000100008
/-- TST_EVIDENCE, R400 of 14_online_test.md. -/
def A.TST_EVIDENCE : Nat := 0x200010000c
/-- TST_DIGEST, R400 of 14_online_test.md. -/
def A.TST_DIGEST : Nat := 0x2000100010
/-- TST_DIGEST_PASS, R400 of 14_online_test.md. -/
def A.TST_DIGEST_PASS : Nat := 0x2000100014
/-- TST_COVERAGE, R400 of 14_online_test.md. -/
def A.TST_COVERAGE : Nat := 0x2000100018
/-- TST_REQ, R400 of 14_online_test.md. -/
def A.TST_REQ : Nat := 0x200010001c
/-- TST_UNATTR, R400 of 14_online_test.md. -/
def A.TST_UNATTR (i : Nat) : Nat := 0x2000100100 + 4 * i
/-- TST_RUBRIC, R400 of 14_online_test.md. -/
def A.TST_RUBRIC (i : Nat) : Nat := 0x2000100400 + 4 * i
/-- SEC_STATUS, R436 of 15_determinism_security.md. -/
def A.SEC_STATUS : Nat := 0x2000070000
/-- SEC_ARB, R436 of 15_determinism_security.md. -/
def A.SEC_ARB : Nat := 0x2000070004
/-- SEC_KEYS, R436 of 15_determinism_security.md. -/
def A.SEC_KEYS : Nat := 0x2000070008
/-- SEC_TAMPER, R436 of 15_determinism_security.md. -/
def A.SEC_TAMPER : Nat := 0x200007000c
/-- SEC_CMD, R436 of 15_determinism_security.md. -/
def A.SEC_CMD : Nat := 0x2000070010
/-- SEC_BUF, R436 of 15_determinism_security.md. -/
def A.SEC_BUF : Nat := 0x2000070014
/-- SEC_RESULT, R436 of 15_determinism_security.md. -/
def A.SEC_RESULT : Nat := 0x2000070018
/-- SEC_ATTEMPT, R436 of 15_determinism_security.md. -/
def A.SEC_ATTEMPT : Nat := 0x200007001c
/-- SEC_CHALLENGE, R436 of 15_determinism_security.md. -/
def A.SEC_CHALLENGE (i : Nat) : Nat := 0x2000070020 + 4 * i
/-- SEC_MANIFEST, R436 of 15_determinism_security.md. -/
def A.SEC_MANIFEST (i : Nat) : Nat := 0x2000070040 + 4 * i
/-- SEC_WDIG, R436 of 15_determinism_security.md. -/
def A.SEC_WDIG (i : Nat) : Nat := 0x2000070060 + 4 * i
/-- SEC_IDPUB, R436 of 15_determinism_security.md. -/
def A.SEC_IDPUB (i : Nat) : Nat := 0x2000070080 + 4 * i
/-- SEC_LKT_ADDR, R436 of 15_determinism_security.md. -/
def A.SEC_LKT_ADDR : Nat := 0x20000700c0
/-- SEC_LKT_DATA, R436 of 15_determinism_security.md. -/
def A.SEC_LKT_DATA : Nat := 0x20000700c4
/-- SHK_STATUS, R437 of 15_determinism_security.md. -/
def A.SHK_STATUS : Nat := 0x2000110000
/-- SHK_BYTES, R437 of 15_determinism_security.md. -/
def A.SHK_BYTES : Nat := 0x2000110004
/-- SHK_CLASS, R437 of 15_determinism_security.md. -/
def A.SHK_CLASS (i : Nat) : Nat := 0x2000110010 + 4 * i
/-- SHK_HALLMARKS, R437 of 15_determinism_security.md. -/
def A.SHK_HALLMARKS : Nat := 0x2000110030
/-- SHK_SIGN_US, R437 of 15_determinism_security.md. -/
def A.SHK_SIGN_US : Nat := 0x2000110034
/-- CLK_STATUS, R482 of 17_startup_power.md. -/
def A.CLK_STATUS : Nat := 0x2000010000
/-- CLK_ROOT, R482 of 17_startup_power.md. -/
def A.CLK_ROOT : Nat := 0x2000010004
/-- CLK_DIV0, R482 of 17_startup_power.md. -/
def A.CLK_DIV0 : Nat := 0x2000010008
/-- CLK_DIV1, R482 of 17_startup_power.md. -/
def A.CLK_DIV1 : Nat := 0x200001000c
/-- CLK_SERDES, R482 of 17_startup_power.md. -/
def A.CLK_SERDES : Nat := 0x2000010010
/-- PWR_STATE, R482 of 17_startup_power.md. -/
def A.PWR_STATE : Nat := 0x2000010100
/-- PWR_CAUSE, R482 of 17_startup_power.md. -/
def A.PWR_CAUSE : Nat := 0x2000010104
/-- PWR_CTRL, R482 of 17_startup_power.md. -/
def A.PWR_CTRL : Nat := 0x2000010108
/-- PWR_WAKE, R482 of 17_startup_power.md. -/
def A.PWR_WAKE : Nat := 0x200001010c
/-- PWR_PARKS, R482 of 17_startup_power.md. -/
def A.PWR_PARKS : Nat := 0x2000010110
/-- PWR_WAKE_US, R482 of 17_startup_power.md. -/
def A.PWR_WAKE_US : Nat := 0x2000010114
/-- BOOT_STATUS, R483 of 17_startup_power.md. -/
def A.BOOT_STATUS : Nat := 0x2000020000
/-- BOOT_SLOTS, R483 of 17_startup_power.md. -/
def A.BOOT_SLOTS : Nat := 0x2000020004
/-- BOOT_T, R483 of 17_startup_power.md. -/
def A.BOOT_T (i : Nat) : Nat := 0x2000020008 + 4 * i
/-- BOOT_RESIDENT_LO, R483 of 17_startup_power.md. -/
def A.BOOT_RESIDENT_LO : Nat := 0x2000020028
/-- BOOT_RESIDENT_HI, R483 of 17_startup_power.md. -/
def A.BOOT_RESIDENT_HI : Nat := 0x200002002c
/-- BOOT_FIRST_LO, R483 of 17_startup_power.md. -/
def A.BOOT_FIRST_LO : Nat := 0x2000020030
/-- BOOT_FIRST_HI, R483 of 17_startup_power.md. -/
def A.BOOT_FIRST_HI : Nat := 0x2000020034
/-- BOOT_WDOG, R483 of 17_startup_power.md. -/
def A.BOOT_WDOG : Nat := 0x2000020038
/-- BOOT_SEQ_LO, R483 of 17_startup_power.md. -/
def A.BOOT_SEQ_LO : Nat := 0x200002003c
/-- BOOT_SEQ_HI, R483 of 17_startup_power.md. -/
def A.BOOT_SEQ_HI : Nat := 0x2000020040
/-- I3C_STATUS, R514 of 18_outputs_control.md. -/
def A.I3C_STATUS : Nat := 0x2000080000
/-- I3C_CMDSET_VER, R514 of 18_outputs_control.md. -/
def A.I3C_CMDSET_VER : Nat := 0x2000080004
/-- I3C_CMD, R514 of 18_outputs_control.md. -/
def A.I3C_CMD : Nat := 0x2000080008
/-- I3C_ARG, R514 of 18_outputs_control.md. -/
def A.I3C_ARG (i : Nat) : Nat := 0x2000080010 + 4 * i
/-- I3C_RESP, R514 of 18_outputs_control.md. -/
def A.I3C_RESP : Nat := 0x2000080020
/-- I3C_RET, R514 of 18_outputs_control.md. -/
def A.I3C_RET (i : Nat) : Nat := 0x2000080030 + 4 * i
/-- I3C_PAGE, R514 of 18_outputs_control.md. -/
def A.I3C_PAGE : Nat := 0x2000080040
/-- I3C_PID_LO, R514 of 18_outputs_control.md. -/
def A.I3C_PID_LO : Nat := 0x2000080044
/-- I3C_PID_HI, R514 of 18_outputs_control.md. -/
def A.I3C_PID_HI : Nat := 0x2000080048
/-- I3C_ERR, R514 of 18_outputs_control.md. -/
def A.I3C_ERR : Nat := 0x200008004c
/-- ETH_STATUS, R515 of 18_outputs_control.md. -/
def A.ETH_STATUS (i : Nat) : Nat := 0x2000090000 + 32 * i
/-- ETH_TX, R515 of 18_outputs_control.md. -/
def A.ETH_TX (i : Nat) : Nat := 0x2000090004 + 32 * i
/-- ETH_DROP, R515 of 18_outputs_control.md. -/
def A.ETH_DROP (i : Nat) : Nat := 0x2000090008 + 32 * i
/-- ETH_MAC_LO, R515 of 18_outputs_control.md. -/
def A.ETH_MAC_LO : Nat := 0x2000090100
/-- ETH_MAC_HI, R515 of 18_outputs_control.md. -/
def A.ETH_MAC_HI : Nat := 0x2000090104
/-- ETH_DEST, R515 of 18_outputs_control.md. -/
def A.ETH_DEST (i : Nat) : Nat := 0x2000090200 + 4 * i
/-- CSO_STATUS, R516 of 18_outputs_control.md. -/
def A.CSO_STATUS (i : Nat) : Nat := 0x20000c0000 + 16 * i
/-- CSO_FRAMES, R516 of 18_outputs_control.md. -/
def A.CSO_FRAMES (i : Nat) : Nat := 0x20000c0004 + 16 * i
/-- CSO_DROP, R516 of 18_outputs_control.md. -/
def A.CSO_DROP (i : Nat) : Nat := 0x20000c0008 + 16 * i
/-- CSO_OUT_BELL, R516 of 18_outputs_control.md. -/
def A.CSO_OUT_BELL (i : Nat) : Nat := 0x20000c0100 + 8 * i
/-- CSO_OUT_VOID, R516 of 18_outputs_control.md. -/
def A.CSO_OUT_VOID (i : Nat) : Nat := 0x20000c0104 + 8 * i
/-- PWR_SUPPLY, R541 of 19_module_electrical.md. -/
def A.PWR_SUPPLY : Nat := 0x2000010140
/-- PWR_POWER, R541 of 19_module_electrical.md. -/
def A.PWR_POWER : Nat := 0x2000010144
/-- PWR_TEMP, R541 of 19_module_electrical.md. -/
def A.PWR_TEMP : Nat := 0x2000010148
/-- PWR_FLAGS, R541 of 19_module_electrical.md. -/
def A.PWR_FLAGS : Nat := 0x200001014c
/-- PWR_POC, R541 of 19_module_electrical.md. -/
def A.PWR_POC : Nat := 0x2000010150
/-- PWR_POC_MW, R541 of 19_module_electrical.md. -/
def A.PWR_POC_MW (i : Nat) : Nat := 0x2000010160 + 4 * i
/-- CHIP_ID, R548 of 20_register_map.md. -/
def A.CHIP_ID : Nat := 0x2000000000
/-- CHIP_PART, R548 of 20_register_map.md. -/
def A.CHIP_PART : Nat := 0x2000000004
/-- CORE_ID, R550 of 20_register_map.md. -/
def A.CORE_ID (i : Nat) : Nat := 0x2010000000 + 1048576 * i
/-- CORE_STATE, R550 of 20_register_map.md. -/
def A.CORE_STATE (i : Nat) : Nat := 0x2010000004 + 1048576 * i

def F.CHIP_REMAP_PHYS (i : Nat) : Fld := ⟨A.CHIP_REMAP i, 6, 0⟩
def F.CHIP_REMAP_PREV (i : Nat) : Fld := ⟨A.CHIP_REMAP i, 14, 8⟩
def F.CHIP_REMAP_CHANGED (i : Nat) : Fld := ⟨A.CHIP_REMAP i, 16, 16⟩
def F.CHIP_SPARE_SPARE0 : Fld := ⟨A.CHIP_SPARE, 6, 0⟩
def F.CHIP_SPARE_SPARE1 : Fld := ⟨A.CHIP_SPARE, 14, 8⟩
def F.CHIP_SPARE_FENCED : Fld := ⟨A.CHIP_SPARE, 23, 16⟩
def F.TT_STATUS_RUNNING (i : Nat) : Fld := ⟨A.TT_STATUS i, 0, 0⟩
def F.TT_STATUS_ENDED (i : Nat) : Fld := ⟨A.TT_STATUS i, 1, 1⟩
def F.TT_STATUS_ABANDONED (i : Nat) : Fld := ⟨A.TT_STATUS i, 2, 2⟩
def F.TT_STATUS_FENCED (i : Nat) : Fld := ⟨A.TT_STATUS i, 3, 3⟩
def F.TT_STATUS_LOGICAL (i : Nat) : Fld := ⟨A.TT_STATUS i, 13, 8⟩
def F.TT_STATUS_MAPPED (i : Nat) : Fld := ⟨A.TT_STATUS i, 14, 14⟩
def F.TT_CYCLE_CYCLE (i : Nat) : Fld := ⟨A.TT_CYCLE i, 27, 0⟩
def F.TT_BELL_BELL (i : Nat) : Fld := ⟨A.TT_BELL i, 31, 0⟩
def F.TT_LEN_LEN (i : Nat) : Fld := ⟨A.TT_LEN i, 27, 0⟩
def F.TT_PC_PC (i : Nat) : Fld := ⟨A.TT_PC i, 23, 0⟩
def F.TT_FLT_CNT_BUDGET (i : Nat) : Fld := ⟨A.TT_FLT_CNT i, 7, 0⟩
def F.TT_FLT_CNT_DEADLINE (i : Nat) : Fld := ⟨A.TT_FLT_CNT i, 15, 8⟩
def F.TT_FLT_CNT_LATE (i : Nat) : Fld := ⟨A.TT_FLT_CNT i, 23, 16⟩
def F.TT_FLT_CNT_VOID_IN (i : Nat) : Fld := ⟨A.TT_FLT_CNT i, 31, 24⟩
def F.TT_LAST_FLT_KIND (i : Nat) : Fld := ⟨A.TT_LAST_FLT i, 7, 0⟩
def F.TT_LAST_FLT_TASK (i : Nat) : Fld := ⟨A.TT_LAST_FLT i, 15, 8⟩
def F.TT_LAST_CYC_CYCLE (i : Nat) : Fld := ⟨A.TT_LAST_CYC i, 27, 0⟩
def F.TT_SLACK_MIN_SLACK (i : Nat) : Fld := ⟨A.TT_SLACK_MIN i, 27, 0⟩
def F.TT_SEQ_CMP_MISMATCH (i : Nat) : Fld := ⟨A.TT_SEQ_CMP i, 0, 0⟩
def F.ENG_STATUS_BUSY (i : Nat) (j : Nat) : Fld := ⟨A.ENG_STATUS i j, 0, 0⟩
def F.ENG_STATUS_FORM (i : Nat) (j : Nat) : Fld := ⟨A.ENG_STATUS i j, 1, 1⟩
def F.ENG_STATUS_SPARES (i : Nat) (j : Nat) : Fld := ⟨A.ENG_STATUS i j, 4, 2⟩
def F.ENG_STATUS_RECESS0 (i : Nat) (j : Nat) : Fld := ⟨A.ENG_STATUS i j, 14, 8⟩
def F.ENG_STEP_STEP (i : Nat) (j : Nat) : Fld := ⟨A.ENG_STEP i j, 7, 0⟩
def F.ENG_STEP_COUNT (i : Nat) (j : Nat) : Fld := ⟨A.ENG_STEP i j, 15, 8⟩
def F.ENG_RETIRED_RET0 (i : Nat) (j : Nat) : Fld := ⟨A.ENG_RETIRED i j, 6, 0⟩
def F.ENG_RETIRED_V0 (i : Nat) (j : Nat) : Fld := ⟨A.ENG_RETIRED i j, 7, 7⟩
def F.ENG_RETIRED_RET1 (i : Nat) (j : Nat) : Fld := ⟨A.ENG_RETIRED i j, 14, 8⟩
def F.ENG_RETIRED_V1 (i : Nat) (j : Nat) : Fld := ⟨A.ENG_RETIRED i j, 15, 15⟩
def F.ENG_RETIRED_RET2 (i : Nat) (j : Nat) : Fld := ⟨A.ENG_RETIRED i j, 22, 16⟩
def F.ENG_RETIRED_V2 (i : Nat) (j : Nat) : Fld := ⟨A.ENG_RETIRED i j, 23, 23⟩
def F.ENG_SLOTS_SLOTS (i : Nat) (j : Nat) : Fld := ⟨A.ENG_SLOTS i j, 31, 0⟩
def F.ENG_BUBBLES_BUBBLES (i : Nat) (j : Nat) : Fld := ⟨A.ENG_BUBBLES i j, 31, 0⟩
def F.ENG_SAT_ACC (i : Nat) (j : Nat) : Fld := ⟨A.ENG_SAT i j, 15, 0⟩
def F.ENG_SAT_OUT (i : Nat) (j : Nat) : Fld := ⟨A.ENG_SAT i j, 31, 16⟩
def F.ENG_NAN_NAN (i : Nat) (j : Nat) : Fld := ⟨A.ENG_NAN i j, 15, 0⟩
def F.ENG_STALL_CYCLES (i : Nat) (j : Nat) : Fld := ⟨A.ENG_STALL i j, 15, 0⟩
def F.ENG_MCAST_LO_GROUPS (i : Nat) (j : Nat) : Fld := ⟨A.ENG_MCAST_LO i j, 31, 0⟩
def F.ENG_MCAST_HI_GROUPS (i : Nat) (j : Nat) : Fld := ⟨A.ENG_MCAST_HI i j, 31, 0⟩
def F.VEC_STATUS_BUSY (i : Nat) : Fld := ⟨A.VEC_STATUS i, 0, 0⟩
def F.VEC_STATUS_RECESS (i : Nat) : Fld := ⟨A.VEC_STATUS i, 1, 1⟩
def F.VEC_SAT_SAT (i : Nat) : Fld := ⟨A.VEC_SAT i, 31, 0⟩
def F.VEC_NAN_NAN (i : Nat) : Fld := ⟨A.VEC_NAN i, 15, 0⟩
def F.VEC_ND_ND (i : Nat) : Fld := ⟨A.VEC_ND i, 15, 0⟩
def F.VEC_OOR_OOR (i : Nat) : Fld := ⟨A.VEC_OOR i, 15, 0⟩
def F.DET_STATUS_BUSY : Fld := ⟨A.DET_STATUS, 3, 0⟩
def F.DET_STATUS_CBUSY : Fld := ⟨A.DET_STATUS, 11, 4⟩
def F.DET_STATUS_DRECESS : Fld := ⟨A.DET_STATUS, 15, 12⟩
def F.DET_STATUS_CRECESS : Fld := ⟨A.DET_STATUS, 23, 16⟩
def F.DET_KEPT_KEPT (i : Nat) : Fld := ⟨A.DET_KEPT i, 15, 0⟩
def F.DET_KEPT_CAND (i : Nat) : Fld := ⟨A.DET_KEPT i, 31, 16⟩
def F.DET_OVF_OVF (i : Nat) : Fld := ⟨A.DET_OVF i, 15, 0⟩
def F.DET_OVF_NONFIN (i : Nat) : Fld := ⟨A.DET_OVF i, 31, 16⟩
def F.DET_CODEC_REJECT (i : Nat) : Fld := ⟨A.DET_CODEC i, 15, 0⟩
def F.DET_CODEC_TILES (i : Nat) : Fld := ⟨A.DET_CODEC i, 31, 16⟩
def F.KVM_STATUS_BUSY : Fld := ⟨A.KVM_STATUS, 0, 0⟩
def F.KVM_STATUS_RELEASING : Fld := ⟨A.KVM_STATUS, 1, 1⟩
def F.KVM_FREE_HBM_FREE : Fld := ⟨A.KVM_FREE_HBM, 18, 0⟩
def F.KVM_FREE_LIB_FREE : Fld := ⟨A.KVM_FREE_LIB, 12, 0⟩
def F.KVM_CTX_ACTIVE : Fld := ⟨A.KVM_CTX, 10, 0⟩
def F.KVM_CTX_POISONED : Fld := ⟨A.KVM_CTX, 26, 16⟩
def F.KVM_RELQ_DEPTH : Fld := ⟨A.KVM_RELQ, 18, 0⟩
def F.KVM_PREFIX_NODES : Fld := ⟨A.KVM_PREFIX, 14, 0⟩
def F.KVM_PREFIX_HITS : Fld := ⟨A.KVM_PREFIX, 23, 16⟩
def F.KVM_PREFIX_FULL : Fld := ⟨A.KVM_PREFIX, 31, 24⟩
def F.KVM_EVENTS_RECLAIM : Fld := ⟨A.KVM_EVENTS, 7, 0⟩
def F.KVM_EVENTS_POOLFULL : Fld := ⟨A.KVM_EVENTS, 15, 8⟩
def F.KVM_EVENTS_BUCKET : Fld := ⟨A.KVM_EVENTS, 23, 16⟩
def F.KVM_EVENTS_PAGEID : Fld := ⟨A.KVM_EVENTS, 31, 24⟩
def F.KVM_CLASS_USED (i : Nat) : Fld := ⟨A.KVM_CLASS i, 18, 0⟩
def F.KVM_CLASS_STEPPED (i : Nat) : Fld := ⟨A.KVM_CLASS i, 30, 20⟩
def F.CHIP_GEOM_CORE_PHYS : Fld := ⟨A.CHIP_GEOM_CORE, 6, 0⟩
def F.CHIP_GEOM_CORE_LOGICAL : Fld := ⟨A.CHIP_GEOM_CORE, 14, 8⟩
def F.CHIP_GEOM_CORE_ENGINES : Fld := ⟨A.CHIP_GEOM_CORE, 19, 16⟩
def F.CHIP_GEOM_CORE_STRANDS : Fld := ⟨A.CHIP_GEOM_CORE, 30, 24⟩
def F.CHIP_GEOM_OB_L_BYTES : Fld := ⟨A.CHIP_GEOM_OB, 15, 0⟩
def F.CHIP_GEOM_OB_S_BYTES : Fld := ⟨A.CHIP_GEOM_OB, 31, 16⟩
def F.CHIP_GEOM_DESK_BANKS : Fld := ⟨A.CHIP_GEOM_DESK, 7, 0⟩
def F.CHIP_GEOM_DESK_WORD : Fld := ⟨A.CHIP_GEOM_DESK, 15, 8⟩
def F.CHIP_GEOM_DESK_BANK_WORDS : Fld := ⟨A.CHIP_GEOM_DESK, 31, 16⟩
def F.CHIP_GEOM_LIB_BANKS : Fld := ⟨A.CHIP_GEOM_LIB, 15, 0⟩
def F.CHIP_GEOM_LIB_WORD : Fld := ⟨A.CHIP_GEOM_LIB, 23, 16⟩
def F.CHIP_GEOM_LIBW_BANK_WORDS : Fld := ⟨A.CHIP_GEOM_LIBW, 31, 0⟩
def F.CHIP_GEOM_LOCKET_BYTES : Fld := ⟨A.CHIP_GEOM_LOCKET, 31, 0⟩
def F.OCM_STATUS_CNT_RUN : Fld := ⟨A.OCM_STATUS, 0, 0⟩
def F.OCM_STATUS_CLEARING : Fld := ⟨A.OCM_STATUS, 1, 1⟩
def F.OCM_STATUS_WAKE_SCRUB : Fld := ⟨A.OCM_STATUS, 2, 2⟩
def F.OCM_STATUS_LOCKET_BAD : Fld := ⟨A.OCM_STATUS, 3, 3⟩
def F.OCM_STATUS_DEG_BELLS : Fld := ⟨A.OCM_STATUS, 14, 8⟩
def F.OCM_CE_DESK : Fld := ⟨A.OCM_CE, 15, 0⟩
def F.OCM_CE_LIB : Fld := ⟨A.OCM_CE, 31, 16⟩
def F.OCM_CE2_OB : Fld := ⟨A.OCM_CE2, 15, 0⟩
def F.OCM_CE2_OTHER : Fld := ⟨A.OCM_CE2, 31, 16⟩
def F.OCM_UE_OB : Fld := ⟨A.OCM_UE, 7, 0⟩
def F.OCM_UE_DESK : Fld := ⟨A.OCM_UE, 15, 8⟩
def F.OCM_UE_LIB : Fld := ⟨A.OCM_UE, 23, 16⟩
def F.OCM_UE_OTHER : Fld := ⟨A.OCM_UE, 31, 24⟩
def F.OCM_LAST_LO_ADDR : Fld := ⟨A.OCM_LAST_LO, 31, 0⟩
def F.OCM_LAST_HI_ADDR : Fld := ⟨A.OCM_LAST_HI, 7, 0⟩
def F.OCM_LAST_HI_KIND : Fld := ⟨A.OCM_LAST_HI, 15, 8⟩
def F.OCM_SCRUB_PASSES : Fld := ⟨A.OCM_SCRUB, 31, 0⟩
def F.OCM_CNT_CTRL_CLEAR : Fld := ⟨A.OCM_CNT_CTRL, 0, 0⟩
def F.OCM_DRAIN_BANK : Fld := ⟨A.OCM_DRAIN, 8, 0⟩
def F.OCM_DRAIN_MEM : Fld := ⟨A.OCM_DRAIN, 12, 9⟩
def F.OCM_DRAIN_VALID : Fld := ⟨A.OCM_DRAIN, 16, 16⟩
def F.OCM_LIB_STALL_CYCLES (i : Nat) : Fld := ⟨A.OCM_LIB_STALL i, 31, 0⟩
def F.OCM_DESK_STALL_CYCLES (i : Nat) : Fld := ⟨A.OCM_DESK_STALL i, 31, 0⟩
def F.OCM_LIB_ON_ON (i : Nat) : Fld := ⟨A.OCM_LIB_ON i, 31, 0⟩
def F.OCM_CPWIN_BASE_WORD (i : Nat) : Fld := ⟨A.OCM_CPWIN_BASE i, 20, 0⟩
def F.OCM_CPWIN_LEN_WORDS (i : Nat) : Fld := ⟨A.OCM_CPWIN_LEN i, 21, 0⟩
def F.MEM_STATUS_TRAINED : Fld := ⟨A.MEM_STATUS, 0, 0⟩
def F.MEM_STATUS_INIT_DONE : Fld := ⟨A.MEM_STATUS, 1, 1⟩
def F.MEM_STATUS_SELF_REFRESH : Fld := ⟨A.MEM_STATUS, 2, 2⟩
def F.MEM_STATUS_WIPING : Fld := ⟨A.MEM_STATUS, 3, 3⟩
def F.MEM_STATUS_TEMP_STATE : Fld := ⟨A.MEM_STATUS, 5, 4⟩
def F.MEM_TRAIN_PASS : Fld := ⟨A.MEM_TRAIN, 31, 0⟩
def F.MEM_TEMP_TEMP : Fld := ⟨A.MEM_TEMP, 7, 0⟩
def F.MEM_TEMP_MAX : Fld := ⟨A.MEM_TEMP, 15, 8⟩
def F.MEM_TEMP_POLLS : Fld := ⟨A.MEM_TEMP, 31, 16⟩
def F.MEM_REFRESH_INTERVAL : Fld := ⟨A.MEM_REFRESH, 15, 0⟩
def F.MEM_UE_UE : Fld := ⟨A.MEM_UE, 15, 0⟩
def F.MEM_UE_ACCESS : Fld := ⟨A.MEM_UE, 31, 16⟩
def F.MEM_BYTES_UNITS : Fld := ⟨A.MEM_BYTES, 31, 0⟩
def F.MEM_PATROL_PASSES : Fld := ⟨A.MEM_PATROL, 31, 0⟩
def F.MEM_REPAIR_REPAIRED : Fld := ⟨A.MEM_REPAIR, 7, 0⟩
def F.MEM_REPAIR_PENDING : Fld := ⟨A.MEM_REPAIR, 15, 8⟩
def F.MEM_ELOG_PTR_NEXT : Fld := ⟨A.MEM_ELOG_PTR, 3, 0⟩
def F.MEM_ELOG_PTR_WRAPPED : Fld := ⟨A.MEM_ELOG_PTR, 4, 4⟩
def F.MEM_CE_CE (i : Nat) : Fld := ⟨A.MEM_CE i, 15, 0⟩
def F.MEM_CE_RETRY (i : Nat) : Fld := ⟨A.MEM_CE i, 31, 16⟩
def F.MEM_ELOG_ADDR_ADDR (i : Nat) : Fld := ⟨A.MEM_ELOG_ADDR i, 31, 0⟩
def F.MEM_ELOG_INFO_ADDR_HI (i : Nat) : Fld := ⟨A.MEM_ELOG_INFO i, 2, 0⟩
def F.MEM_ELOG_INFO_KIND (i : Nat) : Fld := ⟨A.MEM_ELOG_INFO i, 15, 8⟩
def F.MEM_ELOG_INFO_REQ (i : Nat) : Fld := ⟨A.MEM_ELOG_INFO i, 19, 16⟩
def F.MEM_ELOG_BELL_BELL (i : Nat) : Fld := ⟨A.MEM_ELOG_BELL i, 31, 0⟩
def F.CSI_LINK_UP (i : Nat) : Fld := ⟨A.CSI_LINK i, 0, 0⟩
def F.CSI_LINK_GEAR (i : Nat) : Fld := ⟨A.CSI_LINK i, 3, 1⟩
def F.CSI_LINK_POC_ON (i : Nat) : Fld := ⟨A.CSI_LINK i, 4, 4⟩
def F.CSI_LINK_POC_TRIP (i : Nat) : Fld := ⟨A.CSI_LINK i, 5, 5⟩
def F.CSI_LINK_BUF0 (i : Nat) : Fld := ⟨A.CSI_LINK i, 9, 8⟩
def F.CSI_LINK_BUF1 (i : Nat) : Fld := ⟨A.CSI_LINK i, 11, 10⟩
def F.CSI_LINK_BUF2 (i : Nat) : Fld := ⟨A.CSI_LINK i, 13, 12⟩
def F.CSI_FRAMES_DONE (i : Nat) : Fld := ⟨A.CSI_FRAMES i, 15, 0⟩
def F.CSI_FRAMES_REPAIRED (i : Nat) : Fld := ⟨A.CSI_FRAMES i, 31, 16⟩
def F.CSI_ERR_ECC (i : Nat) : Fld := ⟨A.CSI_ERR i, 7, 0⟩
def F.CSI_ERR_LOST (i : Nat) : Fld := ⟨A.CSI_ERR i, 15, 8⟩
def F.CSI_ERR_CRC (i : Nat) : Fld := ⟨A.CSI_ERR i, 23, 16⟩
def F.CSI_ERR_DROP (i : Nat) : Fld := ⟨A.CSI_ERR i, 31, 24⟩
def F.CSI_SOF_NS_NS (i : Nat) : Fld := ⟨A.CSI_SOF_NS i, 31, 0⟩
def F.CSI_SOF_FRM_FRAME (i : Nat) : Fld := ⟨A.CSI_SOF_FRM i, 15, 0⟩
def F.CSI_SOF_FRM_TAG (i : Nat) : Fld := ⟨A.CSI_SOF_FRM i, 31, 16⟩
def F.CSI_GROUP_TAG (i : Nat) : Fld := ⟨A.CSI_GROUP i, 15, 0⟩
def F.CSI_GROUP_ABORTED (i : Nat) : Fld := ⟨A.CSI_GROUP i, 16, 16⟩
def F.CSI_GROUP_NS_NS (i : Nat) : Fld := ⟨A.CSI_GROUP_NS i, 31, 0⟩
def F.CSI_I2C_CMD_CMD (i : Nat) (j : Nat) : Fld := ⟨A.CSI_I2C_CMD i j, 31, 0⟩
def F.CSI_I2C_DATA_DATA (i : Nat) (j : Nat) : Fld := ⟨A.CSI_I2C_DATA i j, 31, 0⟩
def F.CSI_I2C_RD_DATA (i : Nat) (j : Nat) : Fld := ⟨A.CSI_I2C_RD i j, 31, 0⟩
def F.CSI_I2C_STAT_FREE (i : Nat) (j : Nat) : Fld := ⟨A.CSI_I2C_STAT i j, 5, 0⟩
def F.CSI_I2C_STAT_BUSY (i : Nat) (j : Nat) : Fld := ⟨A.CSI_I2C_STAT i j, 6, 6⟩
def F.CSI_I2C_STAT_NACK (i : Nat) (j : Nat) : Fld := ⟨A.CSI_I2C_STAT i j, 7, 7⟩
def F.CSI_I2C_STAT_TIMEOUT (i : Nat) (j : Nat) : Fld := ⟨A.CSI_I2C_STAT i j, 8, 8⟩
def F.CSI_I2C_STAT_OPEN (i : Nat) (j : Nat) : Fld := ⟨A.CSI_I2C_STAT i j, 9, 9⟩
def F.ISP_STATUS_BUSY (i : Nat) : Fld := ⟨A.ISP_STATUS i, 0, 0⟩
def F.ISP_STATUS_CAMERA (i : Nat) : Fld := ⟨A.ISP_STATUS i, 4, 1⟩
def F.ISP_STATUS_WAITING (i : Nat) : Fld := ⟨A.ISP_STATUS i, 8, 5⟩
def F.ISP_STATUS_TAP (i : Nat) : Fld := ⟨A.ISP_STATUS i, 9, 9⟩
def F.ISP_FRAMES_DONE (i : Nat) : Fld := ⟨A.ISP_FRAMES i, 15, 0⟩
def F.ISP_FRAMES_LATE (i : Nat) : Fld := ⟨A.ISP_FRAMES i, 23, 16⟩
def F.ISP_FRAMES_FBCRC (i : Nat) : Fld := ⟨A.ISP_FRAMES i, 27, 24⟩
def F.ISP_FRAMES_TAPDROP (i : Nat) : Fld := ⟨A.ISP_FRAMES i, 31, 28⟩
def F.ISP_TAGS_CUR (i : Nat) : Fld := ⟨A.ISP_TAGS i, 15, 0⟩
def F.ISP_TAGS_PENDING (i : Nat) : Fld := ⟨A.ISP_TAGS i, 19, 16⟩
def F.ISP_TAGS_ASSUMED (i : Nat) : Fld := ⟨A.ISP_TAGS i, 20, 20⟩
def F.ISP_TAGERR_UNKNOWN (i : Nat) : Fld := ⟨A.ISP_TAGERR i, 7, 0⟩
def F.ISP_TAGERR_OVERWRITE (i : Nat) : Fld := ⟨A.ISP_TAGERR i, 15, 8⟩
def F.ISP_STATS_READY_READY : Fld := ⟨A.ISP_STATS_READY, 15, 0⟩
def F.ISP_STATS_SEQ_SEQ (i : Nat) : Fld := ⟨A.ISP_STATS_SEQ i, 31, 0⟩
def F.ISP_PSET_WORD (i : Nat) (j : Nat) : Fld := ⟨A.ISP_PSET i j, 31, 0⟩
def F.ISP_PSET_COMMIT_TAG (i : Nat) : Fld := ⟨A.ISP_PSET_COMMIT i, 15, 0⟩
def F.SVE_STATUS_BUSY : Fld := ⟨A.SVE_STATUS, 0, 0⟩
def F.SVE_STATUS_CLEARING : Fld := ⟨A.SVE_STATUS, 1, 1⟩
def F.SVE_STATUS_QUEUE : Fld := ⟨A.SVE_STATUS, 12, 2⟩
def F.SVE_GEN_BELL : Fld := ⟨A.SVE_GEN, 31, 0⟩
def F.SVE_VOX_ENTRIES : Fld := ⟨A.SVE_VOX, 23, 0⟩
def F.SVE_VOX_MAXDIST : Fld := ⟨A.SVE_VOX, 28, 24⟩
def F.SVE_VOX_OVF : Fld := ⟨A.SVE_VOX, 29, 29⟩
def F.SVE_EGO_HELD : Fld := ⟨A.SVE_EGO, 15, 0⟩
def F.SVE_EGO_REJECT : Fld := ⟨A.SVE_EGO, 23, 16⟩
def F.SVE_EGO_NS_NS : Fld := ⟨A.SVE_EGO_NS, 31, 0⟩
def F.SVE_INGEST_VOID : Fld := ⟨A.SVE_INGEST, 7, 0⟩
def F.SVE_INGEST_REUSED : Fld := ⟨A.SVE_INGEST, 15, 8⟩
def F.SVE_INGEST_LATE : Fld := ⟨A.SVE_INGEST, 23, 16⟩
def F.SVE_POINTS_POINTS (i : Nat) : Fld := ⟨A.SVE_POINTS i, 31, 0⟩
def F.SVE_DROP_STALE (i : Nat) : Fld := ⟨A.SVE_DROP i, 7, 0⟩
def F.SVE_DROP_FUTURE (i : Nat) : Fld := ⟨A.SVE_DROP i, 15, 8⟩
def F.SVE_DROP_RANGE (i : Nat) : Fld := ⟨A.SVE_DROP i, 23, 16⟩
def F.SVE_DROP_OVF (i : Nat) : Fld := ⟨A.SVE_DROP i, 31, 24⟩
def F.SVE_BAD_BAD (i : Nat) : Fld := ⟨A.SVE_BAD i, 15, 0⟩
def F.SVE_BAD_LOST (i : Nat) : Fld := ⟨A.SVE_BAD i, 31, 16⟩
def F.SVE_SAMPLE_COUNTER (i : Nat) : Fld := ⟨A.SVE_SAMPLE i, 15, 0⟩
def F.SVE_SAMPLE_CAUSE (i : Nat) : Fld := ⟨A.SVE_SAMPLE i, 23, 16⟩
def F.SVE_SAMPLE_ND (i : Nat) : Fld := ⟨A.SVE_SAMPLE i, 24, 24⟩
def F.TSU_STATUS_STATE : Fld := ⟨A.TSU_STATUS, 2, 0⟩
def F.TSU_STATUS_FREE_RUNNING : Fld := ⟨A.TSU_STATUS, 3, 3⟩
def F.TSU_STATUS_STEPPED : Fld := ⟨A.TSU_STATUS, 4, 4⟩
def F.TSU_STATUS_LATE_STEP : Fld := ⟨A.TSU_STATUS, 5, 5⟩
def F.TSU_STATUS_TIMEOUT : Fld := ⟨A.TSU_STATUS, 6, 6⟩
def F.TSU_STATUS_SLAVE : Fld := ⟨A.TSU_STATUS, 11, 8⟩
def F.TSU_SEC_LO_SEC : Fld := ⟨A.TSU_SEC_LO, 31, 0⟩
def F.TSU_SEC_HI_SEC : Fld := ⟨A.TSU_SEC_HI, 15, 0⟩
def F.TSU_NS_NS : Fld := ⟨A.TSU_NS, 29, 0⟩
def F.TSU_FRAC_FRAC : Fld := ⟨A.TSU_FRAC, 31, 0⟩
def F.TSU_RATE_RATE : Fld := ⟨A.TSU_RATE, 31, 0⟩
def F.TSU_OFFSET_O : Fld := ⟨A.TSU_OFFSET, 31, 0⟩
def F.TSU_PDELAY_DELAY : Fld := ⟨A.TSU_PDELAY, 31, 0⟩
def F.TSU_STEP_LO_STEP : Fld := ⟨A.TSU_STEP_LO, 31, 0⟩
def F.TSU_STEP_HI_STEP : Fld := ⟨A.TSU_STEP_HI, 31, 0⟩
def F.TSU_BELL_LO_BELL : Fld := ⟨A.TSU_BELL_LO, 31, 0⟩
def F.TSU_BELL_HI_BELL : Fld := ⟨A.TSU_BELL_HI, 31, 0⟩
def F.TSU_PORT_IN_INGRESS (i : Nat) : Fld := ⟨A.TSU_PORT_IN i, 31, 0⟩
def F.TSU_PORT_EG_EGRESS (i : Nat) : Fld := ⟨A.TSU_PORT_EG i, 31, 0⟩
def F.TSU_PORT_ASYM_ASYM (i : Nat) : Fld := ⟨A.TSU_PORT_ASYM i, 31, 0⟩
def F.TSU_PORT_STAT_ROLE (i : Nat) : Fld := ⟨A.TSU_PORT_STAT i, 1, 0⟩
def F.TSU_PORT_STAT_BAD (i : Nat) : Fld := ⟨A.TSU_PORT_STAT i, 15, 8⟩
def F.JXL_STATUS_PHASE : Fld := ⟨A.JXL_STATUS, 1, 0⟩
def F.JXL_STATUS_MASTER : Fld := ⟨A.JXL_STATUS, 2, 2⟩
def F.JXL_STATUS_GO_SEEN : Fld := ⟨A.JXL_STATUS, 3, 3⟩
def F.JXL_STATUS_MODULE : Fld := ⟨A.JXL_STATUS, 5, 4⟩
def F.JXL_STATUS_MEMBERS : Fld := ⟨A.JXL_STATUS, 11, 8⟩
def F.JXL_STATUS_LOST : Fld := ⟨A.JXL_STATUS, 15, 12⟩
def F.JXL_STATUS_MINOR : Fld := ⟨A.JXL_STATUS, 23, 16⟩
def F.JXL_STATUS_MAJOR : Fld := ⟨A.JXL_STATUS, 31, 24⟩
def F.JXL_FIRST_LO_BELL : Fld := ⟨A.JXL_FIRST_LO, 31, 0⟩
def F.JXL_FIRST_HI_BELL : Fld := ⟨A.JXL_FIRST_HI, 31, 0⟩
def F.JXL_GO_SKEW_SKEW : Fld := ⟨A.JXL_GO_SKEW, 31, 0⟩
def F.JXL_LOOP_CYCLES : Fld := ⟨A.JXL_LOOP, 15, 0⟩
def F.JXL_EVENTS_LOST : Fld := ⟨A.JXL_EVENTS, 7, 0⟩
def F.JXL_EVENTS_REFUSED : Fld := ⟨A.JXL_EVENTS, 15, 8⟩
def F.JXL_PEER_BELL_BELL (i : Nat) : Fld := ⟨A.JXL_PEER_BELL i, 31, 0⟩
def F.FLT_STATUS_AGG : Fld := ⟨A.FLT_STATUS, 2, 0⟩
def F.FLT_STATUS_STATE : Fld := ⟨A.FLT_STATUS, 5, 3⟩
def F.FLT_STATUS_ALIVE_ON : Fld := ⟨A.FLT_STATUS, 6, 6⟩
def F.FLT_STATUS_IBI_PEND : Fld := ⟨A.FLT_STATUS, 7, 7⟩
def F.FLT_STATUS_INJ_EN : Fld := ⟨A.FLT_STATUS, 8, 8⟩
def F.FLT_STATUS_SAFE_REQ_USED : Fld := ⟨A.FLT_STATUS, 9, 9⟩
def F.FLT_STATUS_SAFE_REQ : Fld := ⟨A.FLT_STATUS, 10, 10⟩
def F.FLT_ACK_AGG : Fld := ⟨A.FLT_ACK, 0, 0⟩
def F.FLT_SEQ_SEQ : Fld := ⟨A.FLT_SEQ, 31, 0⟩
def F.FLT_LAST_WORD (i : Nat) : Fld := ⟨A.FLT_LAST i, 31, 0⟩
def F.FLT_HEARTBEAT_BELL : Fld := ⟨A.FLT_HEARTBEAT, 31, 0⟩
def F.FLT_GATE_BELL : Fld := ⟨A.FLT_GATE, 31, 0⟩
def F.FLT_HB_SEEN_VALUE : Fld := ⟨A.FLT_HB_SEEN, 31, 0⟩
def F.FLT_SAFE_CAUSE_SOURCE : Fld := ⟨A.FLT_SAFE_CAUSE, 11, 0⟩
def F.FLT_SAFE_CAUSE_KIND : Fld := ⟨A.FLT_SAFE_CAUSE, 19, 12⟩
def F.FLT_SAFE_CAUSE_VALID : Fld := ⟨A.FLT_SAFE_CAUSE, 20, 20⟩
def F.FLT_ALIVE_FREQ : Fld := ⟨A.FLT_ALIVE, 1, 0⟩
def F.FLT_ALIVE_A_RB : Fld := ⟨A.FLT_ALIVE, 2, 2⟩
def F.FLT_ALIVE_B_RB : Fld := ⟨A.FLT_ALIVE, 3, 3⟩
def F.FLT_PERSIST_WRITTEN : Fld := ⟨A.FLT_PERSIST, 15, 0⟩
def F.FLT_PERSIST_QUEUE : Fld := ⟨A.FLT_PERSIST, 22, 16⟩
def F.FLT_PERSIST_LOST : Fld := ⟨A.FLT_PERSIST, 31, 24⟩
def F.FLT_BOOTS_BOOTS : Fld := ⟨A.FLT_BOOTS, 31, 0⟩
def F.FLT_SW_ADDR_ADDR : Fld := ⟨A.FLT_SW_ADDR, 31, 0⟩
def F.FLT_SW_ADDR_HI : Fld := ⟨A.FLT_SW, 7, 0⟩
def F.FLT_SW_KIND : Fld := ⟨A.FLT_SW, 15, 8⟩
def F.FLT_SW_OFFSET : Fld := ⟨A.FLT_SW, 21, 16⟩
def F.FLT_INJ_CTRL_TARGET : Fld := ⟨A.FLT_INJ_CTRL, 3, 0⟩
def F.FLT_INJ_CTRL_GO : Fld := ⟨A.FLT_INJ_CTRL, 4, 4⟩
def F.FLT_INJ_ARG0_ARG : Fld := ⟨A.FLT_INJ_ARG0, 31, 0⟩
def F.FLT_INJ_ARG1_ARG : Fld := ⟨A.FLT_INJ_ARG1, 31, 0⟩
def F.FLT_KSEV_CORE (i : Nat) : Fld := ⟨A.FLT_KSEV i, 2, 0⟩
def F.FLT_KSEV_CHIP (i : Nat) : Fld := ⟨A.FLT_KSEV i, 6, 4⟩
def F.FLT_SEV_SEV0 (i : Nat) : Fld := ⟨A.FLT_SEV i, 2, 0⟩
def F.FLT_SEV_SEV1 (i : Nat) : Fld := ⟨A.FLT_SEV i, 6, 4⟩
def F.FLT_SEV_SEV2 (i : Nat) : Fld := ⟨A.FLT_SEV i, 10, 8⟩
def F.FLT_SEV_SEV3 (i : Nat) : Fld := ⟨A.FLT_SEV i, 14, 12⟩
def F.FLT_SEV_SEV4 (i : Nat) : Fld := ⟨A.FLT_SEV i, 18, 16⟩
def F.FLT_SEV_SEV5 (i : Nat) : Fld := ⟨A.FLT_SEV i, 22, 20⟩
def F.FLT_SEV_SEV6 (i : Nat) : Fld := ⟨A.FLT_SEV i, 26, 24⟩
def F.FLT_SEV_SEV7 (i : Nat) : Fld := ⟨A.FLT_SEV i, 30, 28⟩
def F.FLT_SRC_CNT_COUNT (i : Nat) : Fld := ⟨A.FLT_SRC_CNT i, 15, 0⟩
def F.FLT_SRC_CNT_MERGED (i : Nat) : Fld := ⟨A.FLT_SRC_CNT i, 31, 16⟩
def F.LKS_STATUS_SPLIT : Fld := ⟨A.LKS_STATUS, 0, 0⟩
def F.LKS_STATUS_CP0_STOP : Fld := ⟨A.LKS_STATUS, 1, 1⟩
def F.LKS_STATUS_CP1_STOP : Fld := ⟨A.LKS_STATUS, 2, 2⟩
def F.LKS_STATUS_COLL_ERR : Fld := ⟨A.LKS_STATUS, 3, 3⟩
def F.LKS_STATUS_DBG_CP0 : Fld := ⟨A.LKS_STATUS, 4, 4⟩
def F.LKS_STATUS_DBG_CP1 : Fld := ⟨A.LKS_STATUS, 5, 5⟩
def F.LKS_MM_CYC_CYCLE (i : Nat) : Fld := ⟨A.LKS_MM_CYC i, 31, 0⟩
def F.LKS_MM_INFO_GROUP (i : Nat) : Fld := ⟨A.LKS_MM_INFO i, 2, 0⟩
def F.LKS_MM_INFO_VALID (i : Nat) : Fld := ⟨A.LKS_MM_INFO i, 3, 3⟩
def F.LKS_ROLL_CP0 : Fld := ⟨A.LKS_ROLL, 0, 0⟩
def F.LKS_ROLL_CP1 : Fld := ⟨A.LKS_ROLL, 1, 1⟩
def F.LKS_ROLL_COLL : Fld := ⟨A.LKS_ROLL, 2, 2⟩
def F.LKS_ROLL_DUAL_A : Fld := ⟨A.LKS_ROLL, 3, 3⟩
def F.LKS_ROLL_DUAL_B : Fld := ⟨A.LKS_ROLL, 4, 4⟩
def F.LKS_ROLL_SEQ_PASS (i : Nat) : Fld := ⟨A.LKS_ROLL_SEQ i, 31, 0⟩
def F.LKS_LATENT_PASSES : Fld := ⟨A.LKS_LATENT, 31, 0⟩
def F.LKS_LATENT_ERR_ERR : Fld := ⟨A.LKS_LATENT_ERR, 7, 0⟩
def F.LKS_DBG_ACT_ACTIONS : Fld := ⟨A.LKS_DBG_ACT, 31, 0⟩
def F.TST_STATUS_QUEUE : Fld := ⟨A.TST_STATUS, 4, 0⟩
def F.TST_STATUS_DIGEST_BUSY : Fld := ⟨A.TST_STATUS, 5, 5⟩
def F.TST_STATUS_DFAILED : Fld := ⟨A.TST_STATUS, 9, 6⟩
def F.TST_STATUS_CFAILED : Fld := ⟨A.TST_STATUS, 17, 10⟩
def F.TST_CONTENT_CONTENT_ID : Fld := ⟨A.TST_CONTENT, 31, 0⟩
def F.TST_FAILS_STRAND : Fld := ⟨A.TST_FAILS, 15, 0⟩
def F.TST_FAILS_UNIT : Fld := ⟨A.TST_FAILS, 31, 16⟩
def F.TST_EVIDENCE_EVENTS : Fld := ⟨A.TST_EVIDENCE, 7, 0⟩
def F.TST_EVIDENCE_ATTRIB : Fld := ⟨A.TST_EVIDENCE, 15, 8⟩
def F.TST_EVIDENCE_UNATTR : Fld := ⟨A.TST_EVIDENCE, 23, 16⟩
def F.TST_EVIDENCE_NONE : Fld := ⟨A.TST_EVIDENCE, 31, 24⟩
def F.TST_DIGEST_NEXT : Fld := ⟨A.TST_DIGEST, 11, 0⟩
def F.TST_DIGEST_BAD : Fld := ⟨A.TST_DIGEST, 22, 16⟩
def F.TST_DIGEST_PASS_PASSES : Fld := ⟨A.TST_DIGEST_PASS, 31, 0⟩
def F.TST_COVERAGE_MISSED : Fld := ⟨A.TST_COVERAGE, 7, 0⟩
def F.TST_REQ_KIND : Fld := ⟨A.TST_REQ, 2, 0⟩
def F.TST_REQ_TARGET : Fld := ⟨A.TST_REQ, 9, 3⟩
def F.TST_REQ_DETECT : Fld := ⟨A.TST_REQ, 10, 10⟩
def F.TST_REQ_GO : Fld := ⟨A.TST_REQ, 31, 31⟩
def F.TST_UNATTR_COUNT (i : Nat) : Fld := ⟨A.TST_UNATTR i, 1, 0⟩
def F.TST_RUBRIC_FAIL (i : Nat) : Fld := ⟨A.TST_RUBRIC i, 15, 0⟩
def F.TST_RUBRIC_SKIP (i : Nat) : Fld := ⟨A.TST_RUBRIC i, 31, 16⟩
def F.SEC_STATUS_LC : Fld := ⟨A.SEC_STATUS, 2, 0⟩
def F.SEC_STATUS_GRADE : Fld := ⟨A.SEC_STATUS, 4, 3⟩
def F.SEC_STATUS_KEYS : Fld := ⟨A.SEC_STATUS, 5, 5⟩
def F.SEC_STATUS_TAMPER : Fld := ⟨A.SEC_STATUS, 6, 6⟩
def F.SEC_STATUS_UNLOCKED : Fld := ⟨A.SEC_STATUS, 7, 7⟩
def F.SEC_STATUS_JTAG : Fld := ⟨A.SEC_STATUS, 8, 8⟩
def F.SEC_STATUS_BUSY : Fld := ⟨A.SEC_STATUS, 9, 9⟩
def F.SEC_ARB_COUNTER : Fld := ⟨A.SEC_ARB, 6, 0⟩
def F.SEC_ARB_SVN : Fld := ⟨A.SEC_ARB, 14, 8⟩
def F.SEC_KEYS_STATE0 : Fld := ⟨A.SEC_KEYS, 1, 0⟩
def F.SEC_KEYS_STATE1 : Fld := ⟨A.SEC_KEYS, 9, 8⟩
def F.SEC_KEYS_STATE2 : Fld := ⟨A.SEC_KEYS, 17, 16⟩
def F.SEC_KEYS_STATE3 : Fld := ⟨A.SEC_KEYS, 25, 24⟩
def F.SEC_TAMPER_ENCLOSURE : Fld := ⟨A.SEC_TAMPER, 7, 0⟩
def F.SEC_TAMPER_VGLITCH : Fld := ⟨A.SEC_TAMPER, 15, 8⟩
def F.SEC_TAMPER_CGLITCH : Fld := ⟨A.SEC_TAMPER, 23, 16⟩
def F.SEC_CMD_OP : Fld := ⟨A.SEC_CMD, 3, 0⟩
def F.SEC_CMD_GO : Fld := ⟨A.SEC_CMD, 31, 31⟩
def F.SEC_BUF_WORD : Fld := ⟨A.SEC_BUF, 20, 0⟩
def F.SEC_RESULT_CODE : Fld := ⟨A.SEC_RESULT, 7, 0⟩
def F.SEC_RESULT_DONE : Fld := ⟨A.SEC_RESULT, 8, 8⟩
def F.SEC_ATTEMPT_ATTEMPT : Fld := ⟨A.SEC_ATTEMPT, 31, 0⟩
def F.SEC_CHALLENGE_WORD (i : Nat) : Fld := ⟨A.SEC_CHALLENGE i, 31, 0⟩
def F.SEC_MANIFEST_WORD (i : Nat) : Fld := ⟨A.SEC_MANIFEST i, 31, 0⟩
def F.SEC_WDIG_WORD (i : Nat) : Fld := ⟨A.SEC_WDIG i, 31, 0⟩
def F.SEC_IDPUB_WORD (i : Nat) : Fld := ⟨A.SEC_IDPUB i, 31, 0⟩
def F.SEC_LKT_ADDR_WORD : Fld := ⟨A.SEC_LKT_ADDR, 16, 2⟩
def F.SEC_LKT_DATA_DATA : Fld := ⟨A.SEC_LKT_DATA, 31, 0⟩
def F.SHK_STATUS_BUSY : Fld := ⟨A.SHK_STATUS, 3, 0⟩
def F.SHK_STATUS_SIGNING : Fld := ⟨A.SHK_STATUS, 4, 4⟩
def F.SHK_BYTES_UNITS : Fld := ⟨A.SHK_BYTES, 31, 0⟩
def F.SHK_CLASS_UNITS (i : Nat) : Fld := ⟨A.SHK_CLASS i, 31, 0⟩
def F.SHK_HALLMARKS_COUNT : Fld := ⟨A.SHK_HALLMARKS, 15, 0⟩
def F.SHK_SIGN_US_US : Fld := ⟨A.SHK_SIGN_US, 31, 0⟩
def F.CLK_STATUS_REF_OK : Fld := ⟨A.CLK_STATUS, 0, 0⟩
def F.CLK_STATUS_PLL_LOCK : Fld := ⟨A.CLK_STATUS, 1, 1⟩
def F.CLK_STATUS_ALIGNED : Fld := ⟨A.CLK_STATUS, 2, 2⟩
def F.CLK_STATUS_PHASE_ERR : Fld := ⟨A.CLK_STATUS, 3, 3⟩
def F.CLK_STATUS_REPEATS : Fld := ⟨A.CLK_STATUS, 5, 4⟩
def F.CLK_ROOT_MULT : Fld := ⟨A.CLK_ROOT, 11, 0⟩
def F.CLK_DIV0_ARITH : Fld := ⟨A.CLK_DIV0, 7, 0⟩
def F.CLK_DIV0_FABRIC : Fld := ⟨A.CLK_DIV0, 15, 8⟩
def F.CLK_DIV0_MEMCTL : Fld := ⟨A.CLK_DIV0, 23, 16⟩
def F.CLK_DIV0_CTRL : Fld := ⟨A.CLK_DIV0, 31, 24⟩
def F.CLK_DIV1_PIX : Fld := ⟨A.CLK_DIV1, 7, 0⟩
def F.CLK_DIV1_TIME : Fld := ⟨A.CLK_DIV1, 15, 8⟩
def F.CLK_DIV1_PHY : Fld := ⟨A.CLK_DIV1, 23, 16⟩
def F.CLK_SERDES_APHY_RX : Fld := ⟨A.CLK_SERDES, 15, 0⟩
def F.CLK_SERDES_APHY_TX : Fld := ⟨A.CLK_SERDES, 19, 16⟩
def F.CLK_SERDES_ETH : Fld := ⟨A.CLK_SERDES, 25, 20⟩
def F.PWR_STATE_STATE : Fld := ⟨A.PWR_STATE, 2, 0⟩
def F.PWR_STATE_STEP : Fld := ⟨A.PWR_STATE, 7, 4⟩
def F.PWR_STATE_PARK_PENDING : Fld := ⟨A.PWR_STATE, 8, 8⟩
def F.PWR_STATE_MAINT_PENDING : Fld := ⟨A.PWR_STATE, 9, 9⟩
def F.PWR_CAUSE_POWER_ON : Fld := ⟨A.PWR_CAUSE, 0, 0⟩
def F.PWR_CAUSE_WARM_CMD : Fld := ⟨A.PWR_CAUSE, 1, 1⟩
def F.PWR_CAUSE_WARM_CP0 : Fld := ⟨A.PWR_CAUSE, 2, 2⟩
def F.PWR_CAUSE_CLK_LOSS : Fld := ⟨A.PWR_CAUSE, 3, 3⟩
def F.PWR_CTRL_RESET : Fld := ⟨A.PWR_CTRL, 0, 0⟩
def F.PWR_CTRL_PARK : Fld := ⟨A.PWR_CTRL, 1, 1⟩
def F.PWR_CTRL_KEY : Fld := ⟨A.PWR_CTRL, 31, 16⟩
def F.PWR_WAKE_PIN : Fld := ⟨A.PWR_WAKE, 0, 0⟩
def F.PWR_WAKE_SOURCE : Fld := ⟨A.PWR_WAKE, 2, 1⟩
def F.PWR_PARKS_COUNT : Fld := ⟨A.PWR_PARKS, 15, 0⟩
def F.PWR_WAKE_US_US : Fld := ⟨A.PWR_WAKE_US, 31, 0⟩
def F.BOOT_STATUS_STEP : Fld := ⟨A.BOOT_STATUS, 3, 0⟩
def F.BOOT_STATUS_SLOT_VALID : Fld := ⟨A.BOOT_STATUS, 4, 4⟩
def F.BOOT_STATUS_SLOT : Fld := ⟨A.BOOT_STATUS, 5, 5⟩
def F.BOOT_STATUS_LOADS : Fld := ⟨A.BOOT_STATUS, 7, 6⟩
def F.BOOT_STATUS_CAUSE : Fld := ⟨A.BOOT_STATUS, 11, 8⟩
def F.BOOT_STATUS_SAFE_AT_START : Fld := ⟨A.BOOT_STATUS, 12, 12⟩
def F.BOOT_SLOTS_STATE_A : Fld := ⟨A.BOOT_SLOTS, 2, 0⟩
def F.BOOT_SLOTS_CHECK_A : Fld := ⟨A.BOOT_SLOTS, 3, 3⟩
def F.BOOT_SLOTS_STATE_B : Fld := ⟨A.BOOT_SLOTS, 6, 4⟩
def F.BOOT_SLOTS_CHECK_B : Fld := ⟨A.BOOT_SLOTS, 7, 7⟩
def F.BOOT_T_US (i : Nat) : Fld := ⟨A.BOOT_T i, 31, 0⟩
def F.BOOT_RESIDENT_LO_BYTES : Fld := ⟨A.BOOT_RESIDENT_LO, 31, 0⟩
def F.BOOT_RESIDENT_HI_BYTES : Fld := ⟨A.BOOT_RESIDENT_HI, 31, 0⟩
def F.BOOT_FIRST_LO_BELL : Fld := ⟨A.BOOT_FIRST_LO, 31, 0⟩
def F.BOOT_FIRST_HI_BELL : Fld := ⟨A.BOOT_FIRST_HI, 31, 0⟩
def F.BOOT_WDOG_MS : Fld := ⟨A.BOOT_WDOG, 13, 0⟩
def F.BOOT_SEQ_LO_SEQ : Fld := ⟨A.BOOT_SEQ_LO, 31, 0⟩
def F.BOOT_SEQ_HI_SEQ : Fld := ⟨A.BOOT_SEQ_HI, 31, 0⟩
def F.I3C_STATUS_DA : Fld := ⟨A.I3C_STATUS, 6, 0⟩
def F.I3C_STATUS_DA_VALID : Fld := ⟨A.I3C_STATUS, 7, 7⟩
def F.I3C_STATUS_IBI_EN : Fld := ⟨A.I3C_STATUS, 8, 8⟩
def F.I3C_STATUS_HDR : Fld := ⟨A.I3C_STATUS, 9, 9⟩
def F.I3C_CMDSET_VER_DECL_MINOR : Fld := ⟨A.I3C_CMDSET_VER, 7, 0⟩
def F.I3C_CMDSET_VER_DECL_MAJOR : Fld := ⟨A.I3C_CMDSET_VER, 15, 8⟩
def F.I3C_CMDSET_VER_MINOR : Fld := ⟨A.I3C_CMDSET_VER, 23, 16⟩
def F.I3C_CMDSET_VER_MAJOR : Fld := ⟨A.I3C_CMDSET_VER, 31, 24⟩
def F.I3C_CMD_OP : Fld := ⟨A.I3C_CMD, 7, 0⟩
def F.I3C_CMD_TAG : Fld := ⟨A.I3C_CMD, 15, 8⟩
def F.I3C_CMD_GO : Fld := ⟨A.I3C_CMD, 31, 31⟩
def F.I3C_ARG_ARG (i : Nat) : Fld := ⟨A.I3C_ARG i, 31, 0⟩
def F.I3C_RESP_CODE : Fld := ⟨A.I3C_RESP, 7, 0⟩
def F.I3C_RESP_TAG : Fld := ⟨A.I3C_RESP, 15, 8⟩
def F.I3C_RESP_DONE : Fld := ⟨A.I3C_RESP, 16, 16⟩
def F.I3C_RESP_BUSY : Fld := ⟨A.I3C_RESP, 17, 17⟩
def F.I3C_RET_RET (i : Nat) : Fld := ⟨A.I3C_RET i, 31, 0⟩
def F.I3C_PAGE_PAGE : Fld := ⟨A.I3C_PAGE, 3, 0⟩
def F.I3C_PID_LO_PID : Fld := ⟨A.I3C_PID_LO, 31, 0⟩
def F.I3C_PID_HI_PID : Fld := ⟨A.I3C_PID_HI, 15, 0⟩
def F.I3C_ERR_PARTIAL : Fld := ⟨A.I3C_ERR, 7, 0⟩
def F.I3C_ERR_PARITY : Fld := ⟨A.I3C_ERR, 15, 8⟩
def F.I3C_ERR_IBI_NACK : Fld := ⟨A.I3C_ERR, 23, 16⟩
def F.ETH_STATUS_LINK (i : Nat) : Fld := ⟨A.ETH_STATUS i, 0, 0⟩
def F.ETH_STATUS_PLL (i : Nat) : Fld := ⟨A.ETH_STATUS i, 1, 1⟩
def F.ETH_STATUS_IP (i : Nat) : Fld := ⟨A.ETH_STATUS i, 2, 2⟩
def F.ETH_TX_DATAGRAMS (i : Nat) : Fld := ⟨A.ETH_TX i, 31, 0⟩
def F.ETH_DROP_RECORDS (i : Nat) : Fld := ⟨A.ETH_DROP i, 15, 0⟩
def F.ETH_DROP_RX_BAD (i : Nat) : Fld := ⟨A.ETH_DROP i, 31, 16⟩
def F.ETH_MAC_LO_MAC : Fld := ⟨A.ETH_MAC_LO, 31, 0⟩
def F.ETH_MAC_HI_MAC : Fld := ⟨A.ETH_MAC_HI, 15, 0⟩
def F.ETH_DEST_HELLO (i : Nat) : Fld := ⟨A.ETH_DEST i, 0, 0⟩
def F.ETH_DEST_REFUSED (i : Nat) : Fld := ⟨A.ETH_DEST i, 5, 1⟩
def F.CSO_STATUS_UP (i : Nat) : Fld := ⟨A.CSO_STATUS i, 0, 0⟩
def F.CSO_STATUS_GEAR (i : Nat) : Fld := ⟨A.CSO_STATUS i, 3, 1⟩
def F.CSO_STATUS_MAJOR (i : Nat) : Fld := ⟨A.CSO_STATUS i, 15, 8⟩
def F.CSO_STATUS_MINOR (i : Nat) : Fld := ⟨A.CSO_STATUS i, 23, 16⟩
def F.CSO_FRAMES_FRAMES (i : Nat) : Fld := ⟨A.CSO_FRAMES i, 31, 0⟩
def F.CSO_DROP_RECORDS (i : Nat) : Fld := ⟨A.CSO_DROP i, 15, 0⟩
def F.CSO_OUT_BELL_BELL (i : Nat) : Fld := ⟨A.CSO_OUT_BELL i, 31, 0⟩
def F.CSO_OUT_VOID_VOID (i : Nat) : Fld := ⟨A.CSO_OUT_VOID i, 15, 0⟩
def F.CSO_OUT_VOID_CONTESTED (i : Nat) : Fld := ⟨A.CSO_OUT_VOID i, 31, 16⟩
def F.PWR_SUPPLY_VIN : Fld := ⟨A.PWR_SUPPLY, 15, 0⟩
def F.PWR_SUPPLY_IIN : Fld := ⟨A.PWR_SUPPLY, 31, 16⟩
def F.PWR_POWER_PIN : Fld := ⟨A.PWR_POWER, 15, 0⟩
def F.PWR_POWER_POC : Fld := ⟨A.PWR_POWER, 31, 16⟩
def F.PWR_TEMP_DIE : Fld := ⟨A.PWR_TEMP, 7, 0⟩
def F.PWR_TEMP_DIE_MAX : Fld := ⟨A.PWR_TEMP, 15, 8⟩
def F.PWR_TEMP_COOLANT : Fld := ⟨A.PWR_TEMP, 23, 16⟩
def F.PWR_FLAGS_VIN_WARN : Fld := ⟨A.PWR_FLAGS, 0, 0⟩
def F.PWR_FLAGS_DIE_WARN : Fld := ⟨A.PWR_FLAGS, 1, 1⟩
def F.PWR_FLAGS_COOL_WARN : Fld := ⟨A.PWR_FLAGS, 2, 2⟩
def F.PWR_FLAGS_UV : Fld := ⟨A.PWR_FLAGS, 3, 3⟩
def F.PWR_POC_ON : Fld := ⟨A.PWR_POC, 15, 0⟩
def F.PWR_POC_LATCHED : Fld := ⟨A.PWR_POC, 31, 16⟩
def F.PWR_POC_MW_MW (i : Nat) : Fld := ⟨A.PWR_POC_MW i, 15, 0⟩
def F.CHIP_ID_STEP : Fld := ⟨A.CHIP_ID, 15, 0⟩
def F.CHIP_ID_GEN : Fld := ⟨A.CHIP_ID, 19, 16⟩
def F.CHIP_PART_PART : Fld := ⟨A.CHIP_PART, 15, 0⟩
def F.CORE_ID_PHYS (i : Nat) : Fld := ⟨A.CORE_ID i, 6, 0⟩
def F.CORE_STATE_HEALTHY (i : Nat) : Fld := ⟨A.CORE_STATE i, 0, 0⟩
def F.CORE_STATE_SPARE (i : Nat) : Fld := ⟨A.CORE_STATE i, 1, 1⟩
def F.CORE_STATE_FENCED (i : Nat) : Fld := ⟨A.CORE_STATE i, 2, 2⟩
def F.CORE_STATE_LOADING (i : Nat) : Fld := ⟨A.CORE_STATE i, 3, 3⟩
def F.CORE_STATE_FENCE_KIND (i : Nat) : Fld := ⟨A.CORE_STATE i, 15, 8⟩
def F.CORE_STATE_FENCE_SRC (i : Nat) : Fld := ⟨A.CORE_STATE i, 27, 16⟩

def regRowsCHIP0 : List RegRow := [
  ⟨"CHIP_REMAP", 0x2000000400, [(4, 64)], [(6, 0, .ro, 0), (7, 7, .ro, 0), (14, 8, .ro, 0), (15, 15, .ro, 0), (16, 16, .w1c, 0), (31, 17, .ro, 0)]⟩,
  ⟨"CHIP_SPARE", 0x2000000500, [], [(6, 0, .ro, 127), (7, 7, .ro, 0), (14, 8, .ro, 127), (15, 15, .ro, 0), (23, 16, .ro, 0), (31, 24, .ro, 0)]⟩,
  ⟨"CHIP_GEOM_CORE", 0x2000000100, [], [(6, 0, .ro, 66), (7, 7, .ro, 0), (14, 8, .ro, 64), (15, 15, .ro, 0), (19, 16, .ro, 8), (23, 20, .ro, 0), (30, 24, .ro, 100), (31, 31, .ro, 0)]⟩,
  ⟨"CHIP_GEOM_OB", 0x2000000104, [], [(15, 0, .ro, 32768), (31, 16, .ro, 16384)]⟩,
  ⟨"CHIP_GEOM_DESK", 0x2000000108, [], [(7, 0, .ro, 32), (15, 8, .ro, 32), (31, 16, .ro, 2048)]⟩,
  ⟨"CHIP_GEOM_LIB", 0x200000010c, [], [(15, 0, .ro, 256), (23, 16, .ro, 64), (31, 24, .ro, 0)]⟩,
  ⟨"CHIP_GEOM_LIBW", 0x2000000110, [], [(31, 0, .ro, 8192)]⟩,
  ⟨"CHIP_GEOM_LOCKET", 0x2000000114, [], [(31, 0, .ro, 262144)]⟩,
  ⟨"CHIP_ID", 0x2000000000, [], [(15, 0, .ro, 12354), (19, 16, .ro, 1), (31, 20, .ro, 0)]⟩,
  ⟨"CHIP_PART", 0x2000000004, [], [(15, 0, .ro, 29284), (31, 16, .ro, 0)]⟩]
def regRowsCHIP : List RegRow := regRowsCHIP0

def regRowsTT0 : List RegRow := [
  ⟨"TT_STATUS", 0x2010004000, [(1048576, 66)], [(0, 0, .ro, 0), (1, 1, .ro, 0), (2, 2, .w1c, 0), (3, 3, .ro, 0), (7, 4, .ro, 0), (13, 8, .ro, 0), (14, 14, .ro, 0), (31, 15, .ro, 0)]⟩,
  ⟨"TT_CYCLE", 0x2010004004, [(1048576, 66)], [(27, 0, .ro, 0), (31, 28, .ro, 0)]⟩,
  ⟨"TT_BELL", 0x2010004008, [(1048576, 66)], [(31, 0, .ro, 0)]⟩,
  ⟨"TT_LEN", 0x201000400c, [(1048576, 66)], [(27, 0, .ro, 0), (31, 28, .ro, 0)]⟩,
  ⟨"TT_PC", 0x2010004010, [(1048576, 66)], [(23, 0, .ro, 0), (31, 24, .ro, 0)]⟩,
  ⟨"TT_FLT_CNT", 0x2010004020, [(1048576, 66)], [(7, 0, .rc, 0), (15, 8, .rc, 0), (23, 16, .rc, 0), (31, 24, .rc, 0)]⟩,
  ⟨"TT_LAST_FLT", 0x2010004024, [(1048576, 66)], [(7, 0, .ro, 0), (15, 8, .ro, 0), (31, 16, .ro, 0)]⟩,
  ⟨"TT_LAST_CYC", 0x2010004028, [(1048576, 66)], [(27, 0, .ro, 0), (31, 28, .ro, 0)]⟩,
  ⟨"TT_SLACK_MIN", 0x201000402c, [(1048576, 66)], [(27, 0, .ro, 268435455), (31, 28, .ro, 0)]⟩,
  ⟨"TT_SEQ_CMP", 0x2010004030, [(1048576, 66)], [(0, 0, .w1c, 0), (31, 1, .ro, 0)]⟩]
def regRowsTT : List RegRow := regRowsTT0

def regRowsENG0 : List RegRow := [
  ⟨"ENG_STATUS", 0x2010002000, [(1048576, 66), (256, 8)], [(0, 0, .ro, 0), (1, 1, .ro, 0), (4, 2, .ro, 4), (7, 5, .ro, 0), (14, 8, .ro, 96), (31, 15, .ro, 0)]⟩,
  ⟨"ENG_STEP", 0x2010002004, [(1048576, 66), (256, 8)], [(7, 0, .ro, 0), (15, 8, .ro, 0), (31, 16, .ro, 0)]⟩,
  ⟨"ENG_RETIRED", 0x2010002008, [(1048576, 66), (256, 8)], [(6, 0, .ro, 0), (7, 7, .ro, 0), (14, 8, .ro, 0), (15, 15, .ro, 0), (22, 16, .ro, 0), (23, 23, .ro, 0), (31, 24, .ro, 0)]⟩,
  ⟨"ENG_SLOTS", 0x201000200c, [(1048576, 66), (256, 8)], [(31, 0, .ro, 0)]⟩,
  ⟨"ENG_BUBBLES", 0x2010002010, [(1048576, 66), (256, 8)], [(31, 0, .ro, 0)]⟩,
  ⟨"ENG_SAT", 0x2010002014, [(1048576, 66), (256, 8)], [(15, 0, .ro, 0), (31, 16, .ro, 0)]⟩,
  ⟨"ENG_NAN", 0x2010002018, [(1048576, 66), (256, 8)], [(15, 0, .rc, 0), (31, 16, .ro, 0)]⟩,
  ⟨"ENG_STALL", 0x201000201c, [(1048576, 66), (256, 8)], [(15, 0, .ro, 0), (31, 16, .ro, 0)]⟩,
  ⟨"ENG_MCAST_LO", 0x2010002020, [(1048576, 66), (256, 8)], [(31, 0, .ro, 0)]⟩,
  ⟨"ENG_MCAST_HI", 0x2010002024, [(1048576, 66), (256, 8)], [(31, 0, .ro, 0)]⟩]
def regRowsENG : List RegRow := regRowsENG0

def regRowsVEC0 : List RegRow := [
  ⟨"VEC_STATUS", 0x2010003000, [(1048576, 66)], [(0, 0, .ro, 0), (1, 1, .ro, 0), (31, 2, .ro, 0)]⟩,
  ⟨"VEC_SAT", 0x2010003004, [(1048576, 66)], [(31, 0, .ro, 0)]⟩,
  ⟨"VEC_NAN", 0x2010003008, [(1048576, 66)], [(15, 0, .rc, 0), (31, 16, .ro, 0)]⟩,
  ⟨"VEC_ND", 0x201000300c, [(1048576, 66)], [(15, 0, .ro, 0), (31, 16, .ro, 0)]⟩,
  ⟨"VEC_OOR", 0x2010003010, [(1048576, 66)], [(15, 0, .rc, 0), (31, 16, .ro, 0)]⟩]
def regRowsVEC : List RegRow := regRowsVEC0

def regRowsDET0 : List RegRow := [
  ⟨"DET_STATUS", 0x20000e0000, [], [(3, 0, .ro, 0), (11, 4, .ro, 0), (15, 12, .ro, 0), (23, 16, .ro, 0), (31, 24, .ro, 0)]⟩,
  ⟨"DET_KEPT", 0x20000e0010, [(4, 4)], [(15, 0, .ro, 0), (31, 16, .ro, 0)]⟩,
  ⟨"DET_OVF", 0x20000e0020, [(4, 4)], [(15, 0, .rc, 0), (31, 16, .rc, 0)]⟩,
  ⟨"DET_CODEC", 0x20000e0040, [(4, 8)], [(15, 0, .rc, 0), (31, 16, .ro, 0)]⟩]
def regRowsDET : List RegRow := regRowsDET0

def regRowsKVM0 : List RegRow := [
  ⟨"KVM_STATUS", 0x20000d0000, [], [(0, 0, .ro, 0), (1, 1, .ro, 0), (31, 2, .ro, 0)]⟩,
  ⟨"KVM_FREE_HBM", 0x20000d0004, [], [(18, 0, .ro, 262144), (31, 19, .ro, 0)]⟩,
  ⟨"KVM_FREE_LIB", 0x20000d0008, [], [(12, 0, .ro, 0), (31, 13, .ro, 0)]⟩,
  ⟨"KVM_CTX", 0x20000d000c, [], [(10, 0, .ro, 0), (15, 11, .ro, 0), (26, 16, .ro, 0), (31, 27, .ro, 0)]⟩,
  ⟨"KVM_RELQ", 0x20000d0010, [], [(18, 0, .ro, 0), (31, 19, .ro, 0)]⟩,
  ⟨"KVM_PREFIX", 0x20000d0014, [], [(14, 0, .ro, 0), (15, 15, .ro, 0), (23, 16, .ro, 0), (31, 24, .rc, 0)]⟩,
  ⟨"KVM_EVENTS", 0x20000d0018, [], [(7, 0, .rc, 0), (15, 8, .rc, 0), (23, 16, .rc, 0), (31, 24, .rc, 0)]⟩,
  ⟨"KVM_CLASS", 0x20000d0020, [(4, 16)], [(18, 0, .ro, 0), (19, 19, .ro, 0), (30, 20, .ro, 0), (31, 31, .ro, 0)]⟩]
def regRowsKVM : List RegRow := regRowsKVM0

def regRowsOCM0 : List RegRow := [
  ⟨"OCM_STATUS", 0x2000120000, [], [(0, 0, .ro, 1), (1, 1, .ro, 0), (2, 2, .ro, 0), (3, 3, .ro, 0), (7, 4, .ro, 0), (14, 8, .ro, 0), (31, 15, .ro, 0)]⟩,
  ⟨"OCM_CE", 0x2000120004, [], [(15, 0, .rc, 0), (31, 16, .rc, 0)]⟩,
  ⟨"OCM_CE2", 0x2000120008, [], [(15, 0, .rc, 0), (31, 16, .rc, 0)]⟩,
  ⟨"OCM_UE", 0x200012000c, [], [(7, 0, .rc, 0), (15, 8, .rc, 0), (23, 16, .rc, 0), (31, 24, .rc, 0)]⟩,
  ⟨"OCM_LAST_LO", 0x2000120010, [], [(31, 0, .ro, 0)]⟩,
  ⟨"OCM_LAST_HI", 0x2000120014, [], [(7, 0, .ro, 0), (15, 8, .ro, 0), (31, 16, .ro, 0)]⟩,
  ⟨"OCM_SCRUB", 0x2000120018, [], [(31, 0, .ro, 0)]⟩,
  ⟨"OCM_CNT_CTRL", 0x200012001c, [], [(0, 0, .wo, 0), (31, 1, .ro, 0)]⟩,
  ⟨"OCM_DRAIN", 0x2000120020, [], [(8, 0, .ro, 0), (12, 9, .ro, 0), (15, 13, .ro, 0), (16, 16, .w1c, 0), (31, 17, .ro, 0)]⟩,
  ⟨"OCM_LIB_STALL", 0x2000120040, [(4, 5)], [(31, 0, .ro, 0)]⟩,
  ⟨"OCM_DESK_STALL", 0x2000120100, [(4, 66)], [(31, 0, .ro, 0)]⟩,
  ⟨"OCM_LIB_ON", 0x2000120300, [(4, 8)], [(31, 0, .ro, 4294967295)]⟩,
  ⟨"OCM_CPWIN_BASE", 0x2000120400, [(8, 8)], [(20, 0, .ro, 0), (31, 21, .ro, 0)]⟩,
  ⟨"OCM_CPWIN_LEN", 0x2000120404, [(8, 8)], [(21, 0, .ro, 0), (31, 22, .ro, 0)]⟩]
def regRowsOCM : List RegRow := regRowsOCM0

def regRowsMEM0 : List RegRow := [
  ⟨"MEM_STATUS", 0x2000060000, [], [(0, 0, .ro, 0), (1, 1, .ro, 0), (2, 2, .ro, 0), (3, 3, .ro, 0), (5, 4, .ro, 0), (31, 6, .ro, 0)]⟩,
  ⟨"MEM_TRAIN", 0x2000060004, [], [(31, 0, .ro, 0)]⟩,
  ⟨"MEM_TEMP", 0x2000060008, [], [(7, 0, .ro, 0), (15, 8, .ro, 128), (31, 16, .ro, 0)]⟩,
  ⟨"MEM_REFRESH", 0x200006000c, [], [(15, 0, .ro, 3120), (31, 16, .ro, 0)]⟩,
  ⟨"MEM_UE", 0x2000060010, [], [(15, 0, .rc, 0), (31, 16, .rc, 0)]⟩,
  ⟨"MEM_BYTES", 0x2000060014, [], [(31, 0, .ro, 0)]⟩,
  ⟨"MEM_PATROL", 0x2000060018, [], [(31, 0, .ro, 0)]⟩,
  ⟨"MEM_REPAIR", 0x200006001c, [], [(7, 0, .ro, 0), (15, 8, .ro, 0), (31, 16, .ro, 0)]⟩,
  ⟨"MEM_ELOG_PTR", 0x2000060020, [], [(3, 0, .ro, 0), (4, 4, .w1c, 0), (31, 5, .ro, 0)]⟩,
  ⟨"MEM_CE", 0x2000060040, [(4, 32)], [(15, 0, .rc, 0), (31, 16, .rc, 0)]⟩,
  ⟨"MEM_ELOG_ADDR", 0x2000060100, [(16, 16)], [(31, 0, .ro, 0)]⟩,
  ⟨"MEM_ELOG_INFO", 0x2000060104, [(16, 16)], [(2, 0, .ro, 0), (7, 3, .ro, 0), (15, 8, .ro, 0), (19, 16, .ro, 0), (31, 20, .ro, 0)]⟩,
  ⟨"MEM_ELOG_BELL", 0x2000060108, [(16, 16)], [(31, 0, .ro, 0)]⟩,
  ⟨"MEM_ELOG_RSV", 0x200006010c, [(16, 16)], [(31, 0, .ro, 0)]⟩]
def regRowsMEM : List RegRow := regRowsMEM0

def regRowsCSI0 : List RegRow := [
  ⟨"CSI_LINK", 0x20000a0000, [(64, 16)], [(0, 0, .ro, 0), (3, 1, .ro, 0), (4, 4, .ro, 0), (5, 5, .w1c, 0), (7, 6, .ro, 0), (9, 8, .ro, 0), (11, 10, .ro, 0), (13, 12, .ro, 0), (31, 14, .ro, 0)]⟩,
  ⟨"CSI_FRAMES", 0x20000a0004, [(64, 16)], [(15, 0, .ro, 0), (31, 16, .ro, 0)]⟩,
  ⟨"CSI_ERR", 0x20000a0008, [(64, 16)], [(7, 0, .rc, 0), (15, 8, .rc, 0), (23, 16, .rc, 0), (31, 24, .rc, 0)]⟩,
  ⟨"CSI_SOF_NS", 0x20000a000c, [(64, 16)], [(31, 0, .ro, 0)]⟩,
  ⟨"CSI_SOF_FRM", 0x20000a0010, [(64, 16)], [(15, 0, .ro, 0), (31, 16, .ro, 0)]⟩,
  ⟨"CSI_GROUP", 0x20000a0014, [(64, 16)], [(15, 0, .ro, 0), (16, 16, .w1c, 0), (31, 17, .ro, 0)]⟩,
  ⟨"CSI_GROUP_NS", 0x20000a0018, [(64, 16)], [(31, 0, .ro, 0)]⟩,
  ⟨"CSI_I2C_CMD", 0x20000a0020, [(64, 16), (16, 2)], [(31, 0, .wo, 0)]⟩,
  ⟨"CSI_I2C_DATA", 0x20000a0024, [(64, 16), (16, 2)], [(31, 0, .wo, 0)]⟩,
  ⟨"CSI_I2C_RD", 0x20000a0028, [(64, 16), (16, 2)], [(31, 0, .rc, 0)]⟩,
  ⟨"CSI_I2C_STAT", 0x20000a002c, [(64, 16), (16, 2)], [(5, 0, .ro, 32), (6, 6, .ro, 0), (7, 7, .w1c, 0), (8, 8, .w1c, 0), (9, 9, .ro, 0), (31, 10, .ro, 0)]⟩]
def regRowsCSI : List RegRow := regRowsCSI0

def regRowsISP0 : List RegRow := [
  ⟨"ISP_STATUS", 0x20000b0000, [(32, 4)], [(0, 0, .ro, 0), (4, 1, .ro, 0), (8, 5, .ro, 0), (9, 9, .ro, 0), (31, 10, .ro, 0)]⟩,
  ⟨"ISP_FRAMES", 0x20000b0004, [(32, 4)], [(15, 0, .ro, 0), (23, 16, .rc, 0), (27, 24, .rc, 0), (31, 28, .rc, 0)]⟩,
  ⟨"ISP_TAGS", 0x20000b0100, [(4, 16)], [(15, 0, .ro, 1), (19, 16, .ro, 0), (20, 20, .ro, 0), (31, 21, .ro, 0)]⟩,
  ⟨"ISP_TAGERR", 0x20000b0140, [(4, 16)], [(7, 0, .rc, 0), (15, 8, .rc, 0), (31, 16, .ro, 0)]⟩,
  ⟨"ISP_STATS_READY", 0x20000b0180, [], [(15, 0, .w1c, 0), (31, 16, .ro, 0)]⟩,
  ⟨"ISP_STATS_SEQ", 0x20000b01c0, [(4, 16)], [(31, 0, .ro, 0)]⟩,
  ⟨"ISP_PSET", 0x20000b1000, [(128, 16), (4, 16)], [(31, 0, .rw, 0)]⟩,
  ⟨"ISP_PSET_COMMIT", 0x20000b1040, [(128, 16)], [(15, 0, .wo, 0), (31, 16, .ro, 0)]⟩]
def regRowsISP : List RegRow := regRowsISP0

def regRowsSVE0 : List RegRow := [
  ⟨"SVE_STATUS", 0x20000f0000, [], [(0, 0, .ro, 0), (1, 1, .ro, 0), (12, 2, .ro, 0), (31, 13, .ro, 0)]⟩,
  ⟨"SVE_GEN", 0x20000f0004, [], [(31, 0, .ro, 0)]⟩,
  ⟨"SVE_VOX", 0x20000f0008, [], [(23, 0, .ro, 0), (28, 24, .ro, 0), (29, 29, .ro, 0), (31, 30, .ro, 0)]⟩,
  ⟨"SVE_EGO", 0x20000f000c, [], [(15, 0, .ro, 0), (23, 16, .rc, 0), (31, 24, .ro, 0)]⟩,
  ⟨"SVE_EGO_NS", 0x20000f0010, [], [(31, 0, .ro, 0)]⟩,
  ⟨"SVE_INGEST", 0x20000f0014, [], [(7, 0, .ro, 0), (15, 8, .ro, 0), (23, 16, .rc, 0), (31, 24, .ro, 0)]⟩,
  ⟨"SVE_POINTS", 0x20000f0040, [(16, 8)], [(31, 0, .ro, 0)]⟩,
  ⟨"SVE_DROP", 0x20000f0044, [(16, 8)], [(7, 0, .rc, 0), (15, 8, .rc, 0), (23, 16, .rc, 0), (31, 24, .rc, 0)]⟩,
  ⟨"SVE_BAD", 0x20000f0048, [(16, 8)], [(15, 0, .rc, 0), (31, 16, .rc, 0)]⟩,
  ⟨"SVE_SAMPLE", 0x20000f004c, [(16, 8)], [(15, 0, .ro, 0), (23, 16, .ro, 0), (24, 24, .ro, 0), (31, 25, .ro, 0)]⟩]
def regRowsSVE : List RegRow := regRowsSVE0

def regRowsTSU0 : List RegRow := [
  ⟨"TSU_STATUS", 0x2000050000, [], [(2, 0, .ro, 0), (3, 3, .ro, 1), (4, 4, .ro, 0), (5, 5, .ro, 0), (6, 6, .ro, 0), (7, 7, .ro, 0), (11, 8, .ro, 15), (31, 12, .ro, 0)]⟩,
  ⟨"TSU_SEC_LO", 0x2000050004, [], [(31, 0, .ro, 0)]⟩,
  ⟨"TSU_SEC_HI", 0x2000050008, [], [(15, 0, .ro, 0), (31, 16, .ro, 0)]⟩,
  ⟨"TSU_NS", 0x200005000c, [], [(29, 0, .ro, 0), (31, 30, .ro, 0)]⟩,
  ⟨"TSU_FRAC", 0x2000050010, [], [(31, 0, .ro, 0)]⟩,
  ⟨"TSU_RATE", 0x2000050014, [], [(31, 0, .ro, 0)]⟩,
  ⟨"TSU_OFFSET", 0x2000050018, [], [(31, 0, .ro, 0)]⟩,
  ⟨"TSU_PDELAY", 0x200005001c, [], [(31, 0, .ro, 0)]⟩,
  ⟨"TSU_STEP_LO", 0x2000050020, [], [(31, 0, .ro, 0)]⟩,
  ⟨"TSU_STEP_HI", 0x2000050024, [], [(31, 0, .ro, 0)]⟩,
  ⟨"TSU_BELL_LO", 0x2000050028, [], [(31, 0, .ro, 0)]⟩,
  ⟨"TSU_BELL_HI", 0x200005002c, [], [(31, 0, .ro, 0)]⟩,
  ⟨"TSU_PORT_IN", 0x2000050040, [(16, 6)], [(31, 0, .ro, 0)]⟩,
  ⟨"TSU_PORT_EG", 0x2000050044, [(16, 6)], [(31, 0, .ro, 0)]⟩,
  ⟨"TSU_PORT_ASYM", 0x2000050048, [(16, 6)], [(31, 0, .ro, 0)]⟩,
  ⟨"TSU_PORT_STAT", 0x200005004c, [(16, 6)], [(1, 0, .ro, 0), (7, 2, .ro, 0), (15, 8, .rc, 0), (31, 16, .ro, 0)]⟩]
def regRowsTSU : List RegRow := regRowsTSU0

def regRowsJXL0 : List RegRow := [
  ⟨"JXL_STATUS", 0x2000130000, [], [(1, 0, .ro, 0), (2, 2, .ro, 0), (3, 3, .ro, 0), (5, 4, .ro, 0), (7, 6, .ro, 0), (11, 8, .ro, 0), (15, 12, .ro, 0), (23, 16, .ro, 0), (31, 24, .ro, 0)]⟩,
  ⟨"JXL_FIRST_LO", 0x2000130004, [], [(31, 0, .ro, 0)]⟩,
  ⟨"JXL_FIRST_HI", 0x2000130008, [], [(31, 0, .ro, 0)]⟩,
  ⟨"JXL_GO_SKEW", 0x200013000c, [], [(31, 0, .ro, 0)]⟩,
  ⟨"JXL_LOOP", 0x2000130010, [], [(15, 0, .ro, 0), (31, 16, .ro, 0)]⟩,
  ⟨"JXL_EVENTS", 0x2000130014, [], [(7, 0, .rc, 0), (15, 8, .rc, 0), (31, 16, .ro, 0)]⟩,
  ⟨"JXL_PEER_BELL", 0x2000130020, [(4, 4)], [(31, 0, .ro, 0)]⟩]
def regRowsJXL : List RegRow := regRowsJXL0

def regRowsFLT0 : List RegRow := [
  ⟨"FLT_STATUS", 0x2000030000, [], [(2, 0, .ro, 0), (5, 3, .ro, 0), (6, 6, .ro, 0), (7, 7, .ro, 0), (8, 8, .ro, 0), (9, 9, .ro, 0), (10, 10, .ro, 0), (31, 11, .ro, 0)]⟩,
  ⟨"FLT_ACK", 0x2000030004, [], [(0, 0, .wo, 0), (31, 1, .ro, 0)]⟩,
  ⟨"FLT_SEQ", 0x2000030008, [], [(31, 0, .ro, 0)]⟩,
  ⟨"FLT_LAST", 0x2000030010, [(4, 4)], [(31, 0, .ro, 0)]⟩,
  ⟨"FLT_HEARTBEAT", 0x2000030020, [], [(31, 0, .wo, 0)]⟩,
  ⟨"FLT_GATE", 0x2000030024, [], [(31, 0, .ro, 0)]⟩,
  ⟨"FLT_HB_SEEN", 0x2000030028, [], [(31, 0, .ro, 0)]⟩,
  ⟨"FLT_SAFE_CAUSE", 0x200003002c, [], [(11, 0, .ro, 0), (19, 12, .ro, 0), (20, 20, .ro, 0), (31, 21, .ro, 0)]⟩,
  ⟨"FLT_ALIVE", 0x2000030030, [], [(1, 0, .ro, 0), (2, 2, .ro, 0), (3, 3, .ro, 0), (31, 4, .ro, 0)]⟩,
  ⟨"FLT_PERSIST", 0x2000030034, [], [(15, 0, .ro, 0), (22, 16, .ro, 0), (23, 23, .ro, 0), (31, 24, .rc, 0)]⟩,
  ⟨"FLT_BOOTS", 0x2000030038, [], [(31, 0, .ro, 0)]⟩,
  ⟨"FLT_SW_ADDR", 0x2000030040, [], [(31, 0, .rw, 0)]⟩,
  ⟨"FLT_SW", 0x2000030044, [], [(7, 0, .wo, 0), (15, 8, .wo, 0), (21, 16, .wo, 0), (31, 22, .ro, 0)]⟩,
  ⟨"FLT_INJ_CTRL", 0x2000030080, [], [(3, 0, .wo, 0), (4, 4, .wo, 0), (31, 5, .ro, 0)]⟩,
  ⟨"FLT_INJ_ARG0", 0x2000030084, [], [(31, 0, .rw, 0)]⟩,
  ⟨"FLT_INJ_ARG1", 0x2000030088, [], [(31, 0, .rw, 0)]⟩,
  ⟨"FLT_KSEV", 0x2000030100, [(4, 256)], [(2, 0, .rw, 0), (3, 3, .ro, 0), (6, 4, .rw, 0), (31, 7, .ro, 0)]⟩,
  ⟨"FLT_SEV", 0x2000031000, [(4, 512)], [(2, 0, .rw, 0), (6, 4, .rw, 0), (10, 8, .rw, 0), (14, 12, .rw, 0), (18, 16, .rw, 0), (22, 20, .rw, 0), (26, 24, .rw, 0), (30, 28, .rw, 0), (3, 3, .ro, 0), (7, 7, .ro, 0), (11, 11, .ro, 0), (15, 15, .ro, 0), (19, 19, .ro, 0), (23, 23, .ro, 0), (27, 27, .ro, 0), (31, 31, .ro, 0)]⟩,
  ⟨"FLT_SRC_CNT", 0x2000032000, [(4, 4096)], [(15, 0, .ro, 0), (31, 16, .rc, 0)]⟩]
def regRowsFLT : List RegRow := regRowsFLT0

def regRowsLKS0 : List RegRow := [
  ⟨"LKS_STATUS", 0x2000040000, [], [(0, 0, .ro, 0), (1, 1, .ro, 0), (2, 2, .ro, 0), (3, 3, .ro, 0), (4, 4, .ro, 0), (5, 5, .ro, 0), (31, 6, .ro, 0)]⟩,
  ⟨"LKS_MM_CYC", 0x2000040004, [(8, 2)], [(31, 0, .ro, 0)]⟩,
  ⟨"LKS_MM_INFO", 0x2000040008, [(8, 2)], [(2, 0, .ro, 0), (3, 3, .ro, 0), (31, 4, .ro, 0)]⟩,
  ⟨"LKS_ROLL", 0x2000040020, [], [(0, 0, .ro, 0), (1, 1, .ro, 0), (2, 2, .ro, 0), (3, 3, .ro, 0), (4, 4, .ro, 0), (31, 5, .ro, 0)]⟩,
  ⟨"LKS_ROLL_SEQ", 0x2000040024, [(4, 3)], [(31, 0, .ro, 0)]⟩,
  ⟨"LKS_LATENT", 0x2000040040, [], [(31, 0, .ro, 0)]⟩,
  ⟨"LKS_LATENT_ERR", 0x2000040044, [], [(7, 0, .rc, 0), (31, 8, .ro, 0)]⟩,
  ⟨"LKS_DBG_ACT", 0x2000040048, [], [(31, 0, .rc, 0)]⟩]
def regRowsLKS : List RegRow := regRowsLKS0

def regRowsTST0 : List RegRow := [
  ⟨"TST_STATUS", 0x2000100000, [], [(4, 0, .ro, 0), (5, 5, .ro, 0), (9, 6, .ro, 0), (17, 10, .ro, 0), (31, 18, .ro, 0)]⟩,
  ⟨"TST_CONTENT", 0x2000100004, [], [(31, 0, .ro, 0)]⟩,
  ⟨"TST_FAILS", 0x2000100008, [], [(15, 0, .rc, 0), (31, 16, .rc, 0)]⟩,
  ⟨"TST_EVIDENCE", 0x200010000c, [], [(7, 0, .rc, 0), (15, 8, .rc, 0), (23, 16, .rc, 0), (31, 24, .rc, 0)]⟩,
  ⟨"TST_DIGEST", 0x2000100010, [], [(11, 0, .ro, 0), (15, 12, .ro, 0), (22, 16, .ro, 0), (31, 23, .ro, 0)]⟩,
  ⟨"TST_DIGEST_PASS", 0x2000100014, [], [(31, 0, .ro, 0)]⟩,
  ⟨"TST_COVERAGE", 0x2000100018, [], [(7, 0, .rc, 0), (31, 8, .ro, 0)]⟩,
  ⟨"TST_REQ", 0x200010001c, [], [(2, 0, .wo, 0), (9, 3, .wo, 0), (10, 10, .wo, 0), (30, 11, .ro, 0), (31, 31, .wo, 0)]⟩,
  ⟨"TST_UNATTR", 0x2000100100, [(4, 66)], [(1, 0, .ro, 0), (31, 2, .ro, 0)]⟩,
  ⟨"TST_RUBRIC", 0x2000100400, [(4, 256)], [(15, 0, .rc, 0), (31, 16, .rc, 0)]⟩]
def regRowsTST : List RegRow := regRowsTST0

def regRowsSEC0 : List RegRow := [
  ⟨"SEC_STATUS", 0x2000070000, [], [(2, 0, .ro, 3), (4, 3, .ro, 0), (5, 5, .ro, 0), (6, 6, .ro, 0), (7, 7, .ro, 0), (8, 8, .ro, 0), (9, 9, .ro, 0), (31, 10, .ro, 0)]⟩,
  ⟨"SEC_ARB", 0x2000070004, [], [(6, 0, .ro, 1), (7, 7, .ro, 0), (14, 8, .ro, 0), (31, 15, .ro, 0)]⟩,
  ⟨"SEC_KEYS", 0x2000070008, [], [(1, 0, .ro, 1), (9, 8, .ro, 1), (17, 16, .ro, 1), (25, 24, .ro, 0), (7, 2, .ro, 0), (15, 10, .ro, 0), (23, 18, .ro, 0), (31, 26, .ro, 0)]⟩,
  ⟨"SEC_TAMPER", 0x200007000c, [], [(7, 0, .rc, 0), (15, 8, .rc, 0), (23, 16, .rc, 0), (31, 24, .ro, 0)]⟩,
  ⟨"SEC_CMD", 0x2000070010, [], [(3, 0, .wo, 0), (30, 4, .ro, 0), (31, 31, .wo, 0)]⟩,
  ⟨"SEC_BUF", 0x2000070014, [], [(20, 0, .rw, 0), (31, 21, .ro, 0)]⟩,
  ⟨"SEC_RESULT", 0x2000070018, [], [(7, 0, .ro, 0), (8, 8, .w1c, 0), (31, 9, .ro, 0)]⟩,
  ⟨"SEC_ATTEMPT", 0x200007001c, [], [(31, 0, .ro, 0)]⟩,
  ⟨"SEC_CHALLENGE", 0x2000070020, [(4, 8)], [(31, 0, .ro, 0)]⟩,
  ⟨"SEC_MANIFEST", 0x2000070040, [(4, 8)], [(31, 0, .ro, 0)]⟩,
  ⟨"SEC_WDIG", 0x2000070060, [(4, 8)], [(31, 0, .ro, 0)]⟩,
  ⟨"SEC_IDPUB", 0x2000070080, [(4, 16)], [(31, 0, .ro, 0)]⟩,
  ⟨"SEC_LKT_ADDR", 0x20000700c0, [], [(1, 0, .ro, 0), (16, 2, .rw, 16384), (31, 17, .ro, 0)]⟩,
  ⟨"SEC_LKT_DATA", 0x20000700c4, [], [(31, 0, .ro, 0)]⟩]
def regRowsSEC : List RegRow := regRowsSEC0

def regRowsSHK0 : List RegRow := [
  ⟨"SHK_STATUS", 0x2000110000, [], [(3, 0, .ro, 0), (4, 4, .ro, 0), (31, 5, .ro, 0)]⟩,
  ⟨"SHK_BYTES", 0x2000110004, [], [(31, 0, .ro, 0)]⟩,
  ⟨"SHK_CLASS", 0x2000110010, [(4, 6)], [(31, 0, .ro, 0)]⟩,
  ⟨"SHK_HALLMARKS", 0x2000110030, [], [(15, 0, .ro, 0), (31, 16, .ro, 0)]⟩,
  ⟨"SHK_SIGN_US", 0x2000110034, [], [(31, 0, .ro, 0)]⟩]
def regRowsSHK : List RegRow := regRowsSHK0

def regRowsCLK0 : List RegRow := [
  ⟨"CLK_STATUS", 0x2000010000, [], [(0, 0, .ro, 0), (1, 1, .ro, 0), (2, 2, .ro, 0), (3, 3, .w1c, 0), (5, 4, .ro, 0), (31, 6, .ro, 0)]⟩,
  ⟨"CLK_ROOT", 0x2000010004, [], [(11, 0, .ro, 384), (31, 12, .ro, 0)]⟩,
  ⟨"CLK_DIV0", 0x2000010008, [], [(7, 0, .ro, 48), (15, 8, .ro, 12), (23, 16, .ro, 12), (31, 24, .ro, 8)]⟩,
  ⟨"CLK_DIV1", 0x200001000c, [], [(7, 0, .ro, 16), (15, 8, .ro, 24), (23, 16, .ro, 3), (31, 24, .ro, 0)]⟩,
  ⟨"CLK_SERDES", 0x2000010010, [], [(15, 0, .ro, 0), (19, 16, .ro, 0), (25, 20, .ro, 0), (31, 26, .ro, 0)]⟩]
def regRowsCLK : List RegRow := regRowsCLK0

def regRowsPWR0 : List RegRow := [
  ⟨"PWR_STATE", 0x2000010100, [], [(2, 0, .ro, 0), (3, 3, .ro, 0), (7, 4, .ro, 0), (8, 8, .ro, 0), (9, 9, .ro, 0), (31, 10, .ro, 0)]⟩,
  ⟨"PWR_CAUSE", 0x2000010104, [], [(0, 0, .ro, 0), (1, 1, .ro, 0), (2, 2, .ro, 0), (3, 3, .ro, 0), (31, 4, .ro, 0)]⟩,
  ⟨"PWR_CTRL", 0x2000010108, [], [(0, 0, .wo, 0), (1, 1, .wo, 0), (15, 2, .ro, 0), (31, 16, .wo, 0)]⟩,
  ⟨"PWR_WAKE", 0x200001010c, [], [(0, 0, .ro, 0), (2, 1, .ro, 0), (31, 3, .ro, 0)]⟩,
  ⟨"PWR_PARKS", 0x2000010110, [], [(15, 0, .ro, 0), (31, 16, .ro, 0)]⟩,
  ⟨"PWR_WAKE_US", 0x2000010114, [], [(31, 0, .ro, 0)]⟩,
  ⟨"PWR_SUPPLY", 0x2000010140, [], [(15, 0, .ro, 0), (31, 16, .ro, 0)]⟩,
  ⟨"PWR_POWER", 0x2000010144, [], [(15, 0, .ro, 0), (31, 16, .ro, 0)]⟩,
  ⟨"PWR_TEMP", 0x2000010148, [], [(7, 0, .ro, 0), (15, 8, .ro, 128), (23, 16, .ro, 0), (31, 24, .ro, 0)]⟩,
  ⟨"PWR_FLAGS", 0x200001014c, [], [(0, 0, .ro, 0), (1, 1, .ro, 0), (2, 2, .ro, 0), (3, 3, .ro, 0), (31, 4, .ro, 0)]⟩,
  ⟨"PWR_POC", 0x2000010150, [], [(15, 0, .ro, 0), (31, 16, .ro, 0)]⟩,
  ⟨"PWR_POC_MW", 0x2000010160, [(4, 16)], [(15, 0, .ro, 0), (31, 16, .ro, 0)]⟩]
def regRowsPWR : List RegRow := regRowsPWR0

def regRowsBOOT0 : List RegRow := [
  ⟨"BOOT_STATUS", 0x2000020000, [], [(3, 0, .ro, 0), (4, 4, .ro, 0), (5, 5, .ro, 0), (7, 6, .ro, 0), (11, 8, .ro, 0), (12, 12, .ro, 0), (31, 13, .ro, 0)]⟩,
  ⟨"BOOT_SLOTS", 0x2000020004, [], [(2, 0, .ro, 0), (3, 3, .ro, 0), (6, 4, .ro, 0), (7, 7, .ro, 0), (31, 8, .ro, 0)]⟩,
  ⟨"BOOT_T", 0x2000020008, [(4, 8)], [(31, 0, .ro, 0)]⟩,
  ⟨"BOOT_RESIDENT_LO", 0x2000020028, [], [(31, 0, .ro, 0)]⟩,
  ⟨"BOOT_RESIDENT_HI", 0x200002002c, [], [(31, 0, .ro, 0)]⟩,
  ⟨"BOOT_FIRST_LO", 0x2000020030, [], [(31, 0, .ro, 0)]⟩,
  ⟨"BOOT_FIRST_HI", 0x2000020034, [], [(31, 0, .ro, 0)]⟩,
  ⟨"BOOT_WDOG", 0x2000020038, [], [(13, 0, .ro, 0), (31, 14, .ro, 0)]⟩,
  ⟨"BOOT_SEQ_LO", 0x200002003c, [], [(31, 0, .ro, 0)]⟩,
  ⟨"BOOT_SEQ_HI", 0x2000020040, [], [(31, 0, .ro, 0)]⟩]
def regRowsBOOT : List RegRow := regRowsBOOT0

def regRowsI3C0 : List RegRow := [
  ⟨"I3C_STATUS", 0x2000080000, [], [(6, 0, .ro, 0), (7, 7, .ro, 0), (8, 8, .ro, 0), (9, 9, .ro, 0), (31, 10, .ro, 0)]⟩,
  ⟨"I3C_CMDSET_VER", 0x2000080004, [], [(7, 0, .rw, 0), (15, 8, .rw, 1), (23, 16, .ro, 0), (31, 24, .ro, 1)]⟩,
  ⟨"I3C_CMD", 0x2000080008, [], [(7, 0, .wo, 0), (15, 8, .wo, 0), (30, 16, .ro, 0), (31, 31, .wo, 0)]⟩,
  ⟨"I3C_ARG", 0x2000080010, [(4, 4)], [(31, 0, .rw, 0)]⟩,
  ⟨"I3C_RESP", 0x2000080020, [], [(7, 0, .ro, 0), (15, 8, .ro, 0), (16, 16, .w1c, 0), (17, 17, .ro, 0), (31, 18, .ro, 0)]⟩,
  ⟨"I3C_RET", 0x2000080030, [(4, 4)], [(31, 0, .ro, 0)]⟩,
  ⟨"I3C_PAGE", 0x2000080040, [], [(3, 0, .rw, 0), (31, 4, .ro, 0)]⟩,
  ⟨"I3C_PID_LO", 0x2000080044, [], [(31, 0, .ro, 0x72640000)]⟩,
  ⟨"I3C_PID_HI", 0x2000080048, [], [(15, 0, .ro, 0x973A), (31, 16, .ro, 0)]⟩,
  ⟨"I3C_ERR", 0x200008004c, [], [(7, 0, .rc, 0), (15, 8, .rc, 0), (23, 16, .rc, 0), (31, 24, .ro, 0)]⟩]
def regRowsI3C : List RegRow := regRowsI3C0

def regRowsETH0 : List RegRow := [
  ⟨"ETH_STATUS", 0x2000090000, [(32, 6)], [(0, 0, .ro, 0), (1, 1, .ro, 0), (2, 2, .ro, 0), (31, 3, .ro, 0)]⟩,
  ⟨"ETH_TX", 0x2000090004, [(32, 6)], [(31, 0, .ro, 0)]⟩,
  ⟨"ETH_DROP", 0x2000090008, [(32, 6)], [(15, 0, .rc, 0), (31, 16, .rc, 0)]⟩,
  ⟨"ETH_MAC_LO", 0x2000090100, [], [(31, 0, .ro, 0)]⟩,
  ⟨"ETH_MAC_HI", 0x2000090104, [], [(15, 0, .ro, 0), (31, 16, .ro, 0)]⟩,
  ⟨"ETH_DEST", 0x2000090200, [(4, 32)], [(0, 0, .ro, 0), (5, 1, .ro, 0), (31, 6, .ro, 0)]⟩]
def regRowsETH : List RegRow := regRowsETH0

def regRowsCSO0 : List RegRow := [
  ⟨"CSO_STATUS", 0x20000c0000, [(16, 4)], [(0, 0, .ro, 0), (3, 1, .ro, 0), (7, 4, .ro, 0), (15, 8, .ro, 1), (23, 16, .ro, 0), (31, 24, .ro, 0)]⟩,
  ⟨"CSO_FRAMES", 0x20000c0004, [(16, 4)], [(31, 0, .ro, 0)]⟩,
  ⟨"CSO_DROP", 0x20000c0008, [(16, 4)], [(15, 0, .rc, 0), (31, 16, .ro, 0)]⟩,
  ⟨"CSO_OUT_BELL", 0x20000c0100, [(8, 64)], [(31, 0, .ro, 0)]⟩,
  ⟨"CSO_OUT_VOID", 0x20000c0104, [(8, 64)], [(15, 0, .rc, 0), (31, 16, .rc, 0)]⟩]
def regRowsCSO : List RegRow := regRowsCSO0

def regRowsCORE0 : List RegRow := [
  ⟨"CORE_ID", 0x2010000000, [(1048576, 66)], [(6, 0, .ro, 0), (31, 7, .ro, 0)]⟩,
  ⟨"CORE_STATE", 0x2010000004, [(1048576, 66)], [(0, 0, .ro, 0), (1, 1, .ro, 0), (2, 2, .ro, 0), (3, 3, .ro, 0), (7, 4, .ro, 0), (15, 8, .ro, 0), (27, 16, .ro, 0), (31, 28, .ro, 0)]⟩]
def regRowsCORE : List RegRow := regRowsCORE0

/-- All rows (R551). -/
def regRows : List RegRow :=
  regRowsCHIP ++
  regRowsTT ++
  regRowsENG ++
  regRowsVEC ++
  regRowsDET ++
  regRowsKVM ++
  regRowsOCM ++
  regRowsMEM ++
  regRowsCSI ++
  regRowsISP ++
  regRowsSVE ++
  regRowsTSU ++
  regRowsJXL ++
  regRowsFLT ++
  regRowsLKS ++
  regRowsTST ++
  regRowsSEC ++
  regRowsSHK ++
  regRowsCLK ++
  regRowsPWR ++
  regRowsBOOT ++
  regRowsI3C ++
  regRowsETH ++
  regRowsCSO ++
  regRowsCORE

end Sys2Proof.Machine
end

