-- ==== Sys2Proof/Machine/State.lean ====
section
/-! DEFINITION. The state of the part as plain data, the reasons a step can stop, and the state right after reset alignment. -/

namespace Sys2Proof.Machine
open Sys2Proof
set_option Elab.async false

/-- The model has no fault of its own: every hardware fault is a message to the collector (R337), and the part goes on. The one
constructor names an access to a memory the part does not have. Nobody raises it at present; raising it would be safe. -/
inductive Fault where
  | noSuchMemory (addr : Nat)
  deriving DecidableEq, Repr

/-- Why a command has no outcome. `notModelled`: an arm of exec not written yet (safe). `specGivesNoEffect`: the spec names the
command and gives its effect to a unit it does not describe (safe). -/
inductive Refusal where
  | notModelled (mnemonic : String)
  | specGivesNoEffect (what : String)
  deriving DecidableEq, Repr

/-- Power states (17, Table 17-6). -/
inductive PState where
  | off | boot | run | safe | halt | maint | park
  deriving DecidableEq, Repr

/-- A pending fault message of one source (R337 to R340). -/
structure Msg where
  src : Nat
  kind : Nat
  addr : Nat
  merges : Nat
  injected : Bool
  /-- evidence tile address and bytes, and the DETAIL of the entry (R347) -/
  ev : Nat
  evBytes : Nat
  detail : List Byte
  deriving DecidableEq, Repr

/-- A gradebook entry on its way to the NVM ring or held in the early buffer (R350, R351). -/
structure Entry where
  seq : Nat
  sev : Nat
  bytes : List Byte
  deriving DecidableEq, Repr

/-- The fault collector beside its registers (R339 to R352, R557). -/
structure Collector where
  pend : List (Nat × Msg)
  rr : Nat
  /-- sources that merged in the current bell, and that bell (R340) -/
  merged : List Nat
  mergeBell : Nat
  /-- built-in severities apply until the fault record is loaded (R351) -/
  loaded : Bool
  /-- the HBM zero fill and the locket wipe have ended (R351) -/
  ringsOpen : Bool
  early : List Entry
  earlyLost : Bool
  nvmq : List Entry
  /-- entry the NVM writer is writing (R350) -/
  nvmBusy : Option Entry
  /-- entries discarded in the current bell (R350) -/
  nvmLost : Nat
  kindsSeen : List Nat
  /-- messages recorded from each source since start (R347) -/
  counts : List (Nat × Nat)
  /-- source and kind of the record that raised AGG (R352) -/
  aggSrc : Nat
  aggKind : Nat
  /-- content of the in-band interrupt raised last, until AGG is acknowledged, and whether it has been sent (R352, R512) -/
  ibi : Option (List Byte)
  ibiSent : Bool
  nvmIndex : Nat
  deriving DecidableEq, Repr

/-- ALIVE outputs (R356 to R358). -/
structure Alive where
  toggling : Bool
  /-- a first gate passed; ALIVE starts at the next half-period edge (R357) -/
  starting : Bool
  everStarted : Bool
  driveA : Bool
  driveB : Bool
  /-- an armed injection inverts one drive for a half-period: 0 A, 1 B (R363) -/
  inject : Option Nat
  deriving DecidableEq, Repr

/-- The TSU beside its registers (R277 to R292). Offsets are in ns, delays and corrections in 2^-16 ns. -/
structure Tsu where
  sec : Nat
  ns : Nat
  frac : Nat
  integ : Int
  prevO : Option Int
  good : Nat
  delayValid : Bool
  delay : Int
  held : Option Int
  locked : Bool
  rateWarned : Bool
  holdStart : Nat
  interval : Int
  lastSync : Nat
  /-- two-step Sync awaiting its Follow_Up: sequence, receive time, correction -/
  sync2 : Option (Nat × Int × Int)
  /-- last Sync of the slave port: t1 with corrections and t2, for the E2E delay -/
  lastT1 : Option (Int × Int)
  /-- delay request in flight: sequence and send time -/
  req : Option (Nat × Int)
  reqSeq : Nat
  /-- two-step Pdelay_Resp awaiting its follow-up: sequence, t2, t4, correction -/
  pd2 : Option (Nat × Int × Int × Int)
  /-- data set of the selected master (R283) -/
  best : Option PtpAnn
  deriving DecidableEq, Repr

/-- The bell (R17, R25, R26, R290 to R292). Edges are TSU times in ns; ticks are TIME edges. -/
structure Bell where
  running : Bool
  /-- a first or resumed bell is set: it starts at `nextB` -/
  armed : Bool
  n : Nat
  edge : Nat
  nextB : Nat
  start : Nat
  verdict : Bool
  healthDone : Bool
  gateDone : Bool
  gatePassed : Bool
  hbDone : Bool
  reloadDone : Bool
  phase2Done : Bool
  /-- a fault of SAFE or HALT was recorded since the last health point (R25) -/
  bad : Bool
  /-- heartbeat values CP0 wrote since the last gate point (R354) -/
  hb : List Nat
  prevVerdict : Bool
  prevGate : Bool
  /-- last bell before a late step, for the report card (R293) -/
  stepFrom : Option Nat
  started : Nat
  deriving DecidableEq, Repr

/-- Safety state beside its registers (R315, R319, R324 to R332, R556). -/
structure Safety where
  contest : Nat
  safeReleased : Nat
  safeVoid : Nat
  safeContested : Nat
  bv : Nat
  bvBell : Nat
  bvSet : Bool
  gapSent : Bool
  /-- recovery bells left, and whether recovery is accepted and waits for the next edge (R327) -/
  recovering : Bool
  recWait : Bool
  recLeft : Nat
  recDone : Bool
  resetOnly : Bool
  excluded : Bool
  exclFrom : Nat
  fallbackOnly : Bool
  /-- first bell runs in SAFE (R556) -/
  pendingSafe : Bool
  deriving DecidableEq, Repr

/-- A task's budget counter (R45). -/
structure Task where
  task : Nat
  start : Nat
  budget : Nat
  stopped : Bool
  sent : Bool
  deriving DecidableEq, Repr

/-- What a sequencer records of a DUAL MM or EW instruction (R388): its place in the list, physical core, unit, descriptor, the CRC of
the headers it wrote, and the physical strand of each logical slot as it ran. -/
structure MmRec where
  idx : Nat
  phys : Nat
  unit : Nat
  desc : List Byte
  crc : Nat
  slots : List Nat
  deriving DecidableEq, Repr

/-- Running digest of a core toward one partner (R50), with its MM and EW records for evidence (R388). -/
structure DualDig where
  partner : Nat
  crc : Nat
  count : Nat
  streams : List Nat
  recs : List MmRec
  deriving DecidableEq, Repr

/-- A logical core's sequencer beside the TT registers (R43 to R54). -/
structure Seq where
  /-- runs a timetable in the current bell (R55, R330) -/
  runs : Bool
  /-- ARITH tick of the last issue -/
  lastIssue : Nat
  tasks : List Task
  digs : List DualDig
  /-- BARRIER instances issued per group in this bell (R52) -/
  barriers : List (Nat × Nat)
  slack : Nat
  /-- retired after an uncorrectable code word (R186) -/
  codeUe : Bool
  deriving DecidableEq, Repr

/-- A tile to be written: key of its header, header and payload bytes, and the tick at which the write lands. -/
structure TileW where
  key : Nat
  hbytes : List Byte
  pbytes : List Byte
  t : Nat
  deriving DecidableEq, Repr

/-- What kind of operation a unit runs. -/
inductive JobKind where
  | move | mm | ew | vec | codec | detect | attend | rubric | emit | swap | recess
  deriving DecidableEq, Repr

/-- An operation in progress at a station or mover: issuing logical core, station address, task, tick of issue and nominal end,
its instruction (two words of a MOVE), its descriptor, and the tiles it writes when it completes. -/
structure Job where
  kind : JobKind
  core : Nat
  unit : Nat
  task : Nat
  at0 : Nat
  due : Nat
  instr : Nat
  idx : Nat
  deadline : Nat
  desc : List Byte
  outs : List TileW
  deriving DecidableEq, Repr

/-- A dual-run submission (R50). -/
structure DigSub where
  region : Nat
  run : Nat
  core : Nat
  partner : Nat
  at0 : Nat
  crc : Nat
  count : Nat
  streams : List Nat
  recs : List MmRec
  deriving DecidableEq, Repr

/-- A fence and its remap load (R55). -/
structure Remap where
  logical : Nat
  src : Nat
  dst : Nat
  done : Bool
  due : Nat
  deriving DecidableEq, Repr

/-- The timetable machinery of all cores (chapter 02). -/
structure Tt where
  seqs : List Seq
  jobs : List Job
  subs : List DigSub
  judged : List Nat
  barChecked : List (Nat × Nat)
  remaps : List Remap
  /-- void marks of the current bell: streams, physical cores, units, everything (R50, R321) -/
  voidStreams : List Nat
  voidCores : List Nat
  voidUnits : List Nat
  voidAll : Bool
  /-- (stream, producing source) of the tiles written in this bell -/
  produced : List (Nat × Nat)
  deriving DecidableEq, Repr

/-- What the module knows of a Jexong peer (R296 to R301). -/
structure Peer where
  helloMajor : Option Nat
  helloMinor : Nat
  digest : List Byte
  absent : Bool
  ready : Bool
  readyLocked : Bool
  hbBell : Option Nat
  hbVerdict : Bool
  /-- failure set of the last heartbeat (R300) -/
  hbPlan : Nat
  /-- last bell with a healthy heartbeat (R331) -/
  lastGood : Option Nat
  deriving DecidableEq, Repr

/-- The Jexong link beside its registers (R294 to R302, R328 to R332). -/
structure Jx where
  peers : List Peer
  readySent : Option Nat
  /-- ARM held: members, first bell, GO in ns (R297) -/
  arm : Option (Nat × Nat × Nat)
  armSent : Bool
  driven : Bool
  failSet : Nat
  /-- plan switches ahead: (bell, failure set) (R329) -/
  switches : List (Nat × Nat)
  joiners : List (Nat × Nat)
  joinBell : Option Nat
  /-- plan reloads of R330 in progress: (logical core, failure set of the new plan) -/
  reload : List (Nat × Nat)
  deriving DecidableEq, Repr

/-- What leaves the part: messages, frames, pulses and edges at its pins (a log the model keeps). -/
inductive Out where
  | ptpSync (port sec ns : Nat) (corr : Nat)
  | ptpAnnounce (port prio1 prio2 cls src : Nat)
  | ptpDelayResp (port : Nat) (clock : Nat) (seq : Nat) (rx : Int)
  | ptpPdelayResp (port : Nat) (clock : Nat) (seq : Nat) (corr : Int)
  | ptpDelayReq (port seq : Nat) (corr : Int)
  | ptpPdelayReq (port seq : Nat) (corr : Int)
  | jx (payload : List Byte)
  | syncGo
  | aliveEdge (a b : Bool)
  | ibi (bytes : List Byte)
  /-- a UDP datagram on an Ethernet port: destination MAC, IP and UDP port, source UDP port, data (R501, R502) -/
  | udp (port mac ip dport sport : Nat) (data : List Byte)
  /-- an ARP reply with the port's address: requester's MAC and IP (R501) -/
  | arp (port mac ip : Nat)
  /-- a CSI-2 frame: link, VC, frame number, and its long packets (data type, payload) (R498, R499) -/
  | csi (link vc frame : Nat) (packets : List (Nat × List Byte))
  | gpio (camera : Nat)
  | i2c (camera queue : Nat) (bytes : List Byte)
  | i3c (bytes : List Byte)
  | bus (req : Requester) (error : Bool) (bytes : List Byte)
  deriving DecidableEq, Repr

/-- A control pair or hart under debug (R366, R372, R373). -/
structure Hart where
  stopped : Bool
  attached : Bool
  halted : Bool
  deriving DecidableEq, Repr

/-- Armed injections (R363). -/
structure Inject where
  sram : Option (Nat × Nat)
  hbm : Option (Nat × Nat)
  digest : List Nat
  tile : List Nat
  deriving DecidableEq, Repr

/-- Loaded image record: type, index, DEST and bytes (chapter 16). -/
structure ImgRec where
  typ : Nat
  idx : Nat
  dest : Nat
  bytes : List Byte
  deriving DecidableEq, Repr

/-- Events the next report card states (R494, Tables 18-7 and 18-8). -/
structure Card where
  entries : List (List Byte)
  sev : List Nat
  voids : Nat
  contests : Nat
  deriving DecidableEq, Repr

/-- Memory machinery beside the MEM and OCM registers (R187, R188, R192, R210 to R212). Bank ids: library 0 to 255, desk bank
256 + core * 32 + bank. -/
structure MemCtl where
  scrubRow : Nat
  /-- granules corrected by the scrubber, with the pass that did it -/
  scrubFixed : List (Nat × Nat)
  patrol : Nat
  patrolPass : Nat
  patrolFixed : List (Nat × Nat)
  tempFails : Nat
  bankReq : List (Nat × Nat)
  bankOff : List Nat
  /-- writes accepted and not committed, per bank -/
  bankOut : List (Nat × Nat)
  /-- rows on the repair list: pseudo-channel, packed location (R210) -/
  repair : List (Nat × Nat)
  /-- an access to the bank being remapped at this edge is refused (R177) -/
  remapping : List Nat
  /-- bytes moved to or from HBM in the current bell (R216) -/
  moved : Nat
  deriving DecidableEq, Repr

/-- Strands of one engine (R77, R78): retired strands, strands to retire at the next SWAP, the recess set in ring order, the strand of
each logical slot, and the strands that entered recess in this bell (R79). -/
structure Eng where
  ret : List Nat
  pend : List Nat
  rec0 : List Nat
  slots : List Nat
  entered : List Nat
  deriving DecidableEq, Repr

/-- A tile resident in an operand buffer: physical core, engine, offset, stream, index and payload bytes (R39, R179). -/
structure Resid where
  p : Nat
  e : Nat
  off : Nat
  stream : Nat
  idx : Nat
  len : Nat
  deriving DecidableEq, Repr

/-- A slot of a bucket plan: context, token of the step, and the held range after the append (R159, R160). -/
structure AttSlot where
  ctx : Nat
  base : Nat
  len : Nat
  deriving DecidableEq, Repr

/-- The bucket plan of a class, or of one half of a DUAL class; an empty slot is padding. -/
structure AttPlan where
  cls : Nat
  half : Bool
  slots : List (Option AttSlot)
  deriving DecidableEq, Repr

/-- ATTEND's own SRAM (R155): frames in use with their class and count, the release queue, the tick from which it has been worked
through, the plans in force, pages that became full in the last step, and the occupied prefix nodes. -/
structure Att where
  refs : List (Nat × Nat × Nat)
  relq : List Nat
  relAt : Nat
  plans : List AttPlan
  fulls : List (Nat × Nat)
  nodes : List Nat
  deriving DecidableEq, Repr

/-- A frame buffer (R224): state 0 FREE, 1 WRITING, 2 COMPLETE, 3 READING, and what its header says. Times are in ns. -/
structure CamBuf where
  st : Nat
  frame : Nat
  seq : Nat
  tag : Nat
  flags : Nat
  capt : Nat
  sof : Nat
  repairs : Nat
  deriving DecidableEq, Repr

/-- A frame being received (R224 to R227): its buffer (none for a discarded frame), lines landed, started and ended planes with the
embedded area last, planes whose extra line was counted, and whether the line of the tag was repaired. -/
structure CamOpen where
  buf : Option Nat
  frame : Nat
  capt : Nat
  sof : Nat
  seq : Nat
  lines : List Nat
  started : List Bool
  ended : List Bool
  extra : List Bool
  tagBad : Bool
  repairs : Nat
  assumed : Nat
  free : Bool
  deriving DecidableEq, Repr

/-- A camera's output set (R237): written and complete, VOID, what its header says, and the parameter set that processed it (empty in bypass). -/
structure CamSet where
  complete : Bool
  void : Bool
  frame : Nat
  seq : Nat
  flags : Nat
  capt : Nat
  pset : List Byte
  deriving DecidableEq, Repr

/-- An entry of an I2C tunnel queue (R241, R242): WRITE, READ, or a committed group with its tag and writes. -/
inductive I2cOp where
  | write (dev reg : Nat) (data : List Byte)
  | read (dev reg n : Nat)
  | group (tag : Nat) (writes : List (Nat × Nat × List Byte))
  deriving DecidableEq, Repr

/-- One camera path beside the CSI and ISP registers (chapter 09). -/
structure Cam where
  bufs : List CamBuf
  opens : List CamOpen
  lastFrame : Option Nat
  seq : Nat
  lastPacket : Nat
  /-- ns of the triggers sent, latest first -/
  trigs : List Nat
  /-- completed groups: tag, tc in ns, SOFs counted after tc (R245) -/
  groups : List (Nat × Nat × Nat)
  /-- waiting parameter sets, oldest first, and the current one (R244) -/
  psets : List (Nat × List Byte)
  pset : List Byte
  sets : List CamSet
  newest : Option Nat
  held : Option Nat
  /-- SEQ of the set INGEST selected last (R265) -/
  lastSel : Option Nat
  queues : List (List I2cOp)
  running : Option (Nat × I2cOp)
  group : Option (Nat × List (Nat × Nat × List Byte))
  reads : List (List Nat)
  /-- the initialisation script failed at the start (R246) -/
  failed : Bool
  /-- tick of the first trip of the port, and whether it stays off until the next start (R247) -/
  pocTrip : Option Nat
  pocDead : Bool
  deriving DecidableEq, Repr

/-- A frame an ISP pipeline processes (R230): camera, buffer, output set, tick of its end, tag and parameter set. -/
structure PipeJob where
  cam : Nat
  buf : Nat
  set : Nat
  due : Nat
  tag : Nat
  pset : List Byte
  deriving DecidableEq, Repr

/-- A point record in SIEVE's input queue: lidar, X, Y and Z as 32-bit words, intensity and its time in ns (R255). -/
structure LidPt where
  lidar : Nat
  x : Nat
  y : Nat
  z : Nat
  inten : Nat
  t : Nat
  deriving DecidableEq, Repr

/-- What a lidar has in the open generation (R263): accepted records in order, earliest time, bad and lost datagrams, and its marks. -/
structure LidGen where
  recs : List (List Byte)
  tMin : Nat
  bad : Nat
  nd : Bool
  ego : Bool
  overrun : Bool
  ue : Bool
  deriving DecidableEq, Repr

/-- SIEVE beside the SVE registers and the voxel table (R252 to R263): the open generation's bell, per-lidar parts, earlier
generations with a record, datagram counters, the input queue, the ego ring (time, payload), the messages used for accepted points of the
open generation, rejects of the bell, own slots of
the open and of the last closed generation (the two bitmaps), overflow, largest dist, and the tick a bitmap clear ends. -/
structure Sieve where
  gen : Nat
  gens : List LidGen
  counters : List Nat
  seqs : List (Option Nat)
  queue : List LidPt
  ego : List (Nat × List Byte)
  used : List (Nat × List Byte)
  egoRej : Nat
  egoBell : Nat
  occ : List Nat
  closed : List Nat
  overflow : Bool
  maxDist : Nat
  clearTo : Nat
  deriving DecidableEq, Repr

/-- Start-up and power sequencing beside the PWR and BOOT registers (chapter 17). -/
structure Pw where
  /-- T_READY passed: SIEVE accepts points and the first bell may start (R470) -/
  ready : Bool
  /-- W of a wake under way, in ticks (R476) -/
  wake : Option Nat
  /-- tick at which PARK entry began -/
  parkAt : Option Nat
  /-- tick at which the undervoltage sequence began (R479) -/
  under : Option Nat
  /-- warm reset to come when the clocks return, with its CLK_LOSS cause (R463) -/
  clkLoss : Option Nat
  /-- warm reset requested: 1 by the reset command, 2 by PWR_CTRL (R466) -/
  warm : Option Nat
  /-- tick of the pending PARK or MAINT request (R484) -/
  reqAt : Nat
  /-- kind of the next first bell: 1 start, 2 wake, 3 late step, 4 replay (Table 18-7) -/
  first : Nat
  /-- tick of T_READY (R470) -/
  readyAt : Nat
  /-- a model load under way that outlasts the watchdog: its start tick and slot (R450) -/
  loading : Option (Nat × Nat)
  deriving DecidableEq, Repr

/-- Tests of a VECTOR, mover, CODEC or DETECT unit (R383 to R386): station address, next base segment, whether the pass is complete and
whether one completed in this bell, queued extended segments, end of the open window, and the running segment with its end. -/
structure UnitT where
  unit : Nat
  next : Nat
  complete : Bool
  passed : Bool
  ext : List Nat
  winEnd : Nat
  run : Option (Nat × Nat)
  deriving DecidableEq, Repr

/-- A suspect strand (R392): run 0 A or 1 B, physical core, engine and strand, and 0 waiting, 1 replayed equal, 2 retired, 3 left service. -/
structure Sus where
  run : Nat
  phys : Nat
  engine : Nat
  strand : Nat
  status : Nat
  deriving DecidableEq, Repr

/-- A pending evidence event (R388 to R392): slot, bell, region, head fields, bytes, suspects, end of the hold. -/
structure Evid where
  slot : Nat
  bell : Nat
  region : Nat
  coreA : Nat
  coreB : Nat
  physA : Nat
  physB : Nat
  engA : Nat
  engB : Nat
  lane : Nat
  instr : Nat
  stream : Nat
  tile : Nat
  pos : Nat
  ch : Nat
  groups : Nat
  lBytes : Nat
  sBytes : Nat
  data : List Byte
  cycles : Nat
  sus : List Sus
  holdEnd : Nat
  captured : Bool
  deriving DecidableEq, Repr

/-- A request of Table 14-3 in the queue. -/
structure TestReq where
  kind : Nat
  target : Nat
  detect : Bool
  deriving DecidableEq, Repr

/-- Online test (chapter 14) beside the TST registers: requests, units, strand programs by engine (key, end tick, extended), engines on
an extended turn with programs left, strands that completed a program in this bell, evidence events and the next slot, unattributed
events (core, bell), units FAILED from the next edge, the digest pass (object, bytes of this pass's allowance left, pass start), the bad
map and the part of it in force, retirement-map copies to write, rubric marks of the bell (stream, contested), values of CONTINUITY
fields (rubric, value) of this and the previous bell, NUM_NAN streams recorded in the bell, and statistics records to zero at the edge. -/
structure Tst where
  reqs : List TestReq
  units : List UnitT
  progs : List (Nat × Nat × Bool)
  turns : List (Nat × Nat)
  tested : List (Nat × Nat)
  evs : List Evid
  evNext : Nat
  nvmEv : Nat
  unattr : List (Nat × Nat)
  failPend : List Nat
  dleft : Nat
  dstart : Nat
  /-- the pass in progress has been reported as late (R398) -/
  dlate : Bool
  bad : List Nat
  badNow : List Nat
  bistEnd : Option Nat
  mapq : List Nat
  marks : List (Nat × Nat × Bool)
  prevF : List (Nat × Nat)
  curF : List (Nat × Nat)
  skipCont : Bool
  nans : List Nat
  zeroStats : Bool
  deriving DecidableEq, Repr

/-- A record on its way out (R488, R490): its output, virtual channel (CSI), data ID, bell, bytes, and how many of them have left. -/
structure OutRec where
  output : Nat
  vc : Nat
  dataId : Nat
  bell : Nat
  bytes : List Byte
  off : Nat
  deriving DecidableEq, Repr

/-- EMIT beside the CSO and ETH registers: queues of the four CSI links and then of the destinations, and outputs released for the
current bell. -/
structure Emit where
  queues : List (List OutRec)
  released : List Nat
  /-- the 24 sample list entries and the side digest of the last snapshot (R412, R413) -/
  entries : List Byte
  side : List Byte
  deriving DecidableEq, Repr

/-- The security block beside its registers and the locket (R422 to R436). Fuses: digests of the four key slots, the seed, steps of the
anti-rollback code with one fuse burnt, and a life-cycle state that takes effect at the next start. Then: enclosure switch open, the challenge key, the signing under way (0 SEC or 1 I3C, start tick, report), the end tick of the anti-rollback
step under way, the scope of a debug unlock, latest hallmarks (stream, bell, digest), and TAMPER entries in the NVM ring since the last transition. -/
structure Sec where
  keys : List (List Byte)
  seed : List Byte
  half : List Nat
  nextLc : Option Nat
  enclosure : Bool
  chal : List Byte
  signing : Option (Nat × Nat × List Byte)
  arb : Option Nat
  scope : Nat
  halls : List (Nat × Nat × List Byte)
  tampers : Nat
  deriving DecidableEq, Repr

/-- A staging session (R453 to R458): from I3C or an Ethernet port, its number, target slot, part lengths, COPY_MODEL, next offsets,
erasing, the MAN of a COMMIT being checked, and the tick of the last valid datagram. -/
structure Stage where
  port : Option Nat
  session : Nat
  target : Nat
  bootLen : Nat
  modelLen : Nat
  copy : Bool
  bootNext : Nat
  modelNext : Nat
  erasing : Bool
  commit : Option (List Byte)
  peer : UdpFrom
  last : Nat
  deriving DecidableEq, Repr

/-- A replay session (R416 to R419): port, number, first bell, bells, the replay bell being received or run, its item stream and length,
whether its stream is whole, whether it runs, and the start tick of the bell before. -/
structure Replay where
  port : Nat
  session : Nat
  first : Nat
  bells : Nat
  k : Nat
  data : List Byte
  whole : Bool
  running : Bool
  lastStart : Nat
  peer : UdpFrom
  /-- parameter sets of the bell: camera, frame, set (R417) -/
  psets : List (Nat × Nat × List Byte)
  deriving DecidableEq, Repr

/-- The I3C target beside its registers (R507 to R512): window address of the next read, maximum lengths, and the running command with
what it will answer: OP, TAG, result code, returns. -/
structure I3c where
  addr : Nat
  mwl : Nat
  mrl : Nat
  running : Option (Nat × Nat × Nat × List Nat)
  deriving DecidableEq, Repr


/-- The whole state of the part. -/
structure State where
  /-- commands waiting, first in first out (the block's queue) -/
  pending : List Instr
  /-- TIME edges since reset alignment -/
  now : Nat
  pstate : PState
  /-- register words that differ from their reset value, by address -/
  regs : List (Nat × Word)
  /-- memory bytes that differ from what an unlisted byte reads as (`memDefault`: 0, and 0xFF in the erased flash stores), by key of the
  memory map (Machine/Ops.lean) -/
  mem : List Host.Cell
  /-- wrong bits or symbols of a stored ECC word, by key (R185, R209) -/
  ecc : List (Nat × Nat)
  image : List ImgRec
  latches : List (Nat × Nat)
  tsu : Tsu
  bell : Bell
  coll : Collector
  alive : Alive
  safety : Safety
  tt : Tt
  jx : Jx
  harts : List Hart
  inj : Inject
  card : Card
  memc : MemCtl
  /-- engines whose strands differ from the reset rotation, by physical core × 8 + engine -/
  engs : List (Nat × Eng)
  resid : List Resid
  /-- counts of the current bell behind the last-bell fields, and the fields that show a count now -/
  live : List (Fld × Nat)
  shown : List Fld
  att : Att
  cams : List Cam
  pipes : List (Option PipeJob)
  sieve : Sieve
  pw : Pw
  tst : Tst
  emit : Emit
  sec : Sec
  stage : Option Stage
  replay : Option Replay
  i3c : I3c
  sent : List Out
  /-- counter behind the free values -/
  freeCount : Nat
  deriving DecidableEq, Repr

def Tsu.reset : Tsu :=
  { sec := 0, ns := 0, frac := 0, integ := 0, prevO := none, good := 0, delayValid := false, delay := 0, held := none,
    locked := false, rateWarned := false, holdStart := 0, interval := 0, lastSync := 0, sync2 := none, lastT1 := none,
    req := none, reqSeq := 0, pd2 := none, best := none }

def Bell.reset : Bell :=
  { running := false, armed := false, n := 0, edge := 0, nextB := 0, start := 0, verdict := false, healthDone := false,
    gateDone := false, gatePassed := false, hbDone := false, reloadDone := false, phase2Done := false, bad := false, hb := [],
    prevVerdict := false, prevGate := false, stepFrom := none, started := 0 }

def Collector.reset : Collector :=
  { pend := [], rr := 0, merged := [], mergeBell := 0, loaded := false, ringsOpen := false, early := [], earlyLost := false,
    nvmq := [], nvmBusy := none, nvmLost := 0, kindsSeen := [], counts := [], aggSrc := 0, aggKind := 0, ibi := none, ibiSent := false, nvmIndex := 0 }

def Alive.reset : Alive :=
  { toggling := false, starting := false, everStarted := false, driveA := false, driveB := false, inject := none }

def Safety.reset : Safety :=
  { contest := 0, safeReleased := 0, safeVoid := 0, safeContested := 0, bv := 0, bvBell := 0, bvSet := false, gapSent := false,
    recovering := false, recWait := false, recLeft := 0, recDone := false, resetOnly := false, excluded := false, exclFrom := 0,
    fallbackOnly := false, pendingSafe := false }

def Seq.reset : Seq :=
  { runs := false, lastIssue := 0, tasks := [], digs := [], barriers := [], slack := 0xFFFFFFF, codeUe := false }

def Tt.reset : Tt :=
  { seqs := List.replicate 64 Seq.reset, jobs := [], subs := [], judged := [], barChecked := [], remaps := [], voidStreams := [],
    voidCores := [], voidUnits := [], voidAll := false, produced := [] }

def Peer.reset : Peer :=
  { helloMajor := none, helloMinor := 0, digest := [], absent := false, ready := false, readyLocked := false, hbBell := none, hbVerdict := false, hbPlan := 0, lastGood := none }

def Jx.reset : Jx :=
  { peers := List.replicate 4 Peer.reset, readySent := none, arm := none, armSent := false, driven := false, failSet := 0,
    switches := [], joiners := [], joinBell := none, reload := [] }

def Hart.reset : Hart := { stopped := false, attached := false, halted := false }

def Inject.reset : Inject := { sram := none, hbm := none, digest := [], tile := [] }

def Card.reset : Card := { entries := [], sev := [0, 0, 0, 0, 0, 0], voids := 0, contests := 0 }

def MemCtl.reset : MemCtl :=
  { scrubRow := 0, scrubFixed := [], patrol := 0, patrolPass := 0, patrolFixed := [], tempFails := 0, bankReq := [],
    bankOff := [], bankOut := [], repair := [], remapping := [], moved := 0 }

/-- Every strand healthy, strands 96 to 99 at recess (R77). -/
def Eng.reset : Eng := { ret := [], pend := [], rec0 := [96, 97, 98, 99], slots := List.range 96, entered := [] }

def Att.reset : Att := { refs := [], relq := [], relAt := 0, plans := [], fulls := [], nodes := [] }

def CamBuf.reset : CamBuf := { st := 0, frame := 0, seq := 0, tag := 0, flags := 0, capt := 0, sof := 0, repairs := 0 }
def CamSet.reset : CamSet := { complete := false, void := false, frame := 0, seq := 0, flags := 0, capt := 0, pset := [] }
def Cam.reset : Cam :=
  { bufs := List.replicate 3 CamBuf.reset, opens := [], lastFrame := none, seq := 0, lastPacket := 0, trigs := [], groups := [],
    psets := [], pset := [], sets := List.replicate 3 CamSet.reset, newest := none, held := none, lastSel := none, queues := [[], []],
    running := none, group := none, reads := [[], []], failed := false, pocTrip := none, pocDead := false }

def LidGen.reset : LidGen := { recs := [], tMin := 0, bad := 0, nd := false, ego := false, overrun := false, ue := false }
def Sieve.reset : Sieve :=
  { gen := 0, gens := List.replicate 8 LidGen.reset, counters := List.replicate 8 0, seqs := List.replicate 8 none, queue := [], ego := [],
    used := [], egoRej := 0, egoBell := 0, occ := [], closed := [], overflow := false, maxDist := 0, clearTo := 0 }
def Pw.reset : Pw :=
  { ready := false, wake := none, parkAt := none, under := none, clkLoss := none, warm := none, reqAt := 0, first := 1, readyAt := 0, loading := none }

def Tst.reset : Tst :=
  { reqs := [], units := [], progs := [], turns := [], tested := [], evs := [], evNext := 0, nvmEv := 0, unattr := [], failPend := [],
    dleft := 0, dstart := 0, dlate := false, bad := [], badNow := [], bistEnd := none, mapq := [], marks := [], prevF := [], curF := [], skipCont := true,
    nans := [], zeroStats := false }

def Emit.reset : Emit := { queues := List.replicate 36 [], released := [], entries := [], side := [] }
def Sec.reset : Sec :=
  { keys := List.replicate 4 [], seed := [], half := [], nextLc := none, enclosure := false, chal := [], signing := none,
    arb := none, scope := 7, halls := [], tampers := 0 }
/-- Maximum lengths of R507. -/
def I3c.reset : I3c := { addr := 0, mwl := 1026, mrl := 1024, running := none }


/-- The part right after reset alignment (R279, R464, Table 17-6): state BOOT, every register at its reset value, no memory listed. -/
def State.reset : State :=
  { pending := [], now := 0, pstate := .boot, regs := [], mem := [], ecc := [], image := [], latches := [], tsu := Tsu.reset,
    bell := Bell.reset, coll := Collector.reset, alive := Alive.reset, safety := Safety.reset, tt := Tt.reset, jx := Jx.reset,
    harts := List.replicate 3 Hart.reset, inj := Inject.reset,
    card := Card.reset,
    memc := MemCtl.reset,
    engs := [], resid := [], live := [], shown := [],
    att := Att.reset,
    cams := List.replicate 16 Cam.reset, pipes := List.replicate 4 none,
    sieve := Sieve.reset, pw := Pw.reset,
    tst := Tst.reset,
    emit := Emit.reset, sec := Sec.reset, stage := none, replay := none, i3c := I3c.reset,
    sent := [], freeCount := 0 }

end Sys2Proof.Machine
end

