-- ==== Sys2Proof/Machine/Ops.lean ====
section
/-! DEFINITION. Named operations over registers, memories, time, image records and fault messages. -/

namespace Sys2Proof.Machine
open Sys2Proof
set_option Elab.async false

/-! ### Registers -/

/-- Offset of an address inside a register row's array, if the row holds it. -/
def RegRow.holds (r : RegRow) (a : Nat) : Bool :=
  if a < r.base then false
  else
    have o := a - r.base
    match r.dims with
    | [] => o == 0
    | [(st, c)] => o % st == 0 && decide (o / st < c)
    | (st, c) :: (st2, c2) :: _ => decide (o / st < c) && (o % st) % st2 == 0 && decide ((o % st) / st2 < c2)

/-- The row of the register tables an address belongs to. -/
def regRow? (a : Nat) : Option RegRow := regRows.find? (fun r => r.holds a)

/-- Reset word of a row: each field at its reset value. -/
def RegRow.resetWord (r : RegRow) : Nat := r.fields.foldl (fun w f => w + f.2.2.2 * 2 ^ f.2.1) 0

/-- Registers whose reset value is not 0, with CORE_ID's own rule (PHYS resets to p, R550). -/
def regReset (a : Nat) : Word :=
  if 0x2010000000 ≤ a ∧ (a - 0x2010000000) % 0x100000 = 0 ∧ (a - 0x2010000000) / 0x100000 < 66 then
    BitVec.ofNat 32 ((a - 0x2010000000) / 0x100000)
  else match regRow? a with
    | some r => BitVec.ofNat 32 r.resetWord
    | none => 0

/-- The stored word of a register. -/
def State.reg (s : State) (a : Nat) : Word := smGet regReset s.regs a

/-- Store a register word. -/
def State.setReg (s : State) (a : Nat) (w : Word) : State := { s with regs := smSet regReset s.regs a w }

/-- Read a register field. -/
def State.rf (s : State) (f : Fld) : Nat := bits (s.reg f.addr).toNat f.hi f.lo

/-- Write a register field, leaving the other bits. -/
def State.wf (s : State) (f : Fld) (v : Nat) : State :=
  s.setReg f.addr (BitVec.ofNat 32 (setBits (s.reg f.addr).toNat f.hi f.lo v))

/-- Add to a saturating counter field. -/
def State.bump (s : State) (f : Fld) (n : Nat) : State := s.wf f (satU (f.hi + 1 - f.lo) (s.rf f + n))

/-- Count n events of the current bell behind a last-bell field; the field shows them at the next bell edge. -/
def State.tally (s : State) (f : Fld) (n : Nat) : State :=
  if n = 0 then s
  else if s.live.any (fun p => p.1 == f) then
    { s with live := s.live.map (fun p => if p.1 == f then (f, p.2 + n) else p) }
  else { s with live := s.live ++ [(f, n)] }

/-- Account n bytes that SHK absorbs for a request of class cls of Table 15-2 (R420, R437). -/
def State.absorb (s : State) (cls n : Nat) : State := (s.tally F.SHK_BYTES_UNITS n).tally (F.SHK_CLASS_UNITS (cls - 1)) n

/-- What one unit of a last-bell field stands for: 65,536 bytes in the SHK counters, one event elsewhere. -/
def fldUnit (f : Fld) : Nat := if A.SHK_BYTES ≤ f.addr ∧ f.addr ≤ A.SHK_CLASS 5 then 65536 else 1

/-- Show the counts of the bell just ended in the last-bell fields, saturated (R90, R91). -/
def State.rollLive (s : State) : State :=
  have s := s.shown.foldl (fun s f => s.wf f 0) s
  have s := s.live.foldl (fun s p => s.wf p.1 (satU (p.1.hi + 1 - p.1.lo) (p.2 / fldUnit p.1))) s
  { s with shown := s.live.map (fun p => p.1), live := [] }

/-- A field as a truth value. -/
def State.flag (s : State) (f : Fld) : Bool := s.rf f == 1

/-! ### Memory map of the model: one key per byte of every memory -/

/-- Default of an unlisted byte: 0, and 0xFF in the erased stores (R441; log 1). -/
def memDefault (k : Nat) : Byte := if 0x90000000000 ≤ k ∧ k < 0xB0000000000 then 0xFF else 0

/-- The canonical form of the memory list: keys strictly rising, no entry equal to what an unlisted byte reads as. -/
def Memory.wf (m : List Host.Cell) : Bool := smWfB memDefault m

def keyHbm (a : Nat) : Nat := a
def keyLib (off : Nat) : Nat := 0x1000000000 + off
/-- Desk of physical core p. -/
def keyDesk (p off : Nat) : Nat := 0x10000000000 + p * 0x1000000 + off
/-- Operand buffer of engine e of physical core p; L side from 0, S side from 0x8000 (Table 2-9). -/
def keyOb (p e off : Nat) : Nat := 0x20000000000 + (p * 8 + e) * 0x10000 + off
/-- Header slot of the tile that starts at an operand-buffer offset: slot off div 1,024 (R179). -/
def keyObHdr (p e off : Nat) : Nat := 0x40000000000 + ((p * 8 + e) * 64 + off / 1024) * 32
def keyLocket (off : Nat) : Nat := 0x80000000000 + off
/-- Boot store device d (R439). -/
def keyBoot (d off : Nat) : Nat := 0x90000000000 + d * 0x4000000 + off
def keyModel (off : Nat) : Nat := 0xA0000000000 + off
/-- The 2 MiB control-pair L2 (R364). -/
def keyL2 (off : Nat) : Nat := 0xB0000000000 + off
/-- Security command buffer and other buffers with no address. -/
def keySecBuf (off : Nat) : Nat := 0xC0000000000 + off

def State.rd (s : State) (k : Nat) : Byte := smGet memDefault s.mem k
def State.rdN (s : State) (k n : Nat) : List Byte := smGetList memDefault s.mem k n
def State.wrN (s : State) (k : Nat) (bs : List Byte) : State := { s with mem := smSetList memDefault s.mem k bs }
def State.rdLe (s : State) (k n : Nat) : Nat := leNat (s.rdN k n)
def State.wrLe (s : State) (k n v : Nat) : State := s.wrN k (leBytes n v)

/-- Drop every listed byte with a key in [lo, hi): the range reads 0. -/
def State.zeroRange (s : State) (lo hi : Nat) : State :=
  { s with mem := s.mem.filter (fun p => decide (p.1 < lo) || decide (hi ≤ p.1)) }

/-! ### Free values (log 4) -/

/-- n fresh free bytes. -/
def freeBytes (c : Nat) : Nat → List Byte
  | 0 => []
  | n + 1 => Config.freeByte c :: freeBytes (c + 1) n

/-- Take a fresh free word of w bits. -/
def State.freeNat (s : State) (w : Nat) : Nat × State :=
  ((Config.freeWord s.freeCount).toNat % 2 ^ w, { s with freeCount := s.freeCount + 1 })

/-! ### Image records (chapter 16, Table 16-6) -/

def recHeader : Nat := 0x0001
def recFault : Nat := 0x0010
def recSafety : Nat := 0x0011
def recProctor : Nat := 0x0012
def recRubric : Nat := 0x0013
def recContent : Nat := 0x0014
def recDigest : Nat := 0x0015
def recTime : Nat := 0x0016
def recJexong : Nat := 0x0017
def recHbmMap : Nat := 0x0018
def recStream : Nat := 0x0020
def recDeskCtrl : Nat := 0x0021
def recWindow : Nat := 0x0022
def recDetect : Nat := 0x0023
def recCodec : Nat := 0x0024
def recAttend : Nat := 0x0025
def recMcast : Nat := 0x0026
def recBarrier : Nat := 0x0027
def recTracked : Nat := 0x0028
def recPatch : Nat := 0x0029
def recMapPlan : Nat := 0x002A
def recAttGlobal : Nat := 0x0030
def recCtxClass : Nat := 0x0031
def recPrefix : Nat := 0x0032
def recCamera : Nat := 0x0040
def recCamTable : Nat := 0x0041
def recCamInit : Nat := 0x0042
def recPsetInit : Nat := 0x0043
def recIsp : Nat := 0x0044
def recLidar : Nat := 0x0050
def recFusion : Nat := 0x0051
def recBatch : Nat := 0x0052
def recOutput : Nat := 0x0060

/-- Bytes of a loaded record; empty when the image has none. -/
def State.recBytes (s : State) (typ idx : Nat) : List Byte :=
  match s.image.find? (fun r => r.typ == typ && r.idx == idx) with
  | some r => r.bytes
  | none => []

/-- A little-endian field of a record of index 0. -/
def State.recLe (s : State) (typ off n : Nat) : Nat := leAt (s.recBytes typ 0) off n

/-- Element k of a record with elements of `size` bytes. -/
def recElem (bs : List Byte) (size k : Nat) : List Byte := (bs.drop (k * size)).take size

/-- Number of whole elements of a record. -/
def recCount (bs : List Byte) (size : Nat) : Nat := bs.length / size

def State.bellPeriod (s : State) : Nat := s.recLe recTime 10 4
def State.epochNs (s : State) : Nat := s.recLe recTime 0 6 * 1000000000 + s.recLe recTime 6 4
def State.healthAt (s : State) : Nat := s.recLe recHeader 0 4
def State.modules (s : State) : Nat := s.recLe recJexong 1 1
def State.moduleId (s : State) : Nat := s.recLe recJexong 0 1
def State.ctxPlan (s : State) : Nat := s.jx.failSet

/-- Stream table element of a stream (Table 16-8). -/
def State.streamElem (s : State) (stream : Nat) : Option (List Byte) :=
  have bs := s.recBytes recStream 0
  ((List.range (recCount bs 48)).map (recElem bs 48)).find? (fun e => leAt e 0 2 % 4096 == stream)

/-- Attribute bits of a stream: [0] SAFE, [1] DUAL, [2] LATEST, [3] HALLMARK, [7:4] BELL_OFFSET. -/
def State.streamAttr (s : State) (stream : Nat) : Nat := ((s.streamElem stream).map (fun e => leAt e 22 1)).getD 0

/-- Base address of an HBM region by KIND (R202), with its length in bytes. -/
def State.hbmRegion (s : State) (kind : Nat) : Option (Nat × Nat × Nat) :=
  have bs := s.recBytes recHbmMap 0
  (((List.range (recCount bs 16)).map (recElem bs 16)).find? (fun e => leAt e 0 1 == kind)).map
    (fun e => (leAt e 4 4 * 0x400000, leAt e 8 4 * 0x400000, leAt e 1 1))

/-- Base of the gradebook region (R348); the default map of Table 8-2 before a map is loaded. -/
def State.gradebookBase (s : State) : Nat := ((s.hbmRegion 6).map (fun r => r.1)).getD 0x540000000

/-! ### Time (R277) -/

/-- TSU time in units of 2^-32 ns. -/
def Tsu.units (t : Tsu) : Nat := (t.sec * 1000000000 + t.ns) * 4294967296 + t.frac

/-- TSU fields from a count of 2^-32 ns; SEC wraps at 48 bits. -/
def Tsu.ofUnits (t : Tsu) (u : Nat) : Tsu :=
  { t with frac := u % 4294967296, ns := (u / 4294967296) % 1000000000,
           sec := (u / 4294967296 / 1000000000) % 2 ^ 48 }

/-- The increment of one TIME edge in 2^-32 ns: INC_NS 2, INC_FRAC 0x80000000, plus RATE (R277). -/
def tsuInc (rate : Int) : Nat := ((2 * 4294967296 + 2147483648 : Int) + rate).toNat

/-- One TIME edge, as the pseudocode of R277 has it. -/
def Tsu.tick (t : Tsu) (rate : Int) : Tsu :=
  have inc := tsuInc rate
  have f := t.frac + inc % 4294967296
  have n := t.ns + inc / 4294967296 + f / 4294967296
  if 1000000000 ≤ n then { t with frac := f % 4294967296, ns := n - 1000000000, sec := (t.sec + 1) % 2 ^ 48 }
  else { t with frac := f % 4294967296, ns := n }

/-- k TIME edges at one RATE. -/
def Tsu.advance (t : Tsu) (rate : Int) (k : Nat) : Tsu :=
  if k = 0 then t else t.ofUnits (t.units + k * tsuInc rate)

/-- RATE (TSU_RATE) as a signed number. -/
def State.rate (s : State) : Int := toSigned 32 (s.rf F.TSU_RATE_RATE)

/-- TSU time in whole ns. -/
def State.timeNs (s : State) : Nat := s.tsu.sec * 1000000000 + s.tsu.ns

/-- TSU time in ns, a fraction counted as a whole one. -/
def State.timeUp (s : State) : Nat := if s.tsu.frac = 0 then s.timeNs else s.timeNs + 1

/-- TIME edges until TSU time first reaches t ns. -/
def State.ticksUntil (s : State) (t : Nat) : Nat :=
  have u := t * 4294967296
  if u ≤ s.tsu.units then 0 else ceilDiv (u - s.tsu.units) (tsuInc s.rate)

/-- ARITH cycles since the timetable start (an ARITH edge is every second TIME edge). -/
def State.cycle (s : State) : Nat := (s.now - s.bell.start) / 2

/-- Current bell number of R558. -/
def State.curBell (s : State) : Nat :=
  if s.bell.running then s.bell.n
  else if s.bellPeriod = 0 ∨ s.timeNs < s.epochNs then 0
  else (s.timeNs - s.epochNs) / s.bellPeriod

/-! ### Fault messages (R338 to R343) -/

/-- STATE code of Table 13-5. -/
def PState.code : PState → Nat
  | .off => 0 | .boot => 0 | .run => 1 | .safe => 2 | .halt => 3 | .maint => 4 | .park => 5

/-- Effective severity and whether the floor raised it (R343, R351). -/
def State.effective (s : State) (src kind : Nat) : Nat × Bool :=
  have core := decide (src ≤ 0x83F)
  have k := if s.coll.loaded then
      (if core then s.rf (F.FLT_KSEV_CORE kind) else s.rf (F.FLT_KSEV_CHIP kind))
    else kindDefault core kind
  have sv := if s.coll.loaded then bits (s.reg (A.FLT_SEV (src / 8))).toNat (4 * (src % 8) + 2) (4 * (src % 8)) else 7
  have e := if sv != 7 && decide (2 ≤ k) then sv else k
  if e < kindFloor kind then (kindFloor kind, true) else (e, false)

/-- Put a message at its source, merging with a pending one (R339, R340). -/
def State.sendMsg (s : State) (m : Msg) : State :=
  match smFind s.coll.pend m.src with
  | none => { s with coll := { s.coll with pend := smInsert s.coll.pend m.src m } }
  | some p =>
    have keep := if (s.effective p.src p.kind).1 < (s.effective m.src m.kind).1 then m else p
    have q := { keep with merges := satU 16 (p.merges + 1), injected := p.injected || m.injected }
    have s := { s with coll := { s.coll with pend := smInsert s.coll.pend m.src q,
                                             merged := if s.coll.merged.contains m.src then s.coll.merged else m.src :: s.coll.merged } }
    s.bump (F.FLT_SRC_CNT_MERGED m.src) 1

/-- Send a fault message from a source (R338). -/
def State.send (s : State) (src : Nat) (k : Kind) (addr : Nat) : State :=
  s.sendMsg { src := src, kind := k.code, addr := addr % 2 ^ 40, merges := 0, injected := false, ev := 0, evBytes := 0, detail := [] }

/-- Source IDs of Table 13-2. -/
def srcSeq (p : Nat) : Nat := p * 32
def srcSeqCmp (p : Nat) : Nat := p * 32 + 1
def srcEngine (p e : Nat) : Nat := p * 32 + 2 + e
def srcVector (p : Nat) : Nat := p * 32 + 10
def srcMover (p m : Nat) : Nat := p * 32 + 11 + m
def srcInput (p : Nat) : Nat := p * 32 + 13
def srcDesk (p : Nat) : Nat := p * 32 + 14
def srcOb (p : Nat) : Nat := p * 32 + 15
def srcRecess (p : Nat) : Nat := p * 32 + 16
def srcHmover (n : Nat) : Nat := 0x840 + n
def srcHbm (n : Nat) : Nat := 0x860 + n
def srcCam (c : Nat) : Nat := 0x880 + c
def srcIsp (p : Nat) : Nat := 0x890 + p
def srcSieve (l : Nat) : Nat := 0x898 + l
def srcSieveAll : Nat := 0x8A0
def srcIngest : Nat := 0x8A1
def srcCodec (n : Nat) : Nat := 0x8A8 + n
def srcDetect (n : Nat) : Nat := 0x8B0 + n
def srcAttend : Nat := 0x8B8
def srcRubric : Nat := 0x8C0
def srcEmit : Nat := 0x8C1
def srcDual : Nat := 0x8C2
def srcBarrier : Nat := 0x8C3
def srcRemap : Nat := 0x8C4
def srcColl : Nat := 0x8C5
def srcSafety : Nat := 0x8C6
def srcLib : Nat := 0x8D0
def srcLocket : Nat := 0x8D1
def srcClassC : Nat := 0x8D2
def srcScrub : Nat := 0x8D3
def srcTsu : Nat := 0x8E0
def srcJx : Nat := 0x8E1
def srcSec : Nat := 0x900
def srcShk : Nat := 0x901
def srcI3c : Nat := 0x902
def srcEth (n : Nat) : Nat := 0x908 + n
def srcPower : Nat := 0x910

/-- Source of a control pair or hart: CP0, CP1 (or CP1A), CP1B. -/
def srcPair (h : Nat) : Nat := if h = 0 then 0x8F0 else if h = 1 then 0x8F1 else 0x8F3
def srcL2 : Nat := 0x8F2

/-- Writer code of REG_DENIED (Table 13-8). -/
def reqCode : Requester → Nat
  | .cp0 => 0 | .cp1 => 1 | .cp1b => 2 | .i3c => 3 | .dbg => 4

/-- Ignore a write and send REG_DENIED (Table 13-8). -/
def State.deny (s : State) (r : Requester) (addr : Nat) : State :=
  s.send srcColl .REG_DENIED (reqCode r * 2 ^ 36 + addr % 2 ^ 32)

/-! ### The passing of time -/

/-- The bell number changed: report the merges and NVM discards of the bell before (R340, R350). -/
def State.rollBell (s : State) : State :=
  have n := s.curBell
  if n = s.coll.mergeBell then s
  else
    have ms := s.coll.merged
    have lost := s.coll.nvmLost
    have s := { s with coll := { s.coll with merged := [], mergeBell := n, nvmLost := 0 }, tsu := { s.tsu with rateWarned := false } }
    have s := if ms.isEmpty then s
      else s.send srcColl .FLT_MERGE (satU 12 ms.length * 2 ^ 16 + ms.foldl min 0xFFF)
    if lost = 0 then s else s.send srcColl .GB_PERSIST_LOST (satU 16 lost)

/-- Let k TIME edges pass (R277). In OFF no clock runs. -/
def State.advance (s : State) (k : Nat) : State :=
  if s.pstate = .off then s
  else ({ s with now := s.now + k, tsu := s.tsu.advance s.rate k }).rollBell

/-- Let time pass to a tick that lies ahead. -/
def State.advanceTo (s : State) (t : Nat) : State := s.advance (t - s.now)

/-- Let time pass until the TSU reaches t ns. -/
def State.advanceToNs (s : State) (t : Nat) : State := s.advance (s.ticksUntil t)

/-- One idle TIME edge, as the pseudocode of R277 has it: what a step on an empty queue does (log 5). -/
def idleTick (s : State) : State :=
  if s.pstate = .off then s
  else ({ s with now := s.now + 1, tsu := s.tsu.tick s.rate }).rollBell

/-- In PARK with no wake under way: only TIME and what R473 lists runs. -/
def State.parked (s : State) : Bool := decide (s.pstate = .park) && s.pw.wake.isNone && !s.pw.ready

/-- Record something that leaves the part. -/
def State.out (s : State) (o : Out) : State := { s with sent := s.sent ++ [o] }

/-- Update one sequencer. -/
def State.setSeq (s : State) (n : Nat) (f : Seq → Seq) : State :=
  { s with tt := { s.tt with seqs := s.tt.seqs.modify n f } }

def State.seqOf (s : State) (n : Nat) : Seq := (s.tt.seqs[n]?).getD Seq.reset

/-- Physical core of a logical core (R32, R57). -/
def State.phys (s : State) (n : Nat) : Nat := s.rf (F.CHIP_REMAP_PHYS n)

/-- FREE_RUNNING a new header carries (R279); in replay it comes from the recorded items only (R418). -/
def State.freeRunning (s : State) : Bool := s.flag F.TSU_STATUS_FREE_RUNNING && s.replay.isNone

/-- External E2E header (Table 18-4) in front of a payload, with its CRC (R35, R491). -/
def extRecord (dataId major minor bell sec ns flags age : Nat) (payload : List Byte) : List Byte :=
  have h := leBytes 2 (dataId % 4096) ++ leBytes 1 major ++ leBytes 1 minor ++ leBytes 4 bell ++ leBytes 6 sec ++ leBytes 4 ns ++
    leBytes 2 flags ++ leBytes 4 payload.length ++ leBytes 4 age
  h ++ leBytes 4 (crc32c (h ++ payload)) ++ payload

/-! ### ALIVE, SAFE and HALT (R324 to R327, R352, R357) -/

/-- Send the interrupt when a dynamic address is held and interrupts are enabled; otherwise it waits as pending (R352, R512). -/
def State.sendIbi (s : State) : State :=
  match s.coll.ibi with
  | none => s
  | some bs =>
    if s.flag F.I3C_STATUS_DA_VALID && s.flag F.I3C_STATUS_IBI_EN then
      (({ s with coll := { s.coll with ibiSent := true } }).out (.ibi bs)).wf F.FLT_STATUS_IBI_PEND 0
    else ({ s with coll := { s.coll with ibiSent := false } }).wf F.FLT_STATUS_IBI_PEND 1

/-- While in SAFE or HALT, AGG never falls below that state's severity (R353). -/
def State.aggFloor (s : State) : Nat :=
  match s.pstate with
  | .safe => 4
  | .halt => 5
  | _ => 0

/-- AGG: the highest effective severity since the last acknowledgement, and no less than the state's (R352, R353). -/
def State.agg (s : State) : Nat := max (s.rf F.FLT_STATUS_AGG) s.aggFloor

/-- Raise the in-band interrupt with the latest AGG, cause and STATE (R352). -/
def State.raiseIbi (s : State) : State :=
  have agg := s.agg
  have bs : List Byte := leBytes 1 (agg % 32) ++ leBytes 2 s.coll.aggSrc ++ leBytes 1 s.coll.aggKind ++ leBytes 1 s.pstate.code
  ({ s with coll := { s.coll with ibi := some bs } }).sendIbi

/-- Both ALIVE outputs turn off and stay off (R357). -/
def State.stopAlive (s : State) : State :=
  ({ s with alive := { s.alive with toggling := false, starting := false, everStarted := true, driveA := false, driveB := false } }).wf F.FLT_STATUS_ALIVE_ON 0

/-- Set the power state and the STATE fields that show it (Tables 13-9, 17-9); STEP reads 0 outside BOOT (Table 17-10). -/
def State.setPState (s : State) (p : PState) : State :=
  have s := (({ s with pstate := p }).wf F.FLT_STATUS_STATE p.code).wf F.PWR_STATE_STATE p.code
  if p = .boot then s else s.wf F.PWR_STATE_STEP 0

/-- Record the cause of SAFE or HALT (FLT_SAFE_CAUSE). -/
def State.setCause (s : State) (src kind : Nat) : State :=
  ((s.wf F.FLT_SAFE_CAUSE_SOURCE src).wf F.FLT_SAFE_CAUSE_KIND kind).wf F.FLT_SAFE_CAUSE_VALID 1

/-- SAFE_EXIT (Table 12-8). -/
def State.sendSafeExit (s : State) (reason : Nat) : State :=
  s.send srcSafety .SAFE_EXIT (reason * 2 ^ 36 + s.curBell % 2 ^ 32)

/-- The recovery bells end without success (R327). -/
def State.endRecovery (s : State) : State :=
  if s.safety.recovering then
    ({ s with safety := { s.safety with recovering := false, recWait := false, recLeft := 0, recDone := false } }).sendSafeExit 3
  else s

/-- Every sequencer stops issuing and every station abandons its operation (R326). -/
def State.stopCompute (s : State) : State :=
  have s := { s with tt := { s.tt with jobs := [], seqs := s.tt.seqs.map (fun q => { q with runs := false }) } }
  (List.range 66).foldl (fun s p => s.wf (F.TT_STATUS_RUNNING p) 0) s

/-- A fault of effective severity SAFE was recorded, by power state (R324, R325, R556). -/
def State.enterSafe (s : State) (src kind : Nat) : State :=
  have s := { s with safety := { s.safety with resetOnly := s.safety.resetOnly || kindResetOnly kind } }
  match s.pstate with
  | .run =>
    have s := (s.setPState .safe).setCause src kind
    have s := { s with safety := { s.safety with fallbackOnly := true, recDone := false } }
    s.stopAlive.raiseIbi
  | .safe => s.endRecovery.stopAlive
  | .boot => ({ s with safety := { s.safety with pendingSafe := true } }).setCause src kind
  | .park => ({ s with safety := { s.safety with pendingSafe := true } }).setCause src kind
  | .maint => (({ s with safety := { s.safety with fallbackOnly := true } }).setCause src kind)
  | .halt => s
  | .off => s

/-- HALT is entered (R326, R469, R556). -/
def State.enterHalt (s : State) (src kind : Nat) : State :=
  match s.pstate with
  | .halt => s
  | .off => s
  | _ =>
    have s := (s.setPState .halt).setCause src kind
    have bells := s.bell.running && s.replay.isNone
    have s := { s with safety := { s.safety with recovering := false, recWait := false, recDone := false }, stage := none, replay := none,
                       bell := { s.bell with running := bells, armed := false } }
    s.stopAlive.stopCompute.raiseIbi

end Sys2Proof.Machine
end

