-- ==== Sys2Proof/Machine/Memory.lean ====
section
/-! DEFINITION. Memories (07, 08): ECC, access rules, scrubs, temperature, banks. -/

namespace Sys2Proof.Machine
open Sys2Proof
set_option Elab.async false

/-! ### Where a key lies -/

/-- HBM, or an on-chip memory with its MEM, CORE and ENG codes, word index and fault source (R196). -/
inductive MemPlace where
  | hbm
  | sram (mem core eng word src : Nat)
  | other
  deriving DecidableEq, Repr

/-- Place of a key of the memory map. -/
def memPlace (k : Nat) : MemPlace :=
  if k < 0x600000000 then .hbm
  else if 0x1000000000 ≤ k ∧ k < 0x1008000000 then .sram 2 0x7F 0 ((k - 0x1000000000) / 64) srcLib
  else if 0x10000000000 ≤ k ∧ k < 0x20000000000 then
    have o := k - 0x10000000000
    .sram 1 (o / 0x1000000) 0 ((o % 0x1000000) / 32) (srcDesk (o / 0x1000000))
  else if 0x20000000000 ≤ k ∧ k < 0x40000000000 then
    have o := k - 0x20000000000
    have c := o / 0x10000
    .sram 0 (c / 8) (c % 8) ((o % 0x10000) / 32) (srcOb (c / 8))
  else if 0x40000000000 ≤ k ∧ k < 0x80000000000 then
    have o := (k - 0x40000000000) / 32
    have c := o / 64
    .sram 0 (c / 8) (c % 8) (1536 + o % 64) (srcOb (c / 8))
  else if 0x80000000000 ≤ k ∧ k < 0x90000000000 then .sram 3 0x7F 0 ((k - 0x80000000000) / 32) srcLocket
  else if 0xB0000000000 ≤ k ∧ k < 0xC0000000000 then .sram 4 0x7F 0 ((k - 0xB0000000000) / 64) srcL2
  else .other

/-- Address field of an SRAM fault (Table 7-7). -/
def sramAddr (mem core eng word : Nat) : Nat := mem * 2 ^ 36 + core * 2 ^ 29 + eng * 2 ^ 26 + word % 2 ^ 26

/-- Marks of wrong bits or symbols inside [k, k + n). -/
def State.eccIn (s : State) (k n : Nat) : List (Nat × Nat) := s.ecc.filter (fun p => decide (k ≤ p.1) && decide (p.1 < k + n))

/-- Clear the marks of a range: the words were written whole. -/
def State.clearEcc (s : State) (k n : Nat) : State :=
  { s with ecc := s.ecc.filter (fun p => decide (p.1 < k) || decide (k + n ≤ p.1)) }

/-- Mark wrong bits of one granule or burst. -/
def State.markEcc (s : State) (k w : Nat) : State :=
  { s with ecc := smSet (fun _ => 0) s.ecc k (min 2 (smGet (fun _ => 0) s.ecc k + w)) }

/-- OCM_LAST of R197. -/
def State.ocmLast (s : State) (k : Kind) (addr : Nat) : State :=
  ((s.wf F.OCM_LAST_LO_ADDR (addr % 2 ^ 32)).wf F.OCM_LAST_HI_ADDR (addr / 2 ^ 32)).wf F.OCM_LAST_HI_KIND k.code

/-- A corrected single-bit error of an on-chip word (R185). -/
def State.sramCe (s : State) (mem core eng word src : Nat) : State :=
  have s := s.bump (if mem = 1 then F.OCM_CE_DESK else if mem = 2 then F.OCM_CE_LIB else if mem = 0 then F.OCM_CE2_OB else F.OCM_CE2_OTHER) 1
  have a := sramAddr mem core eng word
  (s.ocmLast .SRAM_CE a).send src .SRAM_CE a

/-- An uncorrectable on-chip word (R186, R195). -/
def State.sramUe (s : State) (code : Bool) (mem core eng word src : Nat) : State :=
  have s := s.bump (if mem = 1 then F.OCM_UE_DESK else if mem = 2 then F.OCM_UE_LIB else if mem = 0 then F.OCM_UE_OB else F.OCM_UE_OTHER) 1
  have a := sramAddr mem core eng word
  if mem = 3 then (s.wf F.OCM_STATUS_LOCKET_BAD 1).send src .LOCKET_UE a
  else
    have k : Kind := if code then .SRAM_UE_CODE else .SRAM_UE
    (s.ocmLast k a).send src k a

/-- Pseudo-channel of an HBM address (R200). -/
def hbmPc (a : Nat) : Nat := (a / 131072) % 32

/-- Location of an HBM address inside its pseudo-channel (R200): stack ID, bank group, bank, row, column. -/
def hbmLoc (a : Nat) : Nat × Nat × Nat × Nat × Nat :=
  have lo := (a / 131072 / 32) * 131072 + a % 131072
  have w := lo % 268435456
  (lo / 268435456, (w / 1024) % 4, (w / 4096) % 4, w / 16384, (w / 32) % 32)

/-- Enter an event in the controller error log (Table 8-6). -/
def State.elog (s : State) (k : Kind) (a req : Nat) : State :=
  have i := s.rf F.MEM_ELOG_PTR_NEXT
  have s := (s.wf (F.MEM_ELOG_ADDR_ADDR i) (a % 2 ^ 32)).wf (F.MEM_ELOG_INFO_ADDR_HI i) (a / 2 ^ 32)
  have s := ((s.wf (F.MEM_ELOG_INFO_KIND i) k.code).wf (F.MEM_ELOG_INFO_REQ i) req).wf (F.MEM_ELOG_BELL_BELL i) (s.curBell % 2 ^ 32)
  have s := if i = 15 then s.wf F.MEM_ELOG_PTR_WRAPPED 1 else s
  s.wf F.MEM_ELOG_PTR_NEXT ((i + 1) % 16)

/-- Repair list entry of a row: [13:0] row, [15:14] stack ID, [17:16] bank, [19:18] bank group, [24:20] pseudo-channel, [31] VALID. -/
def repairWord (a : Nat) : Nat :=
  let (sid, bg, bank, row, _) := hbmLoc a
  row + sid * 2 ^ 14 + bank * 2 ^ 16 + bg * 2 ^ 18 + hbmPc a * 2 ^ 20 + 2 ^ 31

/-- Put a row on the repair list, 4 per pseudo-channel (R210, Table 16-11). -/
def State.listRow (s : State) (a : Nat) : State :=
  have w := repairWord a
  have pc := hbmPc a
  if s.memc.repair.any (fun r => r.2 == w) then s
  else if 4 ≤ (s.memc.repair.filter (fun r => r.1 == pc)).length then s.bump F.MEM_REPAIR_PENDING 1
  else
    have l := s.memc.repair ++ [(pc, w)]
    have s := { s with memc := { s.memc with repair := l } }
    have b := ((l.map (fun r => leBytes 4 r.2)).flatten ++ List.replicate 512 (0 : Byte)).take 512
    have b := b ++ leBytes 4 (crc32c b)
    (s.wrN (keyBoot 0 0x3503000) b).wrN (keyBoot 1 0x3503000) b

/-- An uncorrectable HBM burst (R208): HBM_UE, error log and repair list. -/
def State.hbmUe (s : State) (a req : Nat) : State :=
  have s := ((s.bump F.MEM_UE_UE 1).elog .HBM_UE a req).listRow a
  s.send (srcHbm (hbmPc a)) .HBM_UE (req * 2 ^ 36 + a)

/-- A corrected HBM burst (R207). -/
def State.hbmCe (s : State) (a req : Nat) : State :=
  (s.bump (F.MEM_CE_CE (hbmPc a)) 1).send (srcHbm (hbmPc a)) .HBM_CE (req * 2 ^ 36 + a)

/-- Judge the ECC marks a read meets: corrected words are reported, uncorrectable ones poison the read (R185, R186, R207, R208).
`code` marks a read of code; `req` is the HBM requester class. -/
def State.judge (s : State) (code : Bool) (req : Nat) (marks : List (Nat × Nat)) : State × Bool :=
  marks.foldl (fun acc p =>
    let (s, bad) := acc
    match memPlace p.1 with
    | .hbm => if p.2 ≤ 1 then (s.hbmCe p.1 req, bad) else (s.hbmUe p.1 req, true)
    | .sram m c e w src =>
      if m = 4 then
        (if p.2 ≤ 1 then s.send srcL2 .L2_CE w else s.send srcL2 .L2_UE w, bad || decide (2 ≤ p.2))
      else if p.2 ≤ 1 then (s.sramCe m c e w src, bad) else (s.sramUe code m c e w src, true)
    | .other => (s, bad)) (s, false)

/-- Granule of a key: 8 bytes on chip, 32 in HBM. -/
def eccGranule (k : Nat) : Nat := if k < 0x600000000 then k / 32 * 32 else k / 8 * 8

/-- Bank id of a key, for memories whose banks power down (R192). -/
def bankOf (k : Nat) : Option Nat :=
  match memPlace k with
  | .sram 2 _ _ w _ => some (w % 256)
  | .sram 1 c _ w _ => some (256 + c * 32 + w % 32)
  | _ => none

/-- BANK_OFF address: MEM, CORE and bank of a bank id (Table 7-7). -/
def bankAddr (b : Nat) : Nat :=
  if b < 256 then 2 * 2 ^ 36 + 0x7F * 2 ^ 29 + b else 2 ^ 36 + ((b - 256) / 32) * 2 ^ 29 + (b - 256) % 32

def bankSrc (b : Nat) : Nat := if b < 256 then srcLib else srcDesk ((b - 256) / 32)

/-- Banks a range of a memory touches that are powered down. -/
def State.offBanks (s : State) (k n : Nat) : List Nat :=
  if s.memc.bankOff.isEmpty then []
  else s.memc.bankOff.filter (fun b => (List.range (n / 32 + 2)).any (fun i => decide (i * 32 < n + 32) && bankOf (min (k + n - 1) (k + i * 32)) == some b))

/-- Read n bytes with the memory's checks: bytes, whether the read is good, and the state with what it reported. -/
def State.load (s : State) (code : Bool) (req k n : Nat) : List Byte × Bool × State :=
  let (s1, bad) := s.judge code req (s.eccIn (eccGranule k) (k + n - eccGranule k))
  have off := s.offBanks k n
  have s2 := off.foldl (fun s b => s.send (bankSrc b) .BANK_OFF (bankAddr b)) s1
  (s.rdN k n, !bad && off.isEmpty, s2)

/-- Does an armed SRAM injection name this word? ARG1: MEM [3:0], core [10:4], engine [13:11], two bits [14] (R363). -/
def injHits (arg : Nat × Nat) : MemPlace → Bool
  | .sram m c e w _ =>
    m == bits arg.2 3 0 && (decide (2 ≤ m) || c == bits arg.2 10 4) && (m != 0 || e == bits arg.2 13 11) && w == arg.1
  | _ => false

/-- Write bytes: the words are written whole with valid check bits, and an armed injection corrupts its word (R178, R363). -/
def State.store (s : State) (k : Nat) (bs : List Byte) : State :=
  have off := s.offBanks k bs.length
  if !off.isEmpty then off.foldl (fun s b => s.send (bankSrc b) .BANK_OFF (bankAddr b)) s
  else
    have s := (s.wrN k bs).clearEcc (eccGranule k) (k + bs.length - eccGranule k)
    have s := match s.inj.sram with
      | some a =>
        match (List.range (bs.length / 32 + 1)).find? (fun i => injHits a (memPlace (k + i * 32))) with
        | some i => ({ s with inj := { s.inj with sram := none } }).markEcc (eccGranule (k + i * 32)) (if bitAt a.2 14 then 2 else 1)
        | none => s
      | none => s
    match s.inj.hbm with
    | some a =>
      have t := (bits a.2 2 0 * 2 ^ 32 + a.1) / 32 * 32
      if k ≤ t + 31 ∧ t < k + bs.length then
        ({ s with inj := { s.inj with hbm := none } }).markEcc t (if bitAt a.2 8 then 2 else 1)
      else s
    | none => s

/-- HBM_ACCESS from the controller of the address, with the requester's class and the burst (R203, R215). -/
def State.hbmAccess (s : State) (req a : Nat) : State :=
  (s.bump F.MEM_UE_ACCESS 1).send (srcHbm (hbmPc a)) .HBM_ACCESS (req * 2 ^ 36 + a / 32 * 32 % 2 ^ 35)

/-- Does a region of the map hold [a, a + n)? Before a map is loaded every address of the stack is in reach. -/
def State.inRegion (s : State) (a n : Nat) : Bool :=
  have bs := s.recBytes recHbmMap 0
  bs.isEmpty || (List.range (recCount bs 16)).any (fun i =>
    have e := recElem bs 16 i
    have b := leAt e 4 4 * 0x400000
    leAt e 0 1 != 0 && decide (b ≤ a) && decide (a + n ≤ b + leAt e 8 4 * 0x400000))

/-- States in which control-pair writes are limited (R180, R203). -/
def State.limited (s : State) : Bool := decide (s.pstate = .run) || decide (s.pstate = .safe) || decide (s.pstate = .halt)

/-- Does a region without LOCK hold [a, a + n) (R202, R203)? -/
def State.unlocked (s : State) (a n : Nat) : Bool :=
  have bs := s.recBytes recHbmMap 0
  bs.isEmpty || (List.range (recCount bs 16)).any (fun i =>
    have e := recElem bs 16 i
    have b := leAt e 4 4 * 0x400000
    leAt e 0 1 != 0 && !bitAt (leAt e 1 1) 0 && decide (b ≤ a) && decide (a + n ≤ b + leAt e 8 4 * 0x400000))

/-- Account n bytes moved to or from HBM in this bell (R216). -/
def State.addUnits (s : State) (n : Nat) : State := { s with memc := { s.memc with moved := s.memc.moved + n } }

/-- A burst whose transfers failed parity n times (R209): one HBM_LINK for each retry, and an uncorrectable burst after the fifth
failure. -/
def State.linkFail (s : State) (req a n : Nat) : State :=
  have s := (List.range (min n 4)).foldl (fun (s : State) _ =>
    (s.bump (F.MEM_CE_RETRY (hbmPc a)) 1).send (srcHbm (hbmPc a)) .HBM_LINK (req * 2 ^ 36 + a / 32 * 32)) s
  if n < 5 then s else s.hbmUe (a / 32 * 32) req

/-- A read of HBM by a requester of the die: outside every region it answers an error (R203, R216). -/
def State.fetch (s : State) (req k n : Nat) : List Byte × Bool × State :=
  if s.limited && !s.inRegion k n then (s.rdN k n, false, s.hbmAccess req k)
  else (s.addUnits n).load false req k n

/-- A write of HBM by a requester of the die: in a LOCK region or outside every region it is refused (R203, R216). -/
def State.put (s : State) (req k : Nat) (bs : List Byte) : State :=
  if s.limited && !s.unlocked k bs.length then s.hbmAccess req k
  else (s.addUnits bs.length).store k bs

/-- Key of a 40-bit control-complex address in HBM, the library or a desk window (R177, R543), by the physical core behind a window. -/
def State.addrKey (s : State) (a : Nat) : Option Nat :=
  if a < 0x600000000 then some a
  else if 0x1000000000 ≤ a ∧ a < 0x1008000000 then some a
  else if 0x1100000000 ≤ a ∧ a < 0x1140000000 then
    have n := (a - 0x1100000000) / 0x1000000
    have o := (a - 0x1100000000) % 0x1000000
    if o < 0x200000 then some (keyDesk (s.phys n) o) else none
  else none

/-! ### Scrubs (R187, R188, R210, R367) -/

/-- Row of a word in its memory, and the rows that memory has (R187). -/
def scrubRowOf : MemPlace → Option (Nat × Nat)
  | .sram 1 _ _ w _ => some (w / 32, 2048)
  | .sram 2 _ _ w _ => some (w / 256, 8192)
  | .sram 0 _ _ w _ => some (w / 16, 99)
  | .sram 3 _ _ w _ => some (w / 8, 1024)
  | _ => none

/-- Correct one granule in the scrub, reporting a bit stuck over two passes (R188). -/
def State.scrubOne (s : State) (k w mem core eng word src : Nat) : State :=
  if 2 ≤ w then s.sramUe false mem core eng word src
  else
    have pass := match scrubRowOf (memPlace k) with
      | some (_, rows) => s.memc.scrubRow / rows
      | none => 0
    have s := (s.sramCe mem core eng word src).clearEcc k 8
    have stuck := s.memc.scrubFixed.any (fun p => p.1 == k && p.2 + 1 == pass)
    have s := { s with memc := { s.memc with scrubFixed := (k, pass) :: s.memc.scrubFixed.filter (fun p => p.1 != k) } }
    if stuck then
      have a := sramAddr mem core eng word
      (s.ocmLast .SRAM_STUCK a).send src .SRAM_STUCK a
    else s

/-- SRAM_SCRUB (R187, R188): the next row of every bank of every memory is read; `upset` lists granules whose bits have flipped since. -/
def execSramScrub (upset : List (Nat × Fin 3)) (s : State) : Host.Outcome State Fault Refusal :=
  if s.pstate = .off ∨ s.parked then .next s
  else
    have s := upset.foldl (fun s p => if p.2.val = 0 then s else s.markEcc (eccGranule p.1) p.2.val) s
    have r := s.memc.scrubRow
    have s := s.ecc.foldl (fun s p =>
       match memPlace p.1 with
       | .sram m c e w src =>
         match scrubRowOf (.sram m c e w src) with
         | some (row, rows) => if row = r % rows then s.scrubOne p.1 p.2 m c e w src else s
         | none => s
       | _ => s) s
    have s := { s with memc := { s.memc with scrubRow := r + 1 } }
    .next (if (r + 1) % 8192 = 0 then s.wf F.OCM_SCRUB_PASSES (s.rf F.OCM_SCRUB_PASSES + 1) else s)

/-- L2_SCRUB (R367): one 64-byte line is read with `wrong` bits wrong. -/
def execL2Scrub (line : BitVec 15) (wrong : Fin 3) (s : State) : Host.Outcome State Fault Refusal :=
  if s.pstate = .off ∨ s.parked then .next s
  else
    have k := keyL2 (line.toNat * 64)
    have w := (s.eccIn k 64).foldl (fun m p => max m p.2) wrong.val
    if w = 0 then .next s
    else if w = 1 then .next ((s.clearEcc k 64).send srcL2 .L2_CE line.toNat)
    else .next ((s.markEcc k 2).send srcL2 .L2_UE line.toNat)

/-- PATROL_SCRUB (R210): the next burst of every pseudo-channel is read; corrected bursts are written back. -/
def execPatrolScrub (upset : List (Nat × Fin 3)) (s : State) : Host.Outcome State Fault Refusal :=
  if s.pstate = .off ∨ s.parked ∨ !s.flag F.MEM_STATUS_TRAINED then .next s
  else
    have s := upset.foldl (fun s p => if p.2.val = 0 ∨ 0x600000000 ≤ p.1 then s else s.markEcc (eccGranule p.1) p.2.val) s
    have lo := s.memc.patrol * 32                -- local address inside each pseudo-channel
    have s := s.ecc.foldl (fun s p =>
       if p.1 < 0x600000000 ∧ (p.1 / 131072 / 32) * 131072 + p.1 % 131072 = lo then
         if 2 ≤ p.2 then s.hbmUe p.1 0
         else
           have s := (s.hbmCe p.1 0).clearEcc p.1 32
           have stuck := s.memc.patrolFixed.any (fun q => q.1 == p.1 && q.2 + 1 == s.memc.patrolPass)
           have s := { s with memc := { s.memc with patrolFixed := (p.1, s.memc.patrolPass) :: s.memc.patrolFixed.filter (fun q => q.1 != p.1) } }
           if stuck then ((s.elog .HBM_STUCK p.1 0).listRow p.1).send (srcHbm (hbmPc p.1)) .HBM_STUCK p.1 else s
       else s) s
    have n := s.memc.patrol + 1
    if n = 25165824 then
      .next (({ s with memc := { s.memc with patrol := 0, patrolPass := s.memc.patrolPass + 1 } }).wf F.MEM_PATROL_PASSES
        (s.rf F.MEM_PATROL_PASSES + 1))
    else .next { s with memc := { s.memc with patrol := n } }

/-! ### Temperature (R211, R212) -/

/-- HBM_OVERTEMP with a reading code (R211, R212). -/
def State.overtemp (s : State) (code : Nat) : State :=
  ((s.wf F.MEM_STATUS_TEMP_STATE 2).wf F.MEM_REFRESH_INTERVAL 1560).send (srcHbm 0) .HBM_OVERTEMP code

/-- NORMAL turns HOT (Table 8-4). -/
def State.hbmHot (s : State) : State := (s.wf F.MEM_STATUS_TEMP_STATE 1).wf F.MEM_REFRESH_INTERVAL 1560

/-- A valid reading in °C (Table 8-4). -/
def State.hbmTemp (s : State) (c : Int) : State :=
  have code := ofSigned 8 c
  have s := { s with memc := { s.memc with tempFails := 0 } }
  have s := s.wf F.MEM_TEMP_TEMP code
  have s := if toSigned 8 (s.rf F.MEM_TEMP_MAX) < c then s.wf F.MEM_TEMP_MAX code else s
  have st := s.rf F.MEM_STATUS_TEMP_STATE
  if st = 2 then s
  else
    have s := if 85 < c ∧ st = 0 then s.hbmHot.send (srcHbm 0) .HBM_HOT code
      else if c < 80 ∧ st = 1 then (s.wf F.MEM_STATUS_TEMP_STATE 0).wf F.MEM_REFRESH_INTERVAL 3120 else s
    if 95 < c then s.overtemp code else s

/-- One temperature read (R211, R212): a reading, or none when the sensor gave no answer or failed parity. -/
def State.tempRead (s : State) (reading : Option (BitVec 8)) : State :=
  have s := s.bump F.MEM_TEMP_POLLS 1
  match reading with
  | some r => s.hbmTemp r.toInt
  | none =>
    have n := s.memc.tempFails + 1
    have s := { s with memc := { s.memc with tempFails := n } }
    have s := if s.rf F.MEM_STATUS_TEMP_STATE = 0 then s.hbmHot else s
    have s := s.send (srcHbm 0) .HBM_TEMP_READ 0
    if n = 4 then s.overtemp 0x7F else s

/-- HBM_TEMP_POLL (R211, R212). -/
def execHbmTempPoll (reading : Option (BitVec 8)) (s : State) : Host.Outcome State Fault Refusal :=
  if !s.flag F.MEM_STATUS_TRAINED || s.flag F.MEM_STATUS_SELF_REFRESH || decide (s.pstate = .off) then .next s
  else .next (s.tempRead reading)

/-! ### Banks (R192) -/

def bankId (lib : Bool) (core bank : Nat) : Nat := if lib then bank else 256 + core * 32 + bank % 32

/-- BANK_POWER_DOWN (R192): a requested bank powers down once its outstanding-write counter is zero. -/
def execBankPowerDown (lib : Bool) (core : Fin 66) (bank : Fin 256) (s : State) : Host.Outcome State Fault Refusal :=
  have b := bankId lib core.val bank.val
  if s.memc.bankReq.any (fun r => r.1 == b) && smGet (fun _ => 0) s.memc.bankOut b == 0 then
    have s := { s with memc := { s.memc with bankReq := s.memc.bankReq.filter (fun r => r.1 != b), bankOff := b :: s.memc.bankOff } }
    .next (if b < 256 then s.wf ⟨A.OCM_LIB_ON (b / 32), b % 32, b % 32⟩ 0 else s)
  else .next s

/-- BANK_DRAIN_TIMEOUT (R192): 10 µs after the request the bank still has writes outstanding; it stays on. -/
def execBankDrainTimeout (lib : Bool) (core : Fin 66) (bank : Fin 256) (s : State) : Host.Outcome State Fault Refusal :=
  have b := bankId lib core.val bank.val
  match s.memc.bankReq.find? (fun r => r.1 == b) with
  | none => .next s
  | some r =>
    have s := s.advanceTo (r.2 + 4000)
    have s := { s with memc := { s.memc with bankReq := s.memc.bankReq.filter (fun x => x.1 != b) } }
    have s := ((s.wf F.OCM_DRAIN_BANK (if b < 256 then b else (b - 256) % 32)).wf F.OCM_DRAIN_MEM (if b < 256 then 2 else 1)).wf F.OCM_DRAIN_VALID 1
    .next (s.send (bankSrc b) .BANK_DRAIN (bankAddr b))

/-! ### Control-pair and debugger accesses (R177, R180, R203, R544) -/

/-- A library range lies inside one of the image's write windows (R180). -/
def State.inWindow (s : State) (a n : Nat) : Bool :=
  have w := (a - 0x1000000000) / 64
  have e := (a + n - 1 - 0x1000000000) / 64
  (List.range 8).any (fun i =>
    have b := s.rf (F.OCM_CPWIN_BASE_WORD i)
    have l := s.rf (F.OCM_CPWIN_LEN_WORDS i)
    decide (b ≤ w) && decide (e < b + l))

def State.ocmAccess (s : State) (r : Requester) (mem cause a : Nat) : State :=
  have src := if r = .cp1 then 0x8F1 else if r = .cp1b then 0x8F3 else 0x8F0
  s.send src .OCM_ACCESS (mem * 2 ^ 36 + cause * 2 ^ 33 + a % 2 ^ 33)

/-- The bus answers an error and no data. -/
def State.busError (s : State) (r : Requester) : State := s.out (.bus r true [])

/-- One control-pair access: kind 0 a read of `size` bytes, 1 an uncached store, 2 a 64-byte write-back of the L2. -/
def State.cpAccess (s : State) (r : Requester) (kind a size : Nat) (data : List Byte) : State :=
  have n := if kind = 0 then size else data.length
  if s.pstate = .off ∨ s.parked then s.busError r
  else if n = 0 then s.out (.bus r false [])
  else if a < 0x600000000 then
    if kind ≠ 0 && s.limited then (s.hbmAccess 8 a).busError r
    else if s.limited && !s.inRegion a n then (s.hbmAccess 8 a).busError r
    else if 0x600000000 < a + n then (s.hbmAccess 8 a).busError r
    else if kind = 0 then
      let (bs, ok, s) := s.load false 8 a n
      if ok then s.out (.bus r false bs) else s.busError r
    else (s.store a data).out (.bus r false [])
  else if 0x1000000000 ≤ a ∧ a + n ≤ 0x1008000000 then
    if kind = 0 then
      let (bs, ok, s) := s.load false 8 a n
      if ok then s.out (.bus r false bs) else s.busError r
    else if s.limited && !s.inWindow a n then (s.ocmAccess r 2 2 a).busError r
    else if (kind = 2 ∧ n = 64 ∧ a % 64 = 0) ∨ (kind = 1 ∧ n = 8 ∧ a % 8 = 0) then (s.store a data).out (.bus r false [])
    else (s.ocmAccess r 2 3 a).busError r
  else if 0x1100000000 ≤ a ∧ a < 0x1140000000 then
    have w := (a - 0x1100000000) / 0x1000000
    have o := (a - 0x1100000000) % 0x1000000
    if 0x200000 < o + n then (s.ocmAccess r 1 0 a).busError r
    else if s.memc.remapping.contains w && s.now == s.bell.start then (s.ocmAccess r 1 1 a).busError r
    else if kind = 0 then
      let (bs, ok, s) := s.load false 8 (keyDesk (s.phys w) o) n
      if ok then s.out (.bus r false bs) else s.busError r
    else if s.limited then (s.ocmAccess r 1 2 a).busError r
    else if (kind = 2 ∧ n = 64 ∧ a % 64 = 0) ∨ (kind = 1 ∧ n = 8 ∧ a % 8 = 0) then (s.store (keyDesk (s.phys w) o) data).out (.bus r false [])
    else (s.ocmAccess r 1 3 a).busError r
  else s.busError r

end Sys2Proof.Machine
end

