-- ==== Sys2Proof/Machine/Access.lean ====
section
/-! DEFINITION. Who a register answers (12 of R12, R28, R509, R543 to R546, R553): shared checks of a command that a register
write gives. -/

namespace Sys2Proof.Machine
open Sys2Proof
set_option Elab.async false

/-- Chip block number of a register address (Table 20-3). -/
def regBlock (a : Nat) : Nat := (a - 0x2000000000) / 0x10000

/-- Does the register side answer at this address (R549, R553)? In PARK only TSU, I3C, SEC and CLK/PWR. -/
def State.regAnswers (s : State) (a : Nat) : Bool :=
  match s.pstate with
  | .off => false
  | .park => !s.parked || (decide (a < 0x2000140000) && (regBlock a == 1 || regBlock a == 5 || regBlock a == 7 || regBlock a == 8))
  | _ => true

/-- A command given by a register write: an error response where nothing answers, REG_DENIED for a window write outside the I3C
block (R509), and the action otherwise. -/
def State.cmdWrite (s : State) (req : Requester) (a : Nat) (f : State → State) : State :=
  if !s.regAnswers a then s.busError req
  else if req = .i3c ∧ regBlock a ≠ 8 then s.deny req a
  else f s

/-- OCM_COUNTER_CLEAR (R184). -/
def execOcmCounterClear (req : Requester) (value : BitVec 32) (s : State) : Host.Outcome State Fault Refusal :=
  .next (s.cmdWrite req A.OCM_CNT_CTRL fun s =>
    if bitAt value.toNat 0 then
      have s := (List.range 5).foldl (fun s m => s.wf (F.OCM_LIB_STALL_CYCLES m) 0) s
      (List.range 66).foldl (fun s p => s.wf (F.OCM_DESK_STALL_CYCLES p) 0) s
    else s)

end Sys2Proof.Machine
end

