-- ==== Sys2Proof/Machine/Collector.lean ====
section
/-! DEFINITION. Fault collection (13): recording, gradebook, reactions, ALIVE, firmware reports, injection, lockstep and debug. -/

namespace Sys2Proof.Machine
open Sys2Proof
set_option Elab.async false

/-! ### Reactions (R321, R322) -/

/-- Mark streams void for this bell. -/
def State.voidStreams (s : State) (l : List Nat) : State :=
  { s with tt := { s.tt with voidStreams := s.tt.voidStreams ++ l.filter (fun x => !s.tt.voidStreams.contains x) } }

/-- Note a failed check of a result (R314); reason as in Table 18-8. -/
def State.markResult (s : State) (stream reason : Nat) (contested : Bool) : State :=
  { s with tst := { s.tst with marks := s.tst.marks ++ [(stream, reason, contested)] } }

/-- Streams a source range has written in this bell. -/
def State.producedBy (s : State) (lo hi : Nat) : List Nat :=
  (s.tt.produced.filter (fun p => decide (lo ≤ p.2) && decide (p.2 ≤ hi))).map (·.1)

/-- Void what physical core p produces or transfers in this bell. -/
def State.voidCore (s : State) (p : Nat) : State :=
  have s := s.voidStreams (s.producedBy (p * 32) (p * 32 + 31))
  { s with tt := { s.tt with voidCores := p :: s.tt.voidCores } }

/-- Void what a chip-level unit produces or transfers in this bell. -/
def State.voidUnit (s : State) (src : Nat) : State :=
  have s := s.voidStreams (s.producedBy src src)
  { s with tt := { s.tt with voidUnits := src :: s.tt.voidUnits } }

/-- Kinds whose home rule names what becomes void (R321, first case). -/
def homeRuleKind (k : Nat) : Bool :=
  k == Kind.SRAM_UE.code || k == Kind.HBM_UE.code || k == Kind.BANK_OFF.code || k == Kind.L2_UE.code ||
  k == Kind.DIGEST_MISMATCH.code || k == Kind.DIGEST_MISSING.code || k == Kind.CODEC_FORMAT.code ||
  (decide (0x60 ≤ k) && decide (k ≤ 0x6F)) || (decide (0x90 ≤ k) && decide (k ≤ 0xAF))

/-- Kinds whose address names a stream in [39:28] (Tables 2-10, 3-7, 5-8, 12-8, 14-7). -/
def streamKind (k : Nat) : Bool :=
  (decide (0x10 ≤ k) && decide (k ≤ 0x16)) || k == Kind.AGE_LIMIT.code || k == Kind.PROCTOR_MISMATCH.code ||
  [Kind.NUM_NAN, .DRAIN_STALL, .SCATTER_RANGE, .DET_CAND_OVF, .DET_NONFINITE, .RUBRIC_FAIL].any (fun x => x.code == k)

/-- Void the affected results of a fault (R321). -/
def State.voidAffected (s : State) (src kind addr : Nat) : State :=
  if homeRuleKind kind then s
  else if streamKind kind then s.voidStreams [addr / 2 ^ 28]
  else if src ≤ 0x83F then s.voidCore (src / 32)
  else if (0x840 ≤ src ∧ src ≤ 0x85F) ∨ src = srcIngest ∨ (0x8A8 ≤ src ∧ src ≤ 0x8B3) ∨ src = srcAttend ∨
      src = srcRubric ∨ src = srcEmit then s.voidUnit src
  else if kind = Kind.BARRIER_MISS.code then s.voidCore (s.phys (bits addr 31 26))
  else if kind = Kind.NO_SPARE.code then s.voidCore (bits addr 6 0)
  else { s with tt := { s.tt with voidAll := true } }

/-- Lowest-index healthy spare that no remap load has taken (R55). -/
def State.pickSpare (s : State) : Option Nat :=
  (List.range 66).find? (fun q => s.flag (F.CORE_STATE_HEALTHY q) && s.flag (F.CORE_STATE_SPARE q) &&
    !(s.tt.remaps.any (fun r => r.dst == q)))

/-- Start the remap load of a logical core from physical core p (R55), or send NO_SPARE. -/
def State.startRemap (s : State) (n p : Nat) : State :=
  match s.pickSpare with
  | none => s.send srcRemap .NO_SPARE p
  | some q =>
    have s := s.wf (F.CORE_STATE_LOADING q) 1
    { s with tt := { s.tt with remaps := s.tt.remaps.filter (fun r => r.logical != n) ++
        [{ logical := n, src := s.phys n, dst := q, done := false, due := s.now + 16000 }] } }

/-- Logical core mapped to a physical core, if any. -/
def State.logicalOf (s : State) (p : Nat) : Option Nat :=
  if s.flag (F.TT_STATUS_MAPPED p) then some (s.rf (F.TT_STATUS_LOGICAL p)) else none

/-- Fence the physical core that contains a source and start its remap load (R55, R322, R550). -/
def State.fence (s : State) (src kind : Nat) : State :=
  have p := src / 32
  if s.flag (F.CORE_STATE_FENCED p) then s
  else
    have s := (((s.wf (F.CORE_STATE_FENCED p) 1).wf (F.CORE_STATE_HEALTHY p) 0).wf (F.CORE_STATE_FENCE_KIND p) kind).wf
      (F.CORE_STATE_FENCE_SRC p) src
    have s := (s.wf (F.TT_STATUS_FENCED p) 1).wf (F.CORE_STATE_SPARE p) 0
    have s := s.wf (F.CORE_STATE_LOADING p) 0
    match s.tt.remaps.find? (fun r => r.dst == p) with
    | some r => s.startRemap r.logical p
    | none =>
      match s.logicalOf p with
      | some n => s.startRemap n p
      | none => s

/-- The reactions of Table 12-6 at an effective severity. -/
def State.react (s : State) (m : Msg) (e : Nat) : State :=
  have dbg := e == 2
  have s := if dbg then
      -- R184: the stall counters run for 64 bell edges after a DEGRADE
      (s.wf F.OCM_STATUS_DEG_BELLS 64).wf F.OCM_STATUS_CNT_RUN 1
    else s
  have s := if e == 2 && decide (m.src ≤ 0x83F) then s.fence m.src m.kind
    else if e == 2 then s.voidAffected m.src m.kind m.addr else s
  have s := if decide (3 ≤ e) then s.voidAffected m.src m.kind m.addr else s
  have s := if decide (4 ≤ e) then { s with bell := { s.bell with bad := true } } else s
  if e == 4 then s.enterSafe m.src m.kind else if decide (5 ≤ e) then s.enterHalt m.src m.kind else s

/-! ### The gradebook (R346 to R351) -/

/-- Add an entry to the report card events, at most 512 kept (R494). -/
def State.addCard (s : State) (typ sub id : Nat) (data : List Byte) : State :=
  { s with card := { s.card with entries := s.card.entries ++
      [leBytes 1 typ ++ leBytes 1 sub ++ leBytes 2 id ++ leBytes 4 s.curBell ++ (data ++ leBytes 8 0).take 8] } }

/-- PERSIST_MIN of the fault record; 2, what Relez writes, before the record is loaded (log 8). -/
def State.persistMin (s : State) : Nat := if s.coll.loaded then s.recLe recFault 2306 1 else 2

/-- The 16 message bytes of R337. -/
def Msg.bytes (m : Msg) (t : Tsu) : List Byte :=
  leBytes 4 t.ns ++ leBytes 4 t.sec ++ leBytes 5 m.addr ++ leBytes 3 (m.kind * 2 ^ 4 + m.src * 2 ^ 12)

/-- The 256-byte gradebook entry (Table 13-5). -/
def State.entryBytes (s : State) (m : Msg) (sev : Nat) (floored first persist : Bool) (cnt : Nat) : List Byte :=
  have flags := (if m.merges = 0 then 0 else 1) + (if m.injected then 2 else 0) + (if floored then 4 else 0) +
    (if first then 8 else 0) + (if persist then 16 else 0)
  have body := m.bytes s.tsu ++ leBytes 4 (s.rf F.FLT_SEQ_SEQ) ++ leBytes 4 (s.rf F.FLT_BOOTS_BOOTS) ++ leBytes 8 s.curBell ++
    leBytes 1 sev ++ leBytes 1 s.pstate.code ++ leBytes 1 flags ++ leBytes 1 0 ++ leBytes 2 (s.tsu.sec / 2 ^ 32) ++
    leBytes 2 (satU 16 m.merges) ++ leBytes 4 cnt ++ leBytes 4 0 ++ leBytes 5 m.ev ++ leBytes 3 0 ++ leBytes 4 m.evBytes ++
    leBytes 4 0 ++ (m.detail ++ List.replicate 188 (0 : Byte)).take 188
  body ++ leBytes 4 (crc32c body)

/-- Write an entry to the HBM ring (R348) and the locket ring (R349). -/
def State.writeRings (s : State) (e : Entry) : State :=
  have s := if s.flag F.MEM_STATUS_TRAINED then s.wrN (keyHbm (s.gradebookBase + 256 * (e.seq % 196608))) e.bytes else s
  if s.flag F.OCM_STATUS_LOCKET_BAD then s else s.wrN (keyLocket (0x14000 + 256 * (e.seq % 64))) e.bytes

/-- The queued entry to discard when a full queue takes a new one: the lowest SEV, newest on a tie (R350). -/
def dropVictim (q : List Entry) : List Entry :=
  have lo := q.foldl (fun m e => min m e.sev) 7
  let rec go : List Entry → List Entry
    | [] => []
    | e :: r => if e.sev == lo && !(r.any (fun x => x.sev == lo)) then r else e :: go r
  go q

/-- Hand an entry to the NVM writer when it qualifies (R350). -/
def State.persist (s : State) (e : Entry) : State :=
  have q := s.coll.nvmq ++ [e]
  have s := if q.length ≤ 64 then { s with coll := { s.coll with nvmq := q } }
    else ({ s with coll := { s.coll with nvmq := dropVictim q, nvmLost := s.coll.nvmLost + 1 } }).bump F.FLT_PERSIST_LOST 1
  -- the writer starts at once when idle
  have s := match s.coll.nvmBusy, s.coll.nvmq with
    | none, x :: r => { s with coll := { s.coll with nvmBusy := some x, nvmq := r } }
    | _, _ => s
  s.wf F.FLT_PERSIST_QUEUE s.coll.nvmq.length

/-- Does an entry carry PERSIST: bit 4 of byte 34. -/
def Entry.persists (e : Entry) : Bool := bitAt (leAt e.bytes 34 1) 4

/-- Record one message (R346): severity, gradebook, counters, reactions. -/
def State.record (s : State) (m : Msg) : State :=
  let (e, floored) := s.effective m.src m.kind
  have first := !s.coll.kindsSeen.contains m.kind
  have persist := decide (s.persistMin ≤ e) || first
  have cnt := satU 32 ((smFind s.coll.counts m.src).getD 0 + 1)
  have seq := s.rf F.FLT_SEQ_SEQ
  have entry : Entry := { seq := seq, sev := e, bytes := s.entryBytes m e floored first persist cnt }
  have s := if s.coll.ringsOpen then (have s := s.writeRings entry; if persist then s.persist entry else s)
    else { s with coll := { s.coll with early := s.coll.early ++ [entry] } }
  have s := { s with coll := { s.coll with kindsSeen := if first then m.kind :: s.coll.kindsSeen else s.coll.kindsSeen,
                                           counts := smInsert s.coll.counts m.src cnt } }
  have s := s.wf F.FLT_SEQ_SEQ (seq + 1)
  have s := s.wf (F.FLT_SRC_CNT_COUNT m.src) (satU 16 cnt)
  have mb := m.bytes s.tsu
  have s := (List.range 4).foldl (fun s i => s.wf (F.FLT_LAST_WORD i) (leAt mb (4 * i) 4)) s
  -- report card (R321, Table 18-8)
  have s := { s with card := { s.card with sev := s.card.sev.modify e (· + 1) } }
  have s := if 1 ≤ e then s.addCard 1 0 m.src (leBytes 1 m.kind ++ leBytes 1 e ++ leBytes 2 0 ++ leBytes 4 seq) else s
  have s := if m.kind = Kind.NUM_NAN.code then { s with tst := { s.tst with nans := m.addr / 2 ^ 28 :: s.tst.nans } } else s
  -- AGG and the in-band interrupt (R352)
  have up := decide (s.agg < e)
  have s := if s.rf F.FLT_STATUS_AGG < e then s.wf F.FLT_STATUS_AGG e else s
  have s := if up then
      have s := { s with coll := { s.coll with aggSrc := m.src, aggKind := m.kind } }
      if 2 ≤ e then s.raiseIbi else s
    else s
  s.react m e

/-- The next pending message in round-robin order (R339). -/
def State.nextPending (s : State) : Option Msg :=
  match s.coll.pend.find? (fun p => decide (s.coll.rr < p.1)) with
  | some p => some p.2
  | none => (s.coll.pend.head?).map (·.2)

/-- The collector records the next pending message (R339, R346, R351, R361, R557). With none pending, in PARK or OFF, or after its
copies differed, it records nothing; a full early buffer loses the message. -/
def State.faultRecord (s : State) : State :=
  if s.parked ∨ s.pstate = .off ∨ s.flag F.LKS_STATUS_COLL_ERR then s
  else match s.nextPending with
    | none => s
    | some m =>
      have s := { s with coll := { s.coll with pend := smErase s.coll.pend m.src, rr := m.src } }
      if !s.coll.ringsOpen && decide (32 ≤ s.coll.early.length) then
        ({ s with coll := { s.coll with earlyLost := true } }).bump F.FLT_PERSIST_LOST 1
      else s.record m

/-- FAULT_RECORD (R339). -/
def execFaultRecord (s : State) : Host.Outcome State Fault Refusal := .next s.faultRecord

/-- EARLY_BUFFER_RELEASE (R351): once the locket wipe and the zero fill have ended (steps 3 and 5 of a start, or a wake), the held
entries go to the rings in SEQ order and to the NVM writer. After a training failure the locket ring and the NVM writer take them. -/
def execEarlyBufferRelease (s : State) : Host.Outcome State Fault Refusal :=
  have filled := decide (5 ≤ s.rf F.BOOT_STATUS_STEP) || s.pw.ready || decide (s.rf F.BOOT_STATUS_CAUSE = 3)
  if s.coll.ringsOpen || !filled || s.parked then .next s
  else
    have es := s.coll.early
    have lost := s.coll.earlyLost
    have s := { s with coll := { s.coll with early := [], ringsOpen := true, earlyLost := false } }
    have s := es.foldl (fun (s : State) e => have s := s.writeRings e; if e.persists then s.persist e else s) s
    .next (if lost then s.send srcColl .GB_PERSIST_LOST (satU 16 (s.rf F.FLT_PERSIST_LOST)) else s)

/-- Header copy of the NVM gradebook: MAGIC, BOOTS, HEAD, CRC (Table 16-11). -/
def gbHeader (boots head : Nat) : List Byte :=
  have b : List Byte := [0x41, 0x42, 0x4E, 0x4F, 0x53, 0x47, 0x42, 0x4B] ++ leBytes 4 boots ++ leBytes 4 head
  b ++ leBytes 4 (crc32c b)

/-- A header copy is valid: magic and CRC. -/
def gbValid (b : List Byte) : Bool :=
  b.take 8 == [0x41, 0x42, 0x4E, 0x4F, 0x53, 0x47, 0x42, 0x4B] && leAt b 16 4 == crc32c (b.take 16)

/-- Which header copy the writer updates: the one with the lower BOOTS, an invalid one first (R452). -/
def State.gbCopy (s : State) : Nat :=
  have a := s.rdN (keyBoot 0 0x3000000) 20
  have b := s.rdN (keyBoot 0 0x3001000) 20
  if !gbValid a then 0x3000000 else if !gbValid b then 0x3001000
  else if leAt b 8 4 < leAt a 8 4 then 0x3001000 else 0x3000000

/-- The entry the writer takes next: the oldest, or in the undervoltage sequence the oldest of the highest SEV (R350). -/
def State.nvmNext (s : State) : Option Entry × List Entry :=
  match s.coll.nvmq with
  | [] => (none, [])
  | x :: r =>
    if s.pw.under.isNone then (some x, r)
    else
      have y := r.foldl (fun (m : Entry) e => if m.sev < e.sev then e else m) x
      (some y, s.coll.nvmq.filter (fun e => e.seq != y.seq))

/-- An entry is in the next place of the NVM ring, with the header; a TAMPER entry counts for the attestation report (R430, R452). -/
def State.nvmPut (s : State) (e : Entry) : State :=
  have i := s.coll.nvmIndex
  have s := s.wrN (keyBoot 0 (0x3002000 + 256 * i)) e.bytes
  have s := s.wrN (keyBoot 0 s.gbCopy) (gbHeader (s.rf F.FLT_BOOTS_BOOTS) ((i + 1) % 16384))
  if leAt e.bytes 13 3 / 16 % 256 = Kind.TAMPER.code then { s with sec := { s.sec with tampers := s.sec.tampers + 1 } } else s

/-- NVM_ENTRY_WRITTEN (R350, R452): one entry is in the NVM ring; the writer takes the oldest of the queue. -/
def execNvmEntryWritten (s : State) : Host.Outcome State Fault Refusal :=
  match s.coll.nvmBusy with
  | none => .next s
  | some e =>
    have i := s.coll.nvmIndex
    have s := (s.nvmPut e).bump F.FLT_PERSIST_WRITTEN 1
    let (busy, q) := s.nvmNext
    have s := { s with coll := { s.coll with nvmIndex := (i + 1) % 16384, nvmBusy := busy, nvmq := q } }
    .next (s.wf F.FLT_PERSIST_QUEUE q.length)

/-! ### ALIVE (R355 to R361) -/

/-- Half-period in ns for an ALIVE_FREQ (R356). -/
def aliveHalf (f : Nat) : Nat := if f = 0 then 500000 else if f = 1 then 250000 else 100000

def State.aliveHalf (s : State) : Nat := Sys2Proof.Machine.aliveHalf (s.rf F.FLT_ALIVE_FREQ)

/-- Drive the outputs for the half-period the TSU is in: A even, B odd (R356), with an armed inversion for this half-period (R363). -/
def State.drive (s : State) : State :=
  have even := decide ((s.tsu.ns / s.aliveHalf) % 2 = 0)
  have a := if s.alive.inject = some 0 then !even else even
  have b := if s.alive.inject = some 1 then even else !even
  ({ s with alive := { s.alive with driveA := a, driveB := b, inject := none } }).out (.aliveEdge a b)

/-- Time of the next half-period boundary (R356). -/
def State.nextHalf (s : State) : Nat := s.tsu.sec * 1000000000 + (s.tsu.ns / s.aliveHalf + 1) * s.aliveHalf

/-- ALIVE_START (R357): the first half-period edge after the first gate that passed outside SAFE. -/
def execAliveStart (s : State) : Host.Outcome State Fault Refusal :=
  if s.alive.starting then
    have s := s.advanceToNs s.nextHalf
    have s := { s with alive := { s.alive with starting := false, everStarted := true, toggling := true } }
    .next (s.drive.wf F.FLT_STATUS_ALIVE_ON 1)
  else .next s

/-- ALIVE_TOGGLE (R356): at the next half-period boundary of TSU time the two outputs swap. -/
def execAliveToggle (s : State) : Host.Outcome State Fault Refusal :=
  if s.alive.toggling then .next (s.advanceToNs s.nextHalf).drive else .next s

/-- ALIVE_READBACK_CHECK (R358): readbacks a and b against the drives. -/
def execAliveReadbackCheck (a b : Bool) (s : State) : Host.Outcome State Fault Refusal :=
  have s := (s.wf F.FLT_ALIVE_A_RB (if a then 1 else 0)).wf F.FLT_ALIVE_B_RB (if b then 1 else 0)
  have da := a != s.alive.driveA
  have db := b != s.alive.driveB
  if da || db then .next (s.send srcColl .ALIVE_FB ((if db then 2 else 0) + (if da then 1 else 0))) else .next s

/-- COLLECTOR_MISMATCH (R361): both outputs off, HALT, COLL_ERR; no entry is written, so FLT_SAFE_CAUSE takes none. -/
def execCollectorMismatch (s : State) : Host.Outcome State Fault Refusal :=
  .next (((s.wf F.LKS_STATUS_COLL_ERR 1).enterHalt srcColl 0).setReg A.FLT_SAFE_CAUSE (s.reg A.FLT_SAFE_CAUSE))

/-- SAFE_REQ_ASSERT (R324, R327, R360): the qualified input is recorded as SAFE_REQUEST source 0; ignored when unused and in MAINT. -/
def execSafeReqAssert (s : State) : Host.Outcome State Fault Refusal :=
  if !s.flag F.FLT_STATUS_SAFE_REQ_USED then .next s
  else if s.pstate = .off then .next s
  else
    have s := s.wf F.FLT_STATUS_SAFE_REQ 1
    if s.pstate = .maint then .next s
    else .next (s.endRecovery.send srcSafety .SAFE_REQUEST 0)

/-- SAFE_REQ_RELEASE (R530): the input qualifies as released. -/
def execSafeReqRelease (s : State) : Host.Outcome State Fault Refusal :=
  .next (s.wf F.FLT_STATUS_SAFE_REQ 0)

/-! ### Control-pair register commands (R345, R353, R354, R362, R368) -/

/-- A write counts only from CP0 in machine mode (R368). -/
def cp0m (r : Requester) (m : Bool) : Bool := decide (r = .cp0) && m

/-- A write that takes effect only from CP0 in machine mode (R368). -/
def State.cp0Write (s : State) (req : Requester) (mmode : Bool) (a : Nat) (f : State → State) : State :=
  s.cmdWrite req a fun s => if cp0m req mmode then f s else s.deny req a

/-- FLT_HEARTBEAT (R354). -/
def execFltHeartbeat (req : Requester) (mmode : Bool) (value : BitVec 32) (s : State) : Host.Outcome State Fault Refusal :=
  .next (s.cp0Write req mmode A.FLT_HEARTBEAT fun s =>
    ({ s with bell := { s.bell with hb := s.bell.hb ++ [value.toNat] } }).wf F.FLT_HB_SEEN_VALUE value.toNat)

/-- Acknowledge AGG (R353): nothing is held since, and a pending interrupt is withdrawn. -/
def State.ackAgg (s : State) : State :=
  (({ s with coll := { s.coll with ibi := none } }).wf F.FLT_STATUS_AGG 0).wf F.FLT_STATUS_IBI_PEND 0

/-- FLT_ACK (R353). -/
def execFltAck (req : Requester) (mmode : Bool) (value : BitVec 32) (s : State) : Host.Outcome State Fault Refusal :=
  .next (s.cp0Write req mmode A.FLT_ACK fun s => if bitAt value.toNat 0 then s.ackAgg else s)

/-- Source base of a firmware report by its writer (R362). -/
def swBase : Requester → Option Nat
  | .cp0 => some 0xA00
  | .cp1 => some 0xA40
  | .cp1b => some 0xA80
  | _ => none

/-- The firmware kind of a code 0xF8 to 0xFF. -/
def fwKind (c : Nat) : Kind :=
  if c = 0xF8 then .FW_0 else if c = 0xF9 then .FW_1 else if c = 0xFA then .FW_2 else if c = 0xFB then .FW_3
  else if c = 0xFC then .FW_4 else if c = 0xFD then .FW_5 else if c = 0xFE then .FW_6 else .FW_7

/-- FLT_SW (R362). -/
def execFltSw (req : Requester) (mmode : Bool) (value : BitVec 32) (s : State) : Host.Outcome State Fault Refusal :=
  have v := value.toNat
  .next (s.cmdWrite req A.FLT_SW fun s =>
    match swBase req, mmode with
    | some b, true =>
      if 0xF8 ≤ bits v 15 8 then s.send (b + bits v 21 16) (fwKind (bits v 15 8)) (bits v 7 0 * 2 ^ 32 + s.rf F.FLT_SW_ADDR_ADDR)
      else s.deny req A.FLT_SW
    | _, _ => s.deny req A.FLT_SW)

/-- A KSEV field takes a new value unless it is 6 or 7 (R345). -/
def ksevField (old new : Nat) : Nat := if new = 6 ∨ new = 7 then old else new

/-- The severity tables take a word: FLT_KSEV or FLT_SEV (R345). -/
def State.sevWrite (s : State) (req : Requester) (a v : Nat) : State :=
  if A.FLT_KSEV 0 ≤ a ∧ a ≤ A.FLT_KSEV 255 ∧ a % 4 = 0 then
    have k := (a - A.FLT_KSEV 0) / 4
    have s := s.wf (F.FLT_KSEV_CORE k) (ksevField (s.rf (F.FLT_KSEV_CORE k)) (bits v 2 0))
    s.wf (F.FLT_KSEV_CHIP k) (ksevField (s.rf (F.FLT_KSEV_CHIP k)) (bits v 6 4))
  else if A.FLT_SEV 0 ≤ a ∧ a ≤ A.FLT_SEV 511 ∧ a % 4 = 0 then
    (List.range 8).foldl (fun s i =>
      have x := bits v (4 * i + 2) (4 * i)
      if x = 6 then s else s.wf ⟨a, 4 * i + 2, 4 * i⟩ x) s
  else s.deny req a

/-- FLT_SEVERITY_WRITE (R345): FLT_KSEV or FLT_SEV, in BOOT or MAINT, from CP0 in machine mode. -/
def execFltSeverityWrite (req : Requester) (mmode : Bool) (addr : BitVec 40) (value : BitVec 32) (s : State) :
    Host.Outcome State Fault Refusal :=
  .next (s.cmdWrite req addr.toNat fun s =>
    if cp0m req mmode && (decide (s.pstate = .boot) || decide (s.pstate = .maint)) then s.sevWrite req addr.toNat value.toNat
    else s.deny req addr.toNat)

/-! ### Injection (R363) -/

/-- Injection works in FACTORY_TEST only (life-cycle code 1) and from CP0 in machine mode. -/
def State.injectable (s : State) (r : Requester) (m : Bool) : Bool := cp0m r m && decide (s.rf F.SEC_STATUS_LC = 1)

/-- A write of FLT_INJ_CTRL with a target. -/
def State.inject (s : State) (req : Requester) (mmode : Bool) (f : State → State) : State :=
  s.cmdWrite req A.FLT_INJ_CTRL fun s => if s.injectable req mmode then f s else s.deny req A.FLT_INJ_CTRL

/-- INJECT_MESSAGE (target 0): a message as if its source had sent it. -/
def execInjectMessage (req : Requester) (mmode : Bool) (s : State) : Host.Outcome State Fault Refusal :=
  .next (s.inject req mmode fun s =>
    have a0 := s.rf F.FLT_INJ_ARG0_ARG
    have a1 := s.rf F.FLT_INJ_ARG1_ARG
    s.sendMsg { src := bits a1 31 20, kind := bits a1 19 12, addr := bits a1 7 0 * 2 ^ 32 + a0, merges := 0, injected := true,
                       ev := 0, evBytes := 0, detail := [] })

/-- INJECT_SRAM (target 1): the next write of an SRAM word gets one or two wrong bits. -/
def execInjectSram (req : Requester) (mmode : Bool) (s : State) : Host.Outcome State Fault Refusal :=
  .next (s.inject req mmode fun s =>
    { s with inj := { s.inj with sram := some (s.rf F.FLT_INJ_ARG0_ARG, s.rf F.FLT_INJ_ARG1_ARG) } })

/-- INJECT_HBM (target 2): the next write of an HBM burst gets one or two wrong symbols. -/
def execInjectHbm (req : Requester) (mmode : Bool) (s : State) : Host.Outcome State Fault Refusal :=
  .next (s.inject req mmode fun s =>
    { s with inj := { s.inj with hbm := some (s.rf F.FLT_INJ_ARG0_ARG, s.rf F.FLT_INJ_ARG1_ARG) } })

/-- Stop a pair on a difference and send LOCKSTEP (R366). -/
def State.lockstep (s : State) (pair group cycle : Nat) (injected : Bool) : State :=
  have s := s.wf (if pair = 0 then F.LKS_STATUS_CP0_STOP else F.LKS_STATUS_CP1_STOP) 1
  have s := ((s.wf (F.LKS_MM_CYC_CYCLE pair) cycle).wf (F.LKS_MM_INFO_GROUP pair) group).wf (F.LKS_MM_INFO_VALID pair) 1
  have s := { s with harts := s.harts.modify pair (fun h => { h with stopped := true }) }
  s.sendMsg { src := srcPair pair, kind := Kind.LOCKSTEP.code, addr := pair * 2 ^ 36 + group * 2 ^ 32 + cycle % 2 ^ 32, merges := 0,
              injected := injected, ev := 0, evBytes := 0, detail := [] }

def State.pairStopped (s : State) (pair : Nat) : Bool :=
  s.flag (if pair = 0 then F.LKS_STATUS_CP0_STOP else F.LKS_STATUS_CP1_STOP)

/-- CTRL cycle count of a lead, at 1.2 GHz three per TIME edge (R364; log 9). -/
def State.ctrlCycle (s : State) : Nat := 3 * s.now % 2 ^ 32

/-- INJECT_LOCKSTEP (target 3): one lead output bit inverted, which the pair's comparator finds (R366). -/
def execInjectLockstep (req : Requester) (mmode : Bool) (s : State) : Host.Outcome State Fault Refusal :=
  .next (s.inject req mmode fun s =>
    have a := s.rf F.FLT_INJ_ARG1_ARG
    have pair := bits a 0 0
    if s.pairStopped pair || (pair == 1 && s.flag F.LKS_STATUS_SPLIT) then s
    else s.lockstep pair (bits a 6 4) s.ctrlCycle true)

/-- A shadow sequencer differs from its lead (R58, R60). -/
def State.seqMismatch (s : State) (p : Nat) (injected : Bool) : State :=
  have s := s.wf (F.TT_SEQ_CMP_MISMATCH p) 1
  have s := ((s.wf (F.TT_LAST_FLT_KIND p) Kind.SEQ_MISMATCH.code).wf (F.TT_LAST_FLT_TASK p) 0).wf (F.TT_LAST_CYC_CYCLE p) s.cycle
  s.sendMsg { src := srcSeqCmp p, kind := Kind.SEQ_MISMATCH.code, addr := s.cycle % 2 ^ 28, merges := 0, injected := injected,
              ev := 0, evBytes := 0, detail := [] }

/-- INJECT_SEQUENCER (target 4): one sequencer issue bit inverted. -/
def execInjectSequencer (req : Requester) (mmode : Bool) (s : State) : Host.Outcome State Fault Refusal :=
  .next (s.inject req mmode fun s =>
    have p := bits (s.rf F.FLT_INJ_ARG1_ARG) 6 0
    if p < 66 then s.seqMismatch p true else s)

/-- INJECT_DIGEST (target 5): bit 0 of a logical core's next digest inverted. -/
def execInjectDigest (req : Requester) (mmode : Bool) (s : State) : Host.Outcome State Fault Refusal :=
  .next (s.inject req mmode fun s =>
    { s with inj := { s.inj with digest := bits (s.rf F.FLT_INJ_ARG1_ARG) 5 0 :: s.inj.digest } })

/-- INJECT_TILE_CRC (target 6): the CRC of a stream's next tile inverted. -/
def execInjectTileCrc (req : Requester) (mmode : Bool) (s : State) : Host.Outcome State Fault Refusal :=
  .next (s.inject req mmode fun s =>
    { s with inj := { s.inj with tile := bits (s.rf F.FLT_INJ_ARG1_ARG) 11 0 :: s.inj.tile } })

/-- INJECT_ALIVE (target 7): an ALIVE drive inverted for one half-period. -/
def execInjectAlive (req : Requester) (mmode : Bool) (s : State) : Host.Outcome State Fault Refusal :=
  .next (s.inject req mmode fun s =>
    { s with alive := { s.alive with inject := some (bits (s.rf F.FLT_INJ_ARG1_ARG) 0 0) } })

/-! ### Lockstep, comparator tests, L2 scrub (R361 to R371) -/

/-- LOCKSTEP_MISMATCH (R366, R371): the pair stops; CP1's groups are not used in split mode. -/
def execLockstepMismatch (pair : Fin 2) (group : Fin 5) (cycle : BitVec 32) (s : State) : Host.Outcome State Fault Refusal :=
  if s.pairStopped pair.val || (pair.val == 1 && s.flag F.LKS_STATUS_SPLIT) then .next s
  else .next (s.lockstep pair.val group.val cycle.toNat false)

/-- SEQUENCER_MISMATCH (R58). -/
def execSequencerMismatch (phys : Fin 66) (s : State) : Host.Outcome State Fault Refusal :=
  .next (s.seqMismatch phys.val false)

/-- Comparator code of a test lane: 0 to 4 CP0, CP1, path A, path B, collector; 5 and up the sequencers (Table 13-8). -/
def laneAddr (l : Nat) : Nat := if l < 5 then l * 2 ^ 36 + 0x7F * 2 ^ 29 else 5 * 2 ^ 36 + (l - 5) * 2 ^ 29
def laneSrc (l : Nat) : Nat := if l < 5 then srcColl else srcSeqCmp (l - 5)

/-- One round of the comparator test lanes with the lanes that missed their test (R370). -/
def State.laneRound (s : State) (missed : List (Fin 72)) : State :=
  missed.foldl (fun (s : State) l =>
    if l.val = 71 ∨ (l.val = 1 ∧ s.flag F.LKS_STATUS_SPLIT) then s
    else (s.bump F.LKS_LATENT_ERR_ERR 1).send (laneSrc l.val) .LKS_LATENT (laneAddr l.val)) (s.bump F.LKS_LATENT_PASSES 1)

/-- TEST_LANE_ROUND (R370): every lane was driven; the operand lists the lanes that missed their test. -/
def execTestLaneRound (missed : List (Fin 72)) (s : State) : Host.Outcome State Fault Refusal :=
  if s.pstate = .boot ∨ s.pstate = .run ∨ s.pstate = .safe ∨ s.pstate = .maint then .next (s.laneRound missed) else .next s

/-! ### Debug (R372, R373) -/

def hartBit (h : Nat) : Fld := if h = 0 then F.LKS_STATUS_DBG_CP0 else F.LKS_STATUS_DBG_CP1

def State.hart (s : State) (h : Nat) : Hart := (s.harts[h]?).getD Hart.reset

def State.setHart (s : State) (h : Nat) (f : Hart → Hart) : State := { s with harts := s.harts.modify h f }

/-- JTAG reaches the debug modules only where the life cycle and the unlock open it (SEC_STATUS.JTAG, R423, R432), within the unlock's
scope (Table 15-6). CP1B exists in split mode only. -/
def State.dbgOpen (s : State) (h : Nat) : Bool :=
  s.flag F.SEC_STATUS_JTAG && (h != 2 || s.flag F.LKS_STATUS_SPLIT) && bitAt s.sec.scope (if h = 0 then 0 else 1)

/-- A debugger action that enters a lead core is recorded and replayed to the shadow (R373). A stopped pair takes none (R377). -/
def State.dbgAction (s : State) (h : Nat) (f : Hart → Hart) : State :=
  if s.dbgOpen h && (s.hart h).attached && !(s.hart h).stopped then (s.setHart h f).bump F.LKS_DBG_ACT_ACTIONS 1 else s

/-- DEBUG_ATTACH (R373). -/
def execDebugAttach (hart : Fin 3) (s : State) : Host.Outcome State Fault Refusal :=
  if s.dbgOpen hart.val && !(s.hart hart.val).attached then
    .next (((s.setHart hart.val (fun x => { x with attached := true })).wf (hartBit hart.val) 1).send (srcPair hart.val) .DEBUG_ACTIVE
      (hart.val * 2 ^ 36))
  else .next s

/-- DEBUG_DETACH (R373). -/
def execDebugDetach (hart : Fin 3) (s : State) : Host.Outcome State Fault Refusal :=
  if (s.hart hart.val).attached then
    have s := s.setHart hart.val (fun x => { x with attached := false })
    have other := if hart.val = 0 then false else (s.hart 1).attached || (s.hart 2).attached
    have s := if other then s else s.wf (hartBit hart.val) 0
    .next (s.send (srcPair hart.val) .DEBUG_ACTIVE (hart.val * 2 ^ 36 + 2 ^ 32))
  else .next s

/-- DEBUG_HALT (R373, R377). -/
def execDebugHalt (hart : Fin 3) (s : State) : Host.Outcome State Fault Refusal :=
  .next (s.dbgAction hart.val (fun x => { x with halted := true }))

/-- DEBUG_RESUME (R373). -/
def execDebugResume (hart : Fin 3) (s : State) : Host.Outcome State Fault Refusal :=
  .next (s.dbgAction hart.val (fun x => { x with halted := false }))

/-- DEBUG_ABSTRACT_COMMAND (R373): counted as an action; what the command does to the core's registers belongs to the RISC-V debug
specification and the core's own state, which this block does not hold (log 10). -/
def execDebugAbstractCommand (hart : Fin 3) (s : State) : Host.Outcome State Fault Refusal := .next (s.dbgAction hart.val id)

/-- DEBUG_PROGBUF_EXEC (R373). -/
def execDebugProgbufExec (hart : Fin 3) (s : State) : Host.Outcome State Fault Refusal := .next (s.dbgAction hart.val id)

/-- DEBUG_TRIGGER (R373): a fired trigger halts the lead (the action of a trigger match; log 10). -/
def execDebugTrigger (hart : Fin 3) (s : State) : Host.Outcome State Fault Refusal :=
  .next (s.dbgAction hart.val (fun x => { x with halted := true }))

end Sys2Proof.Machine
end

