-- ==== Sys2Proof/Machine/Tiles.lean ====
section
/-! DEFINITION. Tiles and their headers (02, R33 to R39): forming, checking, voiding and writing a tile. -/

namespace Sys2Proof.Machine
open Sys2Proof
set_option Elab.async false

/-- The fields of a tile header (Table 2-3). -/
structure Hdr where
  stream : Nat
  major : Nat
  minor : Nat
  bell : Nat
  sec : Nat
  ns : Nat
  flags : Nat
  len : Nat
  idx : Nat
  age : Nat
  crc : Nat
  deriving DecidableEq, Repr

/-- Flags of Table 2-4. -/
def flVoid : Nat := 1
def flRepaired : Nat := 2
def flContested : Nat := 4
def flWarmup : Nat := 8
def flNd : Nat := 16
def flFree : Nat := 32
def flTag : Nat := 64
def flFallback : Nat := 128
/-- Flags a producer carries over from its inputs (R34). -/
def flInherit : Nat := 2 + 4 + 8 + 16 + 32 + 64

def Hdr.isVoid (h : Hdr) : Bool := bitAt h.flags 0

/-- Header bytes 0 to 27. -/
def Hdr.front (h : Hdr) : List Byte :=
  leBytes 2 h.stream ++ leBytes 1 h.major ++ leBytes 1 h.minor ++ leBytes 4 h.bell ++ leBytes 6 h.sec ++ leBytes 4 h.ns ++
  leBytes 2 h.flags ++ leBytes 4 (h.len % 2 ^ 17 + h.idx * 2 ^ 20) ++ leBytes 4 h.age

/-- CRC of a tile: bytes 0 to 27 and the payload, or bytes 0 to 27 alone when VOID is set (R35). -/
def Hdr.crcOf (h : Hdr) (payload : List Byte) : Nat := crc32c (if h.isVoid then h.front else h.front ++ payload)

/-- The 32 header bytes with the right CRC. -/
def Hdr.bytes (h : Hdr) (payload : List Byte) : List Byte := h.front ++ leBytes 4 (h.crcOf payload)

/-- Read a header. -/
def parseHdr (b : List Byte) : Hdr :=
  { stream := leAt b 0 2, major := leAt b 2 1, minor := leAt b 3 1, bell := leAt b 4 4, sec := leAt b 8 6, ns := leAt b 14 4,
    flags := leAt b 18 2, len := leAt b 20 4 % 2 ^ 17, idx := leAt b 20 4 / 2 ^ 20, age := leAt b 24 4, crc := leAt b 28 4 }

/-- The first test of R36 a tile fails. -/
def tileFault (h : Hdr) (payload : List Byte) (stream bell idx len : Nat) : Option Kind :=
  if h.crc ≠ h.crcOf payload then some .TILE_CRC
  else if h.stream % 4096 ≠ stream then some .TILE_ID
  else if h.bell ≠ bell % 2 ^ 32 then some .TILE_BELL
  else if h.idx ≠ idx then some .TILE_INDEX
  else if h.len ≠ len then some .TILE_LENGTH
  else none

/-- Capture time and age of an output tile: the earliest among the inputs that carry one (R33), and the inherited flags (R34). -/
def mergeHdrs (hs : List Hdr) : Nat × Nat × Nat × Nat :=
  have cap := hs.filter (fun h => h.sec != 0 || h.ns != 0 || h.age != 0)
  have best := cap.foldl (fun (b : Option Hdr) h => match b with
     | none => some h
     | some x => if h.sec < x.sec ∨ (h.sec = x.sec ∧ h.ns < x.ns) then some h else some x) none
  have fl := hs.foldl (fun f h => f ||| (h.flags &&& flInherit)) 0
  match best with
  | some b => (b.sec, b.ns, b.age, fl)
  | none => (0, 0, 0, fl)

/-- Format version of a stream from the stream table. -/
def State.streamFmt (s : State) (stream : Nat) : Nat × Nat :=
  match s.streamElem stream with
  | some e => (leAt e 20 1, leAt e 21 1)
  | none => (0, 0)

/-- Declared payload bytes of a stream; `dflt` for a stream the table does not hold. -/
def State.streamLen (s : State) (stream dflt : Nat) : Nat :=
  match s.streamElem stream with
  | some e => leAt e 16 4
  | none => dflt

/-- Age at the edge of the current bell of a capture time (R33). -/
def State.ageOf (s : State) (sec ns : Nat) : Nat :=
  if sec = 0 ∧ ns = 0 then 0 else satU 32 ((s.bell.edge - (sec * 1000000000 + ns)) / 1000)

/-- A header a station writes for an output tile in the current bell (R33, R34, R279). -/
def State.mkHdr (s : State) (stream idx len : Nat) (ins : List Hdr) (extra : Nat) (void : Bool) : Hdr :=
  let (sec, ns, _, fl) := mergeHdrs ins
  let (ma, mi) := s.streamFmt stream
  { stream := stream, major := ma, minor := mi, bell := s.curBell % 2 ^ 32, sec := sec, ns := ns,
    flags := fl ||| extra ||| (if s.freeRunning then flFree else 0)
      ||| (if void then flVoid else 0),
    len := len, idx := idx, age := s.ageOf sec ns, crc := 0 }

/-- Is everything of a stream from this source void in the current bell (R49, R50, R321), or its unit FAILED (R386)? -/
def State.mustVoid (s : State) (src stream : Nat) : Bool :=
  s.tt.voidAll || s.tt.voidStreams.contains stream || (decide (src ≤ 0x83F) && s.tt.voidCores.contains (src / 32)) ||
  s.tt.voidUnits.contains src ||
  (decide (srcCodec 0 ≤ src) && decide (src < srcCodec 8) && bitAt (s.rf F.TST_STATUS_CFAILED) (src - srcCodec 0)) ||
  (decide (srcDetect 0 ≤ src) && decide (src < srcDetect 4) && bitAt (s.rf F.TST_STATUS_DFAILED) (src - srcDetect 0))

/-- Running dual-run digest of a core toward a partner: one more header (R50). -/
def addDig (l : List DualDig) (partner stream : Nat) (hb : List Byte) : List DualDig :=
  if l.any (fun d => d.partner == partner) then
    l.map (fun d => if d.partner == partner then
      { d with crc := crcRun d.crc hb, count := d.count + 1,
               streams := if d.streams.contains stream then d.streams else d.streams ++ [stream] } else d)
  else l ++ [{ partner := partner, crc := crcRun 0xFFFFFFFF hb, count := 1, streams := [stream], recs := [] }]

/-- Where a tile lands: a memory key, or an operand buffer's slot and payload. -/
inductive TileDst where
  | mem (k : Nat)
  | ob (p e off : Nat)
  deriving DecidableEq, Repr

def TileDst.hdrKey : TileDst → Nat
  | .mem k => k
  | .ob p e off => keyObHdr p e off

def TileDst.payKey : TileDst → Nat
  | .mem k => k + 32
  | .ob p e off => keyOb p e off

/-- Note a tile written to an operand buffer: it takes the place of the residents it overlaps (R39, R179). -/
def State.reside (s : State) (h : Hdr) (d : TileDst) : State :=
  match d with
  | .mem _ => s
  | .ob p e off =>
    have hides (r : Resid) : Bool := r.p == p && r.e == e &&
      (r.off / 1024 == off / 1024 || (decide (r.off < off + h.len) && decide (off < r.off + r.len)))
    { s with resid := s.resid.filter (fun r => !hides r) ++
        [{ p := p, e := e, off := off, stream := h.stream, idx := h.idx, len := h.len }] }

/-- Zero bytes after a tile up to a multiple of 32 (R178). -/
def padTo32 (n : Nat) : List Byte := List.replicate ((32 - n % 32) % 32) 0

/-- Write one tile at its destinations: marked void where the bell's marks say so; a void payload has no defined value, so it is free
(R37); an armed injection inverts the CRC of the stream's next tile (R363); a DUAL instruction's header enters the digest (R50). -/
def State.writeTile (s : State) (core src : Nat) (dual : Option Nat) (h : Hdr) (payload : List Byte) (dsts : List TileDst) : State :=
  have h := if s.mustVoid src h.stream then { h with flags := h.flags ||| flVoid } else h
  have pay := if h.isVoid then freeBytes s.freeCount h.len else payload
  have s := if h.isVoid then { s with freeCount := s.freeCount + h.len } else s
  have inj := s.inj.tile.contains h.stream
  have crc := if inj then (2 ^ 32 - 1) - h.crcOf pay else h.crcOf pay
  have s := if inj then { s with inj := { s.inj with tile := s.inj.tile.erase h.stream } } else s
  have hb := h.front ++ leBytes 4 crc
  have s := dsts.foldl (fun s d => ((s.store d.hdrKey hb).store d.payKey (pay ++ padTo32 pay.length)).reside h d) s
  have s := if s.tt.produced.contains (h.stream, src) then s
    else { s with tt := { s.tt with produced := (h.stream, src) :: s.tt.produced } }
  match dual with
  | some p => s.setSeq core (fun q => { q with digs := addDig q.digs p h.stream hb })
  | none => s

/-- Address of a tile fault (Table 2-10). -/
def tileAddr (stream idx checker : Nat) : Nat := stream % 4096 * 2 ^ 28 + idx % 4096 * 2 ^ 16 + checker % 2 ^ 16

/-- The stream and tile index whose storage starts at a 40-bit address, from the stream table. -/
def State.tileAt (s : State) (addr : Nat) : Option (Nat × Nat) :=
  have bs := s.recBytes recStream 0
  have hit (e : List Byte) : Option (Nat × Nat) :=
    have st := leAt e 40 4
    have t := leAt e 12 2
    let at' (a : Nat) : Option Nat :=
      if a = 0 ∨ addr < a then none
      else if st = 0 then (if addr = a then some 0 else none)
      else if (addr - a) % st = 0 ∧ (addr - a) / st < t then some ((addr - a) / st) else none
    match at' (leAt e 24 5), at' (leAt e 32 5) with
    | some i, _ => some (leAt e 0 2 % 4096, i)
    | none, some i => some (leAt e 0 2 % 4096, i)
    | none, none => none
  (List.range (recCount bs 48)).foldl (fun r k => match r with
    | some x => some x
    | none => hit (recElem bs 48 k)) none

/-- Desk window address of logical core n (R543). -/
def deskAddr (n off : Nat) : Nat := 0x1100000000 + n * 0x1000000 + off

/-- A stream with BELL_OFFSET k has no producing bell in the first k bells: its readers get seed tiles (R472). -/
def State.seeded (s : State) (stream : Nat) : Bool :=
  have k := s.streamAttr stream / 16
  decide (0 < k) && decide (s.curBell < s.bell.started + k)

/-- A static stream has no producing station: its tiles are weights and constants of the image, produced in no bell (R33, R72; log 41). -/
def State.isStatic (s : State) (stream : Nat) : Bool := ((s.streamElem stream).map (fun e => leAt e 2 2 == 0)).getD false

/-- Receive one tile at a checker (R36 to R38): the header it is delivered with, its payload, and whether it is void. `core` is the
physical core of the instruction, whose VOID_IN counts void tiles; `quiet` suppresses VOID_UNEXPECTED. -/
def State.receive (s : State) (src checker p : Nat) (req : Nat) (hk pk stream bell idx len : Nat) (quiet : Bool) :
    Hdr × List Byte × Bool × State :=
  if s.seeded stream then
    ({ stream := stream, major := (s.streamFmt stream).1, minor := (s.streamFmt stream).2, bell := bell % 2 ^ 32, sec := 0, ns := 0,
       flags := 0, len := len, idx := idx, age := 0, crc := 0 }, List.replicate len 0, false, s)
  else
  let (hb, ok1, s) := s.load false req hk 32
  let (pb, ok2, s) := s.load false req pk len
  have h := parseHdr hb
  have bell := if s.isStatic stream then h.bell else bell
  have fault := if ok1 && ok2 then tileFault h pb stream bell idx len else none
  have s := match fault with
    | some k => s.send src k (tileAddr stream (if k = .TILE_INDEX then h.idx else idx) checker)
    | none => s
  have clean : Hdr := { h with stream := stream, bell := bell % 2 ^ 32, idx := idx, len := len }
  have void := !ok1 || !ok2 || fault.isSome || h.isVoid || s.tt.voidStreams.contains stream || s.tt.voidAll
  if void then
    have s := s.bump (F.TT_FLT_CNT_VOID_IN p) 1
    have s := if quiet then s else s.send src .VOID_UNEXPECTED (tileAddr stream idx checker)
    have base : Hdr := if fault.isSome || !ok1 then { clean with sec := 0, ns := 0, age := 0, flags := if s.freeRunning then flFree else 0 } else clean
    ({ base with flags := base.flags ||| flVoid }, pb, true, s)
  else (h, pb, false, s)

end Sys2Proof.Machine
end

