-- ==== Sys2Proof/Machine/Timetable.lean ====
section
/-! DEFINITION. Sequencers, movers, dual-run comparator and barriers (02, R40 to R61). -/

namespace Sys2Proof.Machine
open Sys2Proof
set_option Elab.async false

/-! ### Instruction fields (Table 2-5) -/

def insOp (w : Nat) : Nat := bits w 127 120
def insAt (w : Nat) : Nat := bits w 111 84
def insStream (w : Nat) : Nat := bits w 83 72
def insTask (w : Nat) : Nat := bits w 71 64
def insPartner (w : Nat) : Nat := bits w 63 58
def insArg (w hi lo : Nat) : Nat := bits w hi lo
def insNd (w : Nat) : Bool := bitAt w 119
def insSafe (w : Nat) : Bool := bitAt w 118
def insDual (w : Nat) : Option Nat := if bitAt w 117 then some (insPartner w) else none
def insVoidOk (w : Nat) : Bool := bitAt w 113

/-- Station address parts (Table 2-1). -/
def stKind (a : Nat) : Nat := bits a 15 12
def stLoc (a : Nat) : Nat := bits a 11 3

/-- A field of the desk directory of physical core p (Table 16-9). -/
def State.dir (s : State) (p off : Nat) : Nat := s.rdLe (keyDesk p off) 4

/-- Key of word i of the timetable of physical core p. -/
def State.insKey (s : State) (p i : Nat) : Nat := keyDesk p (s.dir p 0 + 16 * i)

/-- Timetable word i, without the memory checks (used to look ahead in the list). -/
def State.insWord (s : State) (p i : Nat) : Nat := s.rdLe (s.insKey p i) 16

/-- TT_LAST_FLT and TT_LAST_CYC (R60). -/
def State.ttFault (s : State) (p : Nat) (k : Kind) (task cyc : Nat) : State :=
  ((s.wf (F.TT_LAST_FLT_KIND p) k.code).wf (F.TT_LAST_FLT_TASK p) task).wf (F.TT_LAST_CYC_CYCLE p) cyc

/-- Address of BUDGET, LATE_ISSUE and BELL_OVERRUN. -/
def taskAddr (task cyc : Nat) : Nat := task * 2 ^ 32 + cyc % 2 ^ 28

/-- Abandon the rest of a core's list after an uncorrectable code word (R186): its results of the bell are void. -/
def State.abandon (s : State) (n : Nat) : State :=
  have p := s.phys n
  have s := (s.wf (F.TT_STATUS_ABANDONED p) 1).wf (F.TT_STATUS_RUNNING p) 0
  have s := s.setSeq n (fun q => { q with runs := false, codeUe := true })
  have s := { s with tt := { s.tt with jobs := s.tt.jobs.filter (fun j => j.core != n) } }
  s.voidCore p

/-- Read code of physical core p: a timetable word, a descriptor or a program entry (R186). -/
def State.loadCode (s : State) (n k len : Nat) : Option (List Byte) × State :=
  let (bs, ok, s) := s.load true 0 k len
  if ok then (some bs, s) else (none, s.abandon n)

/-- Is a unit busy with an operation? -/
def State.unitBusy (s : State) (u : Nat) : Bool := s.tt.jobs.any (fun j => j.unit == u)

/-- A sequencer is running its list in this bell. -/
def State.seqRuns (s : State) (n : Nat) : Bool :=
  (s.seqOf n).runs && s.flag (F.TT_STATUS_RUNNING (s.phys n)) && s.bell.running && decide (s.pstate ≠ .halt)

/-- Issue the next instruction of logical core n when `ok` accepts its word (R43): not before its AT, not before the instruction
before it; LATE_ISSUE when later. Answers the word and the word after it (the second word of a MOVE), or nothing when no such
instruction is next. -/
def State.issue (s : State) (n : Nat) (ok : Nat → Bool) : Option (Nat × Nat × Nat) × State :=
  have p := s.phys n
  have i := s.rf (F.TT_PC_PC p)
  if !s.seqRuns n || !ok (s.insWord p i) || decide (s.dir p 4 ≤ i) then (none, s)
  else
    have w := s.insWord p i
    have s := s.advanceTo (max (s.bell.start + 2 * insAt w) (s.seqOf n).lastIssue)
    match s.loadCode n (s.insKey p i) 32 with
    | (none, s) => (none, s)
    | (some _, s) =>
      have late := decide (insAt w < s.cycle)
      have s := if late then
          have s := (s.bump (F.TT_FLT_CNT_LATE p) 1).ttFault p .LATE_ISSUE (insTask w) (insAt w)
          have s := s.addCard 7 n 0 (leBytes 1 Kind.LATE_ISSUE.code)
          s.send (srcSeq p) .LATE_ISSUE (taskAddr (insTask w) (insAt w))
        else s
      have s := s.setSeq n (fun q => { q with lastIssue := s.now })
      have s := s.wf (F.TT_PC_PC p) (i + (if insOp w = 0x08 then 2 else 1))
      (some (w, s.insWord p (i + 1), i), s)

/-- Does a later word of the list carry the task? The second word of a MOVE belongs to its MOVE (R45). -/
def State.laterTask (s : State) (p i task : Nat) : Bool :=
  have c := s.dir p 4
  (List.range (c - i - 1)).any (fun k =>
    have w := s.insWord p (i + 1 + k)
    insTask w == task && (insOp w == 0x08 || insOp w == 0x10 || insOp w == 0x11 || insOp w == 0x18 || insOp w == 0x20))

/-- An operation leaves its unit; the counter of its task stops when it was the task's last instruction (R44, R45). -/
def State.endJob (s : State) (j : Job) : State :=
  have s := { s with tt := { s.tt with jobs := s.tt.jobs.filter (fun x => x.unit != j.unit) } }
  if j.kind = .swap || j.kind = .recess || s.laterTask (s.phys j.core) j.idx j.task then s
  else s.setSeq j.core (fun q => { q with tasks := q.tasks.map (fun t => if t.task == j.task then { t with stopped := true } else t) })

/-- Start an operation at a unit. -/
def State.startJob (s : State) (j : Job) : State := { s with tt := { s.tt with jobs := s.tt.jobs ++ [j] } }

/-- The operation in progress at a unit. -/
def State.jobAt (s : State) (u : Nat) : Option Job := s.tt.jobs.find? (fun j => j.unit == u)

/-! ### TASK_BEGIN, BUDGET, END (R44, R45) -/

/-- TASK_BEGIN (R45). -/
def execTaskBegin (core : Fin 64) (s : State) : Host.Outcome State Fault Refusal :=
  match s.issue core.val (fun w => insOp w == 0x01) with
  | (none, s) => .next s
  | (some (w, _, _), s) =>
    .next (s.setSeq core.val (fun q => { q with tasks := q.tasks ++
      [{ task := insTask w, start := s.now, budget := insArg w 55 28, stopped := false, sent := false }] }))

/-- BUDGET (R45): the counter of a running task reaches BUDGET + 1. -/
def execBudget (core : Fin 64) (task : Byte) (s : State) : Host.Outcome State Fault Refusal :=
  match (s.seqOf core.val).tasks.find? (fun t => t.task == task.toNat && !t.stopped && !t.sent) with
  | none => .next s
  | some t =>
    have s := s.advanceTo (t.start + 2 * (t.budget + 1))
    have p := s.phys core.val
    have s := s.setSeq core.val (fun q => { q with tasks := q.tasks.map (fun x => if x.task == t.task then { x with sent := true } else x) })
    have s := (s.bump (F.TT_FLT_CNT_BUDGET p) 1).ttFault p .BUDGET t.task s.cycle
    .next (s.send (srcSeq p) .BUDGET (taskAddr t.task s.cycle))

/-- END (R44): issues when every earlier instruction has completed; updates TT_SLACK_MIN (R60). -/
def execEnd (core : Fin 64) (s : State) : Host.Outcome State Fault Refusal :=
  have n := core.val
  if s.tt.jobs.any (fun j => j.core == n) then .next s
  else
    have p := s.phys n
    if !s.seqRuns n || insOp (s.insWord p (s.rf (F.TT_PC_PC p))) != 0xFF then .next s
    else
      match s.issue n (fun w => insOp w == 0xFF) with
      | (none, s) => .next s
      | (some _, s) =>
        have s := (s.wf (F.TT_STATUS_ENDED p) 1).wf (F.TT_STATUS_RUNNING p) 0
        .next (s.wf (F.TT_SLACK_MIN_SLACK p) (s.seqOf n).slack)

/-! ### MOVE (R46 to R49, R555) -/

/-- Fault source of a mover's checker, by station address; the physical core of a core mover. -/
def State.moverSrc (s : State) (u : Nat) : Nat :=
  if stKind u = 5 then srcMover (s.phys (stLoc u / 8)) (stLoc u % 8) else srcHmover (stLoc u)

/-- Nominal duration of a transfer in ARITH cycles (R47). -/
def moveNominal (u tiles bytes : Nat) : Nat := ceilDiv (tiles * bytes) (if stKind u = 5 then 256 else 128)

/-- Members of a multicast group of the current plan: logical core × 8 + engine (Table 16-10). -/
def State.mcast (s : State) (g : Nat) : List Nat :=
  have m := leAt (recElem (s.recBytes recMcast s.ctxPlan) 64 g) 0 64
  (List.range 512).filter (fun i => bitAt m i)

/-- Destinations of tile k of a transfer (Table 2-9, R555). -/
def State.moveDsts (s : State) (core : Nat) (d : List Byte) (k : Nat) : List TileDst :=
  have dst := leAt d 5 5
  have stride := leAt d 28 4
  match leAt d 10 1 with
  | 0 => match s.addrKey (dst + k * stride) with
    | some a => [.mem a]
    | none => []
  | 1 =>
    have pos := dst % 2 ^ 19 + k * stride
    [.ob (s.phys core) ((pos / 65536) % 8) (pos % 65536)]
  | _ => (s.mcast (leAt d 11 1)).map (fun i => .ob (s.phys (i / 8)) (i % 8) ((dst + k * stride) % 65536))

/-- Bell number a stream's tiles carry in the current bell (R36). -/
def State.streamBell (s : State) (stream : Nat) : Nat := (s.curBell + 2 ^ 32 - s.streamAttr stream / 16) % 2 ^ 32

/-- Does a range of HBM overlap an object of the bad map in force (R398)? -/
def State.badRange (s : State) (a len : Nat) : Bool :=
  s.tst.badNow.any (fun o =>
    have e := recElem (s.recBytes recDigest 0) 48 o
    decide (a < leAt e 0 5 + leAt e 8 4) && decide (leAt e 0 5 < a + len))

/-- Does an access of an HMOVER to HBM break R203? -/
def State.hbmDenied (s : State) (u : Nat) (write : Bool) (a n : Nat) : Bool :=
  stKind u == 0xB && decide (a < 0x600000000) && s.limited && !(if write then s.unlocked a n else s.inRegion a n)

/-- Deliver tile k of a transfer, whole or void (R36, R37, R46, R49, R203). -/
def State.deliver (s : State) (j : Job) (k : Nat) (whole : Bool) : State :=
  have d := j.desc
  have stream := leAt d 12 2 % 4096
  have idx := leAt d 14 2 + k
  have len := leAt d 20 4 - 32
  have p := s.phys j.core
  have src := s.moverSrc j.unit
  have from' := leAt d 0 5 + k * leAt d 24 4
  have to' := leAt d 5 5 + k * leAt d 28 4
  have noRead := whole && s.hbmDenied j.unit false from' (len + 32)
  have noWrite := leAt d 10 1 == 0 && s.hbmDenied j.unit true to' (len + 32)
  have s := if noRead then s.hbmAccess 4 from' else s
  have s := if noWrite then s.hbmAccess 4 to' else s
  have dsts := if noWrite then [] else s.moveDsts j.core d k
  have nd := if insNd j.instr then flNd else 0
  have bad := stKind j.unit == 0xB && s.badRange from' (len + 32)
  if whole && !bad && !noRead then
    match s.addrKey from' with
    | none => s
    | some a =>
      let (h, pb, _, s) := s.receive src j.unit p 4 a (a + 32) stream (s.streamBell stream) idx len (insVoidOk j.instr)
      s.writeTile j.core src (insDual j.instr) { h with flags := h.flags ||| nd } pb dsts
  else
    have h : Hdr := { s.mkHdr stream idx len [] nd true with bell := s.streamBell stream }
    s.writeTile j.core src (insDual j.instr) h [] dsts

/-- Does tile k of a transfer take in a burst whose transfer has failed for good (R209)? -/
def linkLost (d : List Byte) (links : List (Nat × Fin 6)) (k : Nat) : Bool :=
  have n := leAt d 20 4
  have at' (a b : Nat) : Bool := decide (b ≤ a) && decide (a < b + n)
  links.any (fun x => decide (x.2.val = 5) && (at' x.1 (leAt d 0 5 + k * leAt d 24 4) || at' x.1 (leAt d 5 5 + k * leAt d 28 4)))

/-- MOVE (R46): the named mover starts the transfer of its descriptor. -/
def execMove (core : Fin 64) (s : State) : Host.Outcome State Fault Refusal :=
  have n := core.val
  match s.issue n (fun w => insOp w == 0x08 && !s.unitBusy (insArg w 55 40)) with
  | (none, s) => .next s
  | (some (w, w2, i), s) =>
    have p := s.phys n
    match s.loadCode n (keyDesk p (s.dir p 8 + 32 * insArg w 39 24)) 32 with
    | (none, s) => .next s
    | (some d, s) =>
      have u := insArg w 55 40
      .next (s.startJob
        { kind := .move, core := n, unit := u, task := insTask w, at0 := s.now,
          due := s.now + 2 * moveNominal u (leAt d 16 2) (leAt d 20 4), instr := w, idx := i,
          deadline := s.bell.start + 2 * bits w2 55 28, desc := d, outs := [] })

/-- MOVE_COMPLETE (R44, R46): the last write lands `extra` ARITH cycles after the nominal duration, not after the DEADLINE edge;
`links` lists HBM bursts of the transfer whose link transfers failed parity, with the number of failures (R209). -/
def execMoveComplete (mover : BitVec 16) (extra : Nat) (links : List (Nat × Fin 6)) (s : State) : Host.Outcome State Fault Refusal :=
  match s.jobAt mover.toNat with
  | none => .next s
  | some j =>
    have t := j.due + 2 * extra
    if j.kind ≠ .move ∨ j.deadline < t then .next s
    else
      have s := s.advanceTo t
      have tiles := leAt j.desc 16 2
      have hm := stKind j.unit == 0xB
      have links := if hm then links.filter (fun x => decide (x.1 < 0x600000000)) else []
      have s := links.foldl (fun s x => s.linkFail 4 x.1 x.2.val) s
      have s := (List.range tiles).foldl (fun s k => s.deliver j k (!linkLost j.desc links k)) s
      have s := if hm then s.addUnits (tiles * leAt j.desc 20 4) else s
      have s := s.setSeq j.core (fun q => { q with slack := min q.slack ((j.deadline - t) / 2) })
      .next (s.endJob j)

/-- DEADLINE (R46): the transfer is incomplete at its DEADLINE edge after `delivered` tiles; the rest are written void. -/
def execDeadline (mover : BitVec 16) (delivered : Nat) (s : State) : Host.Outcome State Fault Refusal :=
  match s.jobAt mover.toNat with
  | none => .next s
  | some j =>
    have tiles := leAt j.desc 16 2
    if j.kind ≠ .move ∨ tiles ≤ delivered then .next s
    else
      have s := s.advanceTo j.deadline
      have p := s.phys j.core
      have stream := leAt j.desc 12 2 % 4096
      have s := (List.range tiles).foldl (fun s k => s.deliver j k (decide (k < delivered))) s
      have s := if stKind j.unit = 5 then s.bump (F.TT_FLT_CNT_DEADLINE p) 1 else s
      have s := (s.ttFault p .DEADLINE j.task s.cycle).addCard 7 j.core 0 (leBytes 1 Kind.DEADLINE.code)
      .next ((s.send (s.moverSrc j.unit) .DEADLINE (tileAddr stream (leAt j.desc 14 2 + delivered) j.unit)).endJob j)

/-! ### Dual-run digests (R50) -/

/-- DIGEST (R50): submit the pair of the region and restart the digest; a region already judged discards it. -/
def execDigest (core : Fin 64) (s : State) : Host.Outcome State Fault Refusal :=
  have n := core.val
  match s.issue n (fun w => insOp w == 0x28) with
  | (none, s) => .next s
  | (some (w, _, _), s) =>
    have region := insArg w 55 48
    have pt := insPartner w
    have d : DualDig := ((s.seqOf n).digs.find? (fun x => x.partner == pt)).getD
      { partner := pt, crc := 0xFFFFFFFF, count := 0, streams := [], recs := [] }
    have s := s.setSeq n (fun q => { q with digs := q.digs.filter (fun x => x.partner != pt) })
    have flip := s.inj.digest.contains n
    have s := if flip then { s with inj := { s.inj with digest := s.inj.digest.erase n } } else s
    have crc := d.crc ^^^ 0xFFFFFFFF
    if s.tt.judged.contains region then .next s
    else
      have sub : DigSub :=
        { region := region, run := insArg w 47 47, core := n, partner := pt, at0 := s.now,
          crc := if flip then crc ^^^ 1 else crc, count := d.count, streams := d.streams, recs := d.recs }
      .next { s with tt := { s.tt with subs := s.tt.subs ++ [sub] } }

/-! ### Barriers (R52) -/

/-- Would core m issue its BARRIER of group g on this edge? It holds one whose AT is the current cycle, with nothing later before it. -/
def State.barrierDue (s : State) (m g : Nat) : Bool :=
  have p := s.phys m
  have i := s.rf (F.TT_PC_PC p)
  have c := s.dir p 4
  s.seqRuns m && (match (List.range (c - i)).find? (fun k =>
      have w := s.insWord p (i + k)
      decide (s.cycle < insAt w) || (insOp w == 0x38 && insArg w 55 48 == g)) with
    | some k =>
      have w := s.insWord p (i + k)
      insAt w == s.cycle && insOp w == 0x38
    | none => false)

def barCount (l : List (Nat × Nat)) (g : Nat) : Nat := smGet (fun _ => 0) l g

/-- BARRIER (R52): the first issue of an instance checks every member that runs in this bell; no core waits. -/
def execBarrier (core : Fin 64) (s : State) : Host.Outcome State Fault Refusal :=
  have n := core.val
  match s.issue n (fun w => insOp w == 0x38) with
  | (none, s) => .next s
  | (some (w, _, _), s) =>
    have g := insArg w 55 48
    have k := barCount (s.seqOf n).barriers g
    have s := s.setSeq n (fun q => { q with barriers := smSet (fun _ => 0) q.barriers g (k + 1) })
    if s.tt.barChecked.contains (g, k) then .next s
    else
      have s := { s with tt := { s.tt with barChecked := (g, k) :: s.tt.barChecked } }
      have mask := leAt (recElem (s.recBytes recBarrier s.ctxPlan) 8 g) 0 8
      have members := (List.range 64).filter (fun m => bitAt mask m && m != n && s.flag (F.TT_STATUS_MAPPED (s.phys m)) &&
         ((s.seqOf m).runs || s.flag (F.TT_STATUS_ENDED (s.phys m)) || (s.seqOf m).codeUe))
      .next (members.foldl (fun s m => if s.barrierDue m g then s
        else s.send srcBarrier .BARRIER_MISS (g * 2 ^ 32 + m * 2 ^ 26)) s)

end Sys2Proof.Machine
end

