-- ==== Sys2Proof/Machine/Strand.lean ====
section
/-! DEFINITION. Matrix engines (03, R62 to R83): MM in Form T and Form W, EW, the drain, and strand rotation. -/

namespace Sys2Proof.Machine
open Sys2Proof
set_option Elab.async false

/-! ### The operation descriptor (Table 3-5) -/

/-- Fields of an operation descriptor. -/
structure Opd where
  form : Nat
  fl : Nat
  fs : Nat
  fo : Nat
  groups : Nat
  lanes : Nat
  mode : Nat
  relu : Bool
  zp : Int
  strands : Nat
  pos : Nat
  loads : Nat
  blocks : Nat
  lBase : Nat
  sBase : Nat
  qStride : Nat
  pStride : Nat
  xStep : Nat
  padLo : Nat
  imgW : Nat
  padV : Nat
  wide : Nat
  out : Nat
  outStride : Nat
  stream : Nat
  tile : Nat
  chan : Nat
  deriving DecidableEq, Repr

/-- Read an operation descriptor; EW drains in WRITE_FINAL (R76). -/
def parseOpd (b : List Byte) : Opd :=
  { form := leAt b 0 1, fl := leAt b 1 1, fs := leAt b 2 1, fo := leAt b 3 1, groups := leAt b 4 1, lanes := leAt b 5 1,
    mode := if leAt b 0 1 = 2 then 3 else leAt b 6 1 % 4, relu := bitAt (leAt b 6 1) 2, zp := toSigned 8 (leAt b 7 1),
    strands := leAt b 8 2, pos := leAt b 10 2, loads := leAt b 12 2, blocks := leAt b 14 2, lBase := leAt b 16 2,
    sBase := leAt b 18 2, qStride := leAt b 20 2, pStride := leAt b 22 2, xStep := leAt b 24 2, padLo := leAt b 26 1,
    imgW := leAt b 28 2, padV := leAt b 30 2, wide := leAt b 32 4, out := leAt b 36 4, outStride := leAt b 40 4,
    stream := leAt b 44 2 % 4096, tile := leAt b 46 2, chan := leAt b 48 4 }

/-- Width in bits of an operand element. -/
def opWidth (f : Nat) : Nat := fmtBits f

/-- Integer path of Table 3-4: both operands are integers or integer block formats. -/
def intOperand (f : Nat) : Bool := f == 0 || f == 1 || f == 8 || f == 9 || f == 0xA
def Opd.isInt (d : Opd) : Bool := intOperand d.fl && intOperand d.fs
/-- A block format on the S side (R72). -/
def Opd.isBlk (d : Opd) : Bool := decide (8 ≤ d.fs)
/-- K per slot: 16 for INT4 × INT4 and FACET4 × INT4 (Table 3-4). -/
def Opd.k (d : Opd) : Nat :=
  if (d.fl = 1 ∧ (d.fs = 1 ∨ d.fs = 9)) ∨ (d.fs = 1 ∧ d.fl = 9) then 16 else 8
/-- Cycles per slot (Table 3-4). -/
def Opd.cps (d : Opd) : Nat := if d.isInt then 1 else if d.fl = 4 ∨ d.fl = 5 then 8 else 2
/-- SB of an operand side (R70). -/
def Opd.sb (d : Opd) (f : Nat) : Nat := d.k * opWidth f / 8
/-- Whether the accumulator is an s32 (Table 3-4). -/
def Opd.accInt (d : Opd) : Bool := d.isInt && !d.isBlk
def Opd.sg (d : Opd) : Nat := d.strands / max d.groups 1
def Opd.laneList (d : Opd) : List Nat := (List.range 8).filter (bitAt d.lanes)

/-! ### Lane arithmetic (R62, R63, R65) -/

/-- A lane's accumulator (s32 or FP32 code), its saturations, and the slots in which it produced a NaN. -/
structure LaneR where
  acc : Nat
  sat : Nat
  nans : List Nat
  deriving DecidableEq, Repr

/-- Every block starts with zeroed accumulators (R64). -/
def LaneR.zero : LaneR := { acc := 0, sat := 0, nans := [] }

/-- a + t in a lane: sat32 on the integer path, rounded FP32 on the floating path; whether it clamped. -/
def accAdd (int : Bool) (a t : Nat) : Nat × Bool :=
  if int then
    have v := toSigned 32 a + toSigned 32 t
    (sat32 v, decide (v < -2147483648) || decide (2147483647 < v))
  else (f32add a t, false)

/-- One slot of a lane (R62, R63): add t, count a clamp, note a NaN the slot brings. -/
def LaneR.slot (r : LaneR) (int : Bool) (id t : Nat) : LaneR :=
  let (a, st) := accAdd int r.acc t
  have nan := !int && f32isNan a && (f32isNan t || !f32isNan r.acc)
  { acc := a, sat := r.sat + (if st then 1 else 0), nans := if nan then r.nans ++ [id] else r.nans }

/-- The fixed adder tree of R63. -/
def treeSum (p : List Nat) : Nat :=
  have g (i : Nat) : Nat := (p[i]?).getD 0
  f32add (f32add (f32add (g 0) (g 1)) (f32add (g 2) (g 3))) (f32add (f32add (g 4) (g 5)) (f32add (g 6) (g 7)))

/-- Slot sum of a lane: exact on the integer path (R62), products and tree in FP32 on the floating path (R63). -/
def slotSum (int : Bool) (fl fs : Nat) (l sc : List Nat) : Nat :=
  if int then ofSigned 32 ((List.zipWith (fun a b => intVal fl a * intVal fs b) l sc).foldl (· + ·) 0)
  else treeSum (List.zipWith (fun a b => f32mul (widen fl a) (widen fs b)) l sc)

/-- n element codes from a byte offset. -/
def codesOf (f : Nat) (bs : List Byte) (n : Nat) : List Nat := (List.range n).map (elemCode f bs)

/-- Reader of an operand buffer: offset and length to bytes. -/
abbrev ObRd := Nat → Nat → List Byte

/-- NaN slot identities carry their block in the high part, so that the first one is the smallest. -/
def slotId (b x : Nat) : Nat := b * 2 ^ 40 + x

/-! ### Form T (R68) -/

/-- S slice of position p of load q in block b: the padding value outside the image, which is not fetched. -/
def tSlice (d : Opd) (rd : ObRd) (b q p : Nat) : List Nat :=
  have x : Int := (b * d.xStep + p : Nat) - (d.padLo : Int)
  if x < 0 ∨ (d.imgW : Int) ≤ x then List.replicate d.k (d.padV % 2 ^ opWidth d.fs)
  else codesOf d.fs (rd (d.sBase + x.toNat * d.pStride + q * d.qStride) (d.sb d.fs)) d.k

/-- ACC(i, l)[j] at the end of block b: the slots of position j + (i div SG), over the loads in order. -/
def tLane (d : Opd) (rd : ObRd) (b i l j : Nat) : LaneR :=
  have p := j + i / max d.sg 1
  if d.pos ≤ p then LaneR.zero
  else (List.range d.loads).foldl (fun r q =>
    have lc := codesOf d.fl (rd (d.lBase + (q * d.strands + i) * 8 * d.sb d.fl + l * d.sb d.fl) (d.sb d.fl)) d.k
    r.slot d.isInt (slotId b (q * d.pos + p)) (slotSum d.isInt d.fl d.fs lc (tSlice d rd b q p))) LaneR.zero

/-- Block b of Form T: for positions 0 to 7 and each channel, the accumulators of its tap groups. -/
def tBlock (d : Opd) (rd : ObRd) (b : Nat) : List (List LaneR × Nat) :=
  (List.range 8).flatMap (fun j => (List.range (d.sg * 8)).map (fun n =>
    ((List.range d.groups).map (fun g => tLane d rd b (g * d.sg + n / 8) (n % 8) j), n)))

/-! ### Form W (R69) and the block stage (R72) -/

/-- Blocks of a stream from an offset: each with its offset. -/
def blocksAt (rd : ObRd) (fs : Nat) : Nat → Nat → List (Blk × Nat)
  | 0, _ => []
  | n + 1, off => have b := parseBlk fs (rd off 68); (b, off) :: blocksAt rd fs n (off + b.len)

/-- Start of strand slot i's stream: its u16 offset from S_BASE (Table 3-2). -/
def wStart (d : Opd) (rd : ObRd) (i : Nat) : Nat := d.sBase + leNat (rd (d.sBase + 2 * i) 2)

/-- K block columns of a row. -/
def Opd.cols (d : Opd) : Nat := d.loads * d.k / 32

/-- Sum in K order of four 8-element slot sums, with the NaN slots among them. -/
def bpFloat (ps : List Nat) : Nat × List Nat :=
  (List.range 4).foldl (fun acc s =>
    have t := treeSum ((ps.drop (8 * s)).take 8)
    have a := f32add acc.1 t
    (a, if f32isNan a && (f32isNan t || !f32isNan acc.1) then acc.2 ++ [s] else acc.2)) (0, [])

/-- The block stage of R72 for one lane and one K block; `o` are the other operand's 32 codes; so is 1.0. -/
def LaneR.block (r : LaneR) (int : Bool) (fl id : Nat) (blk : Blk) (o : List Nat) : LaneR :=
  have of (i : Nat) : F32 := widen fl ((o[i]?).getD 0)
  let (bp, ns) :=
    if int && blk.mode != 2 then
      (f32ofInt ((List.range 32).foldl (fun a i => a + ((blk.ints[i]?).getD 0) * intVal fl ((o[i]?).getD 0)) (0 : Int)), ([] : List Nat))
    else bpFloat ((List.range 32).map (fun i => f32mul ((blk.flts[i]?).getD 0) (of i)))
  have sc : F32 := if blk.mode = 2 then 0x3F800000 else f32mul blk.sa 0x3F800000
  have a := f32add r.acc (f32mul bp sc)
  have a := blk.side.foldl (fun a e => f32add a (f32mul (f32mul e.2 (of e.1)) 0x3F800000)) a
  have ns := if ns.isEmpty && f32isNan a && !f32isNan r.acc then [3] else ns
  { acc := a, sat := r.sat, nans := r.nans ++ ns.map (fun s => id + s) }

/-- Element codes of lane l in L word k. -/
def wWord (d : Opd) (rd : ObRd) (k l : Nat) : List Nat :=
  codesOf d.fl (rd (d.lBase + k * 8 * d.sb d.fl + l * d.sb d.fl) (d.sb d.fl)) d.k

/-- ACC(i, l)[r] of block b without a block format. -/
def wLane (d : Opd) (rd : ObRd) (b i r l : Nat) : LaneR :=
  have row := b * d.pos + r
  have st := wStart d rd i
  (List.range d.loads).foldl (fun a k =>
    have sc := codesOf d.fs (rd (st + (row * d.loads + k) * d.sb d.fs) (d.sb d.fs)) d.k
    a.slot d.isInt (slotId b (r * d.loads + k)) (slotSum d.isInt d.fl d.fs (wWord d rd k l) sc)) LaneR.zero

/-- ACC(i, l)[r] of block b with a block format: its row's K blocks in order. -/
def wLaneBlk (d : Opd) (rd : ObRd) (b r l : Nat) (row : List (Blk × Nat)) : LaneR :=
  have per := 32 / d.k
  (List.range row.length).foldl (fun a c =>
    match row[c]? with
    | some (blk, _) =>
      a.block d.isInt d.fl (slotId b ((r * 128 + c) * 4)) blk ((List.range per).flatMap (fun x => wWord d rd (c * per + x) l))
    | none => a) LaneR.zero

/-- Block b of Form W: for each lane of LANES, STRANDS × POS rows (R73, R75). `strm` gives strand i's blocks. -/
def wBlock (d : Opd) (rd : ObRd) (strm : List (List (Blk × Nat))) (b : Nat) : List (List LaneR × Nat) :=
  d.laneList.flatMap (fun l => (List.range d.strands).flatMap (fun i => (List.range d.pos).map (fun r =>
    have n := (b * d.strands + i) * d.pos + r
    if d.isBlk then
      have row := (((strm[i]?).getD []).drop ((b * d.pos + r) * d.cols)).take d.cols
      ([wLaneBlk d rd b r l row], n)
    else ([wLane d rd b i r l], n))))

/-! ### Element-wise (R76) -/

/-- Block b of EW: LOADS × STRANDS × 8 products. -/
def ewBlock (d : Opd) (rd : ObRd) (b : Nat) : List (List LaneR × Nat) :=
  have w := opWidth d.fl
  (List.range d.loads).flatMap (fun q => (List.range d.strands).flatMap (fun i =>
    have k := b * d.loads + q
    have sc := rd (wStart d rd i + k * opWidth d.fs) (opWidth d.fs)
    have ls := rd (d.lBase + (q * d.strands + i) * w) w
    (List.range 8).map (fun l =>
      have t := if d.isInt then ofSigned 32 (intVal d.fl (elemCode d.fl ls l) * intVal d.fs (elemCode d.fs sc l))
        else f32mul (widen d.fl (elemCode d.fl ls l)) (widen d.fs (elemCode d.fs sc l))
      ([LaneR.zero.slot d.isInt (slotId b q) t], i * 8 + l))))

/-! ### The drain (R73) -/

/-- Result of one drained element: code, output saturation, NaN event. -/
def drainElem (d : Opd) (lanes : List LaneR) (part : Option Nat) (scale bias : F32) : Nat × Bool × Bool :=
  have a := match lanes with
    | [] => 0
    | x :: xs => xs.foldl (fun a y => (accAdd d.accInt a y.acc).1) x.acc
  have a := match part with
    | some p => (accAdd d.accInt p a).1
    | none => a
  if d.mode = 0 ∨ d.mode = 1 then (a, false, false)
  else
    have y := f32add (f32mul (if d.accInt then f32ofInt (toSigned 32 a) else a) scale) bias
    have y := if d.relu && f32lt y 0 then 0 else y
    let (c, st, nan) := cvtOut d.fo d.zp y
    (c, st, nan && (ffmtOf d.fo).isNone)

/-- Format of the written elements: 4-byte partials in WRITE and ACCUMULATE. -/
def Opd.outFmt (d : Opd) : Nat := if d.mode = 0 ∨ d.mode = 1 then 7 else d.fo

/-- Elements of a block's output tile. -/
def Opd.elems (d : Opd) : Nat :=
  if d.form = 0 then 64 * d.sg else if d.form = 1 then d.laneList.length * d.strands * d.pos else d.loads * d.strands * 8

/-! ### Duration (R83) -/

/-- Slot cycles of a block. -/
def Opd.slotCycles (d : Opd) : Nat :=
  have wides := if d.form = 1 && d.isBlk then ((List.range 32).filter (bitAt d.wide)).length else 0
  d.pos * (d.loads * d.cps - wides * (32 / d.k * d.cps) + wides * 32)

/-- Drain time of a block. -/
def Opd.drainCycles (d : Opd) : Nat :=
  if d.mode = 1 ∨ d.mode = 2 then ceilDiv (d.elems * 4) 256 else ceilDiv (fmtBytes d.outFmt d.elems) 512

/-- The loop of R83: drain end cycles in order, the stall cycles, and the first stalled block. -/
def drainEnds (d : Opd) : List Nat × Nat × Option Nat :=
  let (_, es, st, fb) := (List.range d.blocks).foldl (fun (acc : Nat × List Nat × Nat × Option Nat) b =>
    let (t, es, st, fb) := acc
    have e2 := if b < 2 then 0 else (es[b - 2]?).getD 0
    have e1 := if b < 1 then 0 else (es[b - 1]?).getD 0
    have t := t + d.slotCycles
    let (t, st, fb) := if t + 4 < e2 then (e2 - 4, st + (e2 - 4 - t), fb.or (some b)) else (t, st, fb)
    (t, es ++ [max (t + 4) e1 + d.drainCycles], st, fb)) (8, [], 0, none)
  (es, st, fb)

/-- D of R83 in ARITH cycles. -/
def Opd.duration (d : Opd) : Nat := (drainEnds d).1.getLastD 0

/-! ### Tiles an engine reads -/

/-- Offsets and lengths read on the L side. -/
def lRange (d : Opd) : Nat × Nat :=
  (d.lBase, if d.form = 2 then d.loads * d.strands * opWidth d.fl
            else d.loads * 8 * d.sb d.fl * (if d.form = 1 then 1 else d.strands))

/-- Offsets and lengths block b reads on the S side. -/
def sRanges (d : Opd) (rd : ObRd) (strm : List (List (Blk × Nat))) (b : Nat) : List (Nat × Nat) :=
  if d.form = 0 then
    (List.range d.loads).flatMap (fun q => (List.range d.pos).filterMap (fun p =>
      have x : Int := (b * d.xStep + p : Nat) - (d.padLo : Int)
      if x < 0 ∨ (d.imgW : Int) ≤ x then none
      else some (d.sBase + x.toNat * d.pStride + q * d.qStride, d.sb d.fs)))
  else
    (d.sBase, 2 * d.strands) :: (List.range d.strands).flatMap (fun i =>
      if d.form = 1 && d.isBlk then
        (((((strm[i]?).getD []).drop (b * d.pos * d.cols)).take (d.pos * d.cols))).map (fun x => (x.2, x.1.len))
      else
        have w := if d.form = 2 then d.loads * opWidth d.fs else d.pos * d.loads * d.sb d.fs
        [(wStart d rd i + b * w, w)])

def overlaps (a : Nat × Nat) (r : Resid) : Bool := decide (a.1 < r.off + r.len) && decide (r.off < a.1 + a.2)

/-- Receive the resident tiles of engine e: header, whether void, and the place of each. -/
def State.receiveResid (s : State) (p e st : Nat) (quiet : Bool) (rs : List Resid) : List (Resid × Hdr × Bool) × State :=
  rs.foldl (fun acc r =>
    let (h, _, v, s) := acc.2.receive (srcInput p) st p 0 (keyObHdr p e r.off) (keyOb p e r.off) r.stream (acc.2.streamBell r.stream)
      r.idx r.len quiet
    (acc.1 ++ [(r, h, v)], s)) ([], s)

/-- Strand state of an engine. -/
def State.eng (s : State) (p e : Nat) : Eng := (smFind s.engs (p * 8 + e)).getD Eng.reset
def State.setEng (s : State) (p e : Nat) (x : Eng) : State := { s with engs := smInsert s.engs (p * 8 + e) x }

/-! ### MM and EW -/

/-- Send NUM_NAN, DRAIN_STALL or SCATTER_RANGE: output tile and station (Table 3-7). -/
def State.numFault (s : State) (src : Nat) (k : Kind) (stream idx st : Nat) : State := s.send src k (tileAddr stream idx st)

/-- Run an operation on engine e of logical core n: its output tiles, and the counts and faults it leaves (R65 to R76). -/
def State.engineRun (s : State) (n e st w : Nat) (d : Opd) : List TileW × State :=
  have p := s.phys n
  have rd : ObRd := fun off len => s.rdN (keyOb p e off) len
  have quiet := insVoidOk w
  have strm : List (List (Blk × Nat)) :=
    if d.form = 1 && d.isBlk then (List.range d.strands).map (fun i => blocksAt rd d.fs (d.blocks * d.pos * d.cols) (wStart d rd i)) else []
  have rs := s.resid.filter (fun r => r.p == p && r.e == e &&
     (overlaps (lRange d) r || (List.range d.blocks).any (fun b => (sRanges d rd strm b).any (fun x => overlaps x r))))
  let (tiles, s) := s.receiveResid p e st quiet rs
  have maxN := if d.form = 0 then d.sg * 8 else if d.form = 1 then d.blocks * d.strands * d.pos else d.strands * 8
  let (tab, tabOk, s) := if d.mode = 0 ∨ d.mode = 1 then (([] : List Byte), true, s)
    else s.load false 0 (keyDesk p d.chan) (8 * maxN)
  let (ends, stall, stallB) := drainEnds d
  have t0 := s.now
  have len := fmtBytes d.outFmt d.elems
  let (outs, sat, osat, nans, dnan, s) := (List.range d.blocks).foldl
    (fun (acc : List TileW × Nat × Nat × List Nat × Option Nat × State) b =>
      let (outs, sat, osat, nans, dnan, s) := acc
      have vals := if d.form = 0 then tBlock d rd b else if d.form = 1 then wBlock d rd strm b else ewBlock d rd b
      have key := keyDesk p (d.out + b * d.outStride)
      have used := tiles.filter (fun x => overlaps (lRange d) x.1 || (sRanges d rd strm b).any (fun y => overlaps y x.1))
      let (ph, pb, pv, s) := if d.mode = 1 ∨ d.mode = 2 then
          let (h, b', v, s) := s.receive (srcInput p) st p 0 key (key + 32) d.stream (s.streamBell d.stream) (d.tile + b) (4 * d.elems) quiet
          ([h], b', v, s)
        else (([] : List Hdr), ([] : List Byte), false, s)
      have res := (List.range vals.length).map (fun x =>
         match vals[x]? with
         | some (ls, c) =>
           drainElem d ls (if d.mode = 1 ∨ d.mode = 2 then some (leAt pb (4 * x) 4) else none) (leAt tab (8 * c) 4) (leAt tab (8 * c + 4) 4)
         | none => (0, false, false))
      have lanes := vals.flatMap (fun v => v.1)
      have void := pv || !tabOk || used.any (fun x => x.2.2)
      have h := s.mkHdr d.stream (d.tile + b) len (used.map (fun x => x.2.1) ++ ph) 0 void
      (outs ++ [{ key := key, hbytes := h.front, pbytes := packCodes d.outFmt (res.map (fun x => x.1)),
                  t := t0 + 2 * (ends[b]?).getD 0 }],
       sat + lanes.foldl (fun a l => a + l.sat) 0, osat + (res.filter (fun x => x.2.1)).length,
       nans ++ (lanes.flatMap (fun l => l.nans)).eraseDups, if res.any (fun x => x.2.2) then dnan.or (some b) else dnan, s))
    (([] : List TileW), 0, 0, [], none, s)
  have src := srcEngine p e
  have slots := d.blocks * d.pos * d.loads
  have slots := if d.form = 1 && d.isBlk then
      d.blocks * d.pos * (d.loads - ((List.range 32).filter (bitAt d.wide)).length * (32 / d.k) + ((List.range 32).filter (bitAt d.wide)).length * 4)
    else slots
  have s := s.tally (F.ENG_SLOTS_SLOTS p e) slots
  have s := if d.form = 1 then s.tally (F.ENG_BUBBLES_BUBBLES p e) (slots * d.strands * (8 - d.laneList.length)) else s
  have s := ((s.tally (F.ENG_SAT_ACC p e) sat).tally (F.ENG_SAT_OUT p e) osat).tally (F.ENG_STALL_CYCLES p e) stall
  have s := s.bump (F.ENG_NAN_NAN p e) nans.length
  have first : Option Nat := match nans, dnan with
    | [], b => b
    | x :: xs, some b => some (min b (xs.foldl min x / 2 ^ 40))
    | x :: xs, none => some (xs.foldl min x / 2 ^ 40)
  have s := match first with
    | some b => s.numFault src .NUM_NAN d.stream (d.tile + b) st
    | none => s
  have s := match stallB with
    | some b => s.numFault src .DRAIN_STALL d.stream (d.tile + b) st
    | none => s
  (outs, s)

/-- Source of the tiles of a job's unit. -/
def State.jobSrc (s : State) (j : Job) : Nat :=
  have loc := stLoc j.unit
  match stKind j.unit with
  | 3 => srcEngine (s.phys (loc / 8)) (loc % 8)
  | 4 => srcVector (s.phys (loc / 8))
  | 5 => srcMover (s.phys (loc / 8)) (loc % 8)
  | 6 => srcCodec loc
  | 7 => srcAttend
  | 8 => srcDetect loc
  | 9 => srcRubric
  | 0xA => srcEmit
  | _ => srcHmover loc

/-- The outputs of a job land, whole up to a tick and void after it (R44, R92). -/
def State.flush (s : State) (j : Job) (t : Nat) : State :=
  j.outs.foldl (fun s o =>
    have h := parseHdr (o.hbytes ++ leBytes 4 0)
    have h := if o.t ≤ t then h else { h with flags := h.flags ||| flVoid }
    s.writeTile j.core (s.jobSrc j) (insDual j.instr) h o.pbytes [.mem o.key]) s

/-- Descriptor form byte of an MM or EW word of physical core p. -/
def State.opdForm (s : State) (p w : Nat) : Nat := s.rdLe (keyDesk p (s.dir p 16 + 64 * insArg w 39 24)) 1

/-- Issue an MM or EW of the named form (R43, R81): the engine runs its descriptor. -/
def State.startEngine (s : State) (n : Nat) (kind : JobKind) (op form : Nat) : State :=
  match s.issue n (fun w => insOp w == op && s.opdForm (s.phys n) w == form && !s.unitBusy (insArg w 55 40)) with
  | (none, s) => s
  | (some (w, _, i), s) =>
    have p := s.phys n
    match s.loadCode n (keyDesk p (s.dir p 16 + 64 * insArg w 39 24)) 64 with
    | (none, s) => s
    | (some b, s) =>
      have d := parseOpd b
      have st := insArg w 55 40
      have e := stLoc st % 8
      let (outs, s1) := s.engineRun n e st w d
      have s1 := (s1.wf (F.ENG_STATUS_BUSY p e) 1).wf (F.ENG_STATUS_FORM p e) (form % 2)
      s1.startJob
        { kind := kind, core := n, unit := st, task := insTask w, at0 := s.now, due := s.now + 2 * d.duration, instr := w, idx := i,
          deadline := 0, desc := b, outs := outs }

/-- MM_FORM_T (R68). -/
def execMmFormT (core : Fin 64) (s : State) : Host.Outcome State Fault Refusal := .next (s.startEngine core.val .mm 0x10 0)

/-- MM_FORM_W (R69). -/
def execMmFormW (core : Fin 64) (s : State) : Host.Outcome State Fault Refusal := .next (s.startEngine core.val .mm 0x10 1)

/-- EW (R76). -/
def execEw (core : Fin 64) (s : State) : Host.Outcome State Fault Refusal := .next (s.startEngine core.val .ew 0x11 2)

/-- Record a completed DUAL MM or EW for evidence: at most 256 per region (R388). -/
def State.noteMm (s : State) (j : Job) : State :=
  match insDual j.instr with
  | none => s
  | some pt =>
    have p := s.phys j.core
    have e := stLoc j.unit % 8
    have crc := crcRun 0xFFFFFFFF (j.outs.flatMap (fun o => s.rdN o.key 32)) ^^^ 0xFFFFFFFF
    have r : MmRec := { idx := j.idx, phys := p, unit := j.unit, desc := j.desc, crc := crc, slots := (s.eng p e).slots }
    s.setSeq j.core (fun q => { q with digs := q.digs.map (fun d =>
      if d.partner == pt && decide (d.recs.length < 256) then { d with recs := d.recs ++ [r] } else d) })

/-- MM_COMPLETE (R44, R83): the engine ends its MM or EW D cycles after issue and its output tiles are in the desk. -/
def execMmComplete (engine : BitVec 16) (s : State) : Host.Outcome State Fault Refusal :=
  match s.jobAt engine.toNat with
  | none => .next s
  | some j =>
    if j.kind ≠ .mm ∧ j.kind ≠ .ew then .next s
    else
      have s := ((s.advanceTo j.due).flush j j.due).noteMm j
      have p := s.phys j.core
      .next ((s.wf (F.ENG_STATUS_BUSY p (stLoc j.unit % 8)) 0).endJob j)

/-! ### Strand rotation (R77, R78) -/

/-- Replace one strand by another in the slots. -/
def takeSlots (slots : List Nat) : List Nat → List Nat → List Nat
  | v :: vs, l :: ls => takeSlots (slots.map (fun x => if x = v then l + 1000 else x)) vs ls
  | _, _ => slots

/-- One rotation step, with the retirements waiting for it (R77, R78). -/
def Eng.rotate (x : Eng) : Eng :=
  have ret := x.ret ++ x.pend
  have ring := (List.range 100).filter (fun k => !ret.contains k)
  have sp := ring.length - 96
  have last := x.rec0.getLastD 0
  have enter := ((ring.filter (fun k => decide (last < k))) ++ ring.filter (fun k => decide (k ≤ last))).take sp
  have leave := x.rec0.filter (fun k => !ret.contains k)
  have gone := x.pend.filter (fun k => x.slots.contains k)
  have vac := if x.pend.isEmpty then enter else sortBy (enter ++ gone) (fun a b => decide (a ≤ b))
  have slots := (takeSlots x.slots vac leave).map (fun k => if 1000 ≤ k then k - 1000 else k)
  { ret := ret, pend := [], rec0 := enter, slots := slots, entered := x.entered ++ enter }

/-- Spare count s of R77. -/
def Eng.spares (x : Eng) : Nat := 100 - x.ret.length - 96

/-- A queued request of kind 0 starts its turn on an engine at its next SWAP: as many programs as one turn of the ring has steps (R387). -/
def State.turnStart (s : State) (p e : Nat) : State :=
  if s.tst.reqs.any (fun r => r.kind == 0 && r.target == p) && (smFind s.tst.turns (p * 8 + e)).isNone then
    have h := 100 - (s.eng p e).ret.length
    { s with tst := { s.tst with turns := smInsert s.tst.turns (p * 8 + e) (ceilDiv h (max (h - 96) 1)) } }
  else s

/-- SWAP (R53, R77, R78): one rotation step; it holds the engine for 12 cycles. -/
def execSwap (core : Fin 64) (s : State) : Host.Outcome State Fault Refusal :=
  have n := core.val
  match s.issue n (fun w => insOp w == 0x30 && !s.unitBusy (insArg w 55 40)) with
  | (none, s) => .next s
  | (some (w, _, i), s) =>
    have p := s.phys n
    have st := insArg w 55 40
    have e := stLoc st % 8
    have x := s.eng p e
    have y := x.rotate
    have s := (s.setEng p e y).turnStart p e
    have s := ((s.wf (F.ENG_STEP_STEP p e) (insArg w 39 32)).bump (F.ENG_STEP_COUNT p e) 1).wf (F.ENG_STATUS_BUSY p e) 1
    have s := (s.wf (F.ENG_STATUS_SPARES p e) y.spares).wf (F.ENG_STATUS_RECESS0 p e) (y.rec0.headD 0)
    have s := if y.spares < 2 ∧ 2 ≤ x.spares then s.send (srcEngine p e) .SPARE_LOW st else s
    .next (s.startJob
      { kind := .swap, core := n, unit := st, task := 0, at0 := s.now, due := s.now + 24, instr := w, idx := i, deadline := 0,
        desc := [], outs := [] })

end Sys2Proof.Machine
end

