-- ==== Sys2Proof/Machine/Vector.lean ====
section
/-! DEFINITION. The VECTOR station (03, R84 to R88). -/

namespace Sys2Proof.Machine
open Sys2Proof
set_option Elab.async false

/-- One VECTOR op (table before R84). -/
structure Vop where
  op : Nat
  fa : Nat
  fo : Nat
  a : Nat
  b : Nat
  c : Nat
  dst : Nat
  count : Nat
  deriving DecidableEq, Repr

/-- Read an op; tile places are desk word indices of 32 bytes. -/
def parseVop (x : List Byte) : Vop :=
  { op := leAt x 0 1, fa := leAt x 1 1, fo := leAt x 2 1, a := leAt x 4 2 * 32, b := leAt x 6 2 * 32, c := leAt x 8 2 * 32,
    dst := leAt x 10 2 * 32, count := leAt x 12 4 }

/-- Elements per cycle of an op (Table 3-6). -/
def vopRate (op : Nat) : Nat := if op = 0x30 then 64 else if 0x10 ≤ op ∧ op ≤ 0x13 then 128 else 1024

/-- Cycles of an op (R84). -/
def Vop.cycles (v : Vop) : Nat := ceilDiv v.count (vopRate v.op) + 16

/-- Number of input tiles of an op. -/
def vopInputs (op : Nat) : Nat := if op = 3 then 3 else if op = 1 ∨ op = 2 ∨ op = 4 ∨ op = 5 ∨ op = 0x30 then 2 else 1

/-- Element result of an element op (Table 3-6, R85). -/
def vopElem (op : Nat) (a b c : F32) : F32 :=
  match op with
  | 0x01 => f32add a b
  | 0x02 => f32mul a b
  | 0x03 => f32fma a b c
  | 0x04 => f32max a b
  | 0x05 => f32min a b
  | 0x10 => f32exp a
  | 0x11 => f32rcp a
  | 0x12 => f32rsqrt a
  | 0x13 => f32log a
  | _ => a

/-- Pairwise levels: 2m with 2m + 1 (R86). -/
def pairUp (f : F32 → F32 → F32) : List F32 → List F32
  | a :: b :: r => f a b :: pairUp f r
  | l => l

/-- Combine lane results level by level; n bounds the levels. -/
def pairLevels (f : F32 → F32 → F32) : Nat → List F32 → F32
  | 0, l => l.headD 0
  | n + 1, l => pairLevels f n (pairUp f l)

/-- RSUM and RMAX (R86): lane i mod 1,024 in index order, then pairwise. Lanes without an element take no part (log 15). -/
def vecReduce (f : F32 → F32 → F32) (l : List F32) : F32 :=
  have lanes := (List.range (min l.length 1024)).map (fun k =>
     match (List.range (ceilDiv (l.length - k) 1024)).map (fun m => (l[k + 1024 * m]?).getD 0) with
     | [] => 0
     | x :: xs => xs.foldl f x)
  pairLevels f 10 lanes

/-- Is a code at the end of its format's range, for STATS (R88)? -/
def atEnd (f code : Nat) : Bool :=
  match ffmtOf f with
  | some x => code % 2 ^ (x.ew + x.mw) == x.maxCode
  | none => code == 2 ^ (fmtBits f - 1) || code == 2 ^ (fmtBits f - 1) - 1

/-- Order in which n scatter additions arrive: free, since it may differ from run to run (R87). -/
def freeOrder (c n : Nat) : List Nat :=
  sortBy (List.range n) (fun a b => decide ((Config.freeWord (c + a)).toNat ≤ (Config.freeWord (c + b)).toNat))

/-- What a VECTOR program has done so far. -/
structure VRun where
  s : State
  outs : List TileW
  cycles : Nat
  nanSent : Bool

/-- Receive a desk tile of logical core n at VECTOR: its stream and index by its place in the stream table, else by its header. -/
def State.deskTile (s : State) (n st off count fmt : Nat) (quiet : Bool) : Hdr × List Byte × Bool × State :=
  have p := s.phys n
  have h0 := parseHdr (s.rdN (keyDesk p off) 32)
  let (stream, idx) := (s.tileAt (deskAddr n off)).getD (h0.stream % 4096, h0.idx)
  s.receive (srcInput p) st p 0 (keyDesk p off) (keyDesk p off + 32) stream (s.streamBell stream) idx
    (s.streamLen stream (max h0.len (fmtBytes fmt count))) quiet

/-- NaN results of an op: counted in VEC_NAN, and NUM_NAN once per instruction (R85). -/
def VRun.nans (r : VRun) (n st k stream idx : Nat) : VRun :=
  if k = 0 then r
  else
    have p := r.s.phys n
    have s := r.s.bump (F.VEC_NAN_NAN p) k
    if r.nanSent then { r with s := s } else { r with s := s.numFault (srcVector p) .NUM_NAN stream idx st, nanSent := true }

/-- Write an op's output tile into the working desk and note it for completion. -/
def VRun.put (r : VRun) (n dst : Nat) (h : Hdr) (pay : List Byte) : VRun :=
  have p := r.s.phys n
  have hb := h.bytes pay
  { r with s := (r.s.wrN (keyDesk p dst) hb).wrN (keyDesk p dst + 32) pay,
           outs := r.outs ++ [{ key := keyDesk p dst, hbytes := h.front, pbytes := pay, t := 2 * r.cycles }] }

/-- Output stream and index of a desk place; the instruction's stream where the table has none. -/
def State.outTile (s : State) (n w off : Nat) : Nat × Nat := (s.tileAt (deskAddr n off)).getD (insStream w, 0)

/-- Run one op (R84 to R88). -/
def VRun.op (r : VRun) (n st w : Nat) (v : Vop) : VRun :=
  have s := r.s
  have p := s.phys n
  have quiet := insVoidOk w
  have r := { r with cycles := r.cycles + v.cycles }
  have nd := if insNd w then flNd else 0
  let (ha, pa, va, s) := s.deskTile n st v.a v.count v.fa quiet
  let (hs, pb, vb, s) := if 2 ≤ vopInputs v.op then
      let (h, b, x, s) := s.deskTile n st v.b v.count (if v.op = 0x30 then 7 else v.fa) quiet
      ([ha, h], b, x, s)
    else ([ha], ([] : List Byte), false, s)
  let (hs, pc, vc, s) := if 3 ≤ vopInputs v.op then
      let (h, b, x, s) := s.deskTile n st v.c v.count v.fa quiet
      (hs ++ [h], b, x, s)
    else (hs, ([] : List Byte), false, s)
  let (stream, idx) := s.outTile n w v.dst
  have void := va || vb || vc
  have xs := (List.range v.count).map (elemF32 v.fa pa)
  if v.op = 0x30 then
    let (hd, pd, vd, s) := s.deskTile n st v.dst 0 6 quiet
    have m := pd.length / 4
    have idxs := (List.range v.count).map (fun i => leAt pb (4 * i) 4)
    have oor := (idxs.filter (fun i => decide (m ≤ i))).length
    have d0 := (List.range m).map (fun i => leAt pd (4 * i) 4)
    have d := (freeOrder s.freeCount v.count).foldl (fun d i =>
       have k := (idxs[i]?).getD 0
       if m ≤ k then d else d.set k (f32add ((d[k]?).getD 0) ((xs[i]?).getD 0))) d0
    have s := { s with freeCount := s.freeCount + v.count }
    have s := (s.bump (F.VEC_OOR_OOR p) oor).tally (F.VEC_ND_ND p) 1
    have s := if oor = 0 then s else s.numFault (srcVector p) .SCATTER_RANGE stream idx st
    have pay := (d.map (leBytes 4)).flatten
    have h := s.mkHdr stream idx pay.length (hs ++ [hd]) nd (void || vd || decide (0 < oor))
    (({ r with s := s }).nans n st ((d.filter f32isNan).length) stream idx).put n v.dst h pay
  else if v.op = 0x38 then
    have old := s.rdN (keyDesk p v.dst + 32) 16
    have codes := (List.range v.count).map (elemCode v.fa pa)
    have live := codes.filter (fun c => !f32isNan (widen v.fa c))
    have cnt := satU 32 (leAt old 0 4 + (live.filter (atEnd v.fa)).length)
    have mx := live.foldl (fun a c => f32max a (f32abs (widen v.fa c))) (leAt old 4 4)
    have pay := leBytes 4 cnt ++ leBytes 4 mx ++ old.drop 8
    have h := s.mkHdr stream idx 16 hs nd void
    ({ r with s := s }).put n v.dst h pay
  else
    have reduce := v.op == 0x20 || v.op == 0x21
    have ys := if v.op = 0x20 then [vecReduce f32add xs] else if v.op = 0x21 then [vecReduce f32max xs]
      else (List.range v.count).map (fun i =>
        vopElem v.op ((xs[i]?).getD 0) (elemF32 v.fa pb i) (elemF32 v.fa pc i))
    have fo := if reduce then 6 else v.fo
    have cs := ys.map (cvtOut fo 0)
    have s := s.tally (F.VEC_SAT_SAT p) (cs.filter (fun c => c.2.1)).length
    have pay := packCodes fo (cs.map (fun c => c.1))
    have h := s.mkHdr stream idx pay.length hs nd void
    (({ r with s := s }).nans n st ((ys.filter f32isNan).length) stream idx).put n v.dst h pay

/-- The ops of a program, each read as code (R186); none when a word is uncorrectable. -/
def State.loadOps (s : State) (n first : Nat) : Nat → Option (List Vop) × State
  | 0 => (some [], s)
  | k + 1 =>
    match s.loadCode n (keyDesk (s.phys n) (s.dir (s.phys n) 32 + 16 * first)) 16 with
    | (none, s) => (none, s)
    | (some b, s) =>
      match s.loadOps n (first + 1) k with
      | (none, s) => (none, s)
      | (some l, s) => (some (parseVop b :: l), s)

/-- VEC (R81, R84): VECTOR runs the program; its tiles stand in the desk when it completes. -/
def execVec (core : Fin 64) (s : State) : Host.Outcome State Fault Refusal :=
  have n := core.val
  match s.issue n (fun w => insOp w == 0x18 && !s.unitBusy (insArg w 55 40)) with
  | (none, s) => .next s
  | (some (w, _, i), s) =>
    have p := s.phys n
    match s.loadCode n (keyDesk p (s.dir p 24 + 8 * insArg w 39 24)) 8 with
    | (none, s) => .next s
    | (some e, s) =>
      match s.loadOps n (leAt e 0 4) (leAt e 4 2) with
      | (none, s) => .next s
      | (some ops, s) =>
        have st := insArg w 55 40
        have r : VRun := ops.foldl (fun (r : VRun) v => r.op n st w v)
          { s := s, outs := [], cycles := 0, nanSent := false }
        have outs := r.outs.map (fun o => { o with t := s.now + o.t })
        have s1 := { r.s with mem := s.mem }
        .next ((s1.wf (F.VEC_STATUS_BUSY p) 1).startJob
          { kind := .vec, core := n, unit := st, task := insTask w, at0 := s.now, due := s.now + 2 * r.cycles, instr := w, idx := i,
            deadline := 0, desc := [], outs := outs })

/-- VEC_COMPLETE (R44, R84): the program's last op has ended. -/
def execVecComplete (core : Fin 64) (s : State) : Host.Outcome State Fault Refusal :=
  match s.tt.jobs.find? (fun j => j.kind == .vec && j.core == core.val) with
  | none => .next s
  | some j =>
    have s := (s.advanceTo j.due).flush j j.due
    .next ((s.wf (F.VEC_STATUS_BUSY (s.phys j.core)) 0).endJob j)

end Sys2Proof.Machine
end

