-- ==== Sys2Proof/Machine/Station.lean ====
section
/-! DEFINITION. What the chip stations share: taking an STA, reading and writing whole tile streams (02, R33 to R43, R554). -/

namespace Sys2Proof.Machine
open Sys2Proof
set_option Elab.async false

/-- Which copy a DUAL instruction works on: the RUN bit of the core's DIGEST toward that partner (R50); copy A without one. -/
def State.runB (s : State) (n w : Nat) : Bool :=
  match insDual w with
  | none => false
  | some pt =>
    have p := s.phys n
    match ((List.range (s.dir p 4)).map (s.insWord p)).find? (fun x => insOp x == 0x28 && insPartner x == pt) with
    | some x => bitAt x 47
    | none => false

/-- Keys of the tiles of a stream, copy A or B, with the declared payload length (Table 16-8). -/
def State.streamTiles (s : State) (stream : Nat) (copyB : Bool) : List Nat × Nat :=
  match s.streamElem stream with
  | none => ([], 0)
  | some e =>
    have base := if copyB && leAt e 32 5 != 0 then leAt e 32 5 else leAt e 24 5
    ((List.range (leAt e 12 2)).filterMap (fun k => s.addrKey (base + k * leAt e 40 4)), leAt e 16 4)

/-- Receive one tile of a stream at a chip station. -/
def State.recvTile (s : State) (n w src st stream idx : Nat) : Hdr × List Byte × Bool × State :=
  let (ks, len) := s.streamTiles stream (s.runB n w)
  match ks[idx]? with
  | none => (s.mkHdr stream idx len [] 0 true, [], true, s)
  | some k => s.receive src st (s.phys n) 0 k (k + 32) stream (s.streamBell stream) idx len (insVoidOk w)

/-- Receive every tile of a stream: headers, payloads joined, whether any is void. -/
def State.recvStream (s : State) (n w src st stream : Nat) : List Hdr × List Byte × Bool × State :=
  let (ks, _) := s.streamTiles stream (s.runB n w)
  (List.range ks.length).foldl (fun (acc : List Hdr × List Byte × Bool × State) i =>
    let (hs, bs, v, s) := acc
    let (h, b, x, s) := s.recvTile n w src st stream i
    (hs ++ [h], bs ++ b, v || x, s)) ([], [], false, s)

/-- Payload bytes cut or zero-filled to a length. -/
def fitLen (n : Nat) (bs : List Byte) : List Byte := (bs.take n) ++ List.replicate (n - bs.length) 0

/-- Output tiles of a stream holding a payload, in tile order, to land at tick t. -/
def State.putStream (s : State) (n w stream : Nat) (ins : List Hdr) (void : Bool) (pay : List Byte) (t : Nat) : List TileW :=
  let (ks, len) := s.streamTiles stream (s.runB n w)
  (List.range ks.length).filterMap (fun i => (ks[i]?).map (fun k =>
    { key := k, hbytes := (s.mkHdr stream i len ins 0 void).front, pbytes := fitLen len (pay.drop (i * len)), t := t }))

/-- Issue an STA to a station kind that `ok` accepts and whose unit is free (R43, R554). -/
def State.issueSta (s : State) (n kind : Nat) (ok : Nat → Bool) : Option (Nat × Nat × Nat) × State :=
  s.issue n (fun w => insOp w == 0x20 && stKind (insArg w 55 40) == kind && ok w && !s.unitBusy (insArg w 55 40))

/-- Start a station operation of `cycles` ARITH cycles with its output tiles. -/
def State.startSta (s : State) (kind : JobKind) (n w i cycles : Nat) (desc : List Byte) (outs : List TileW) : State :=
  s.startJob
    { kind := kind, core := n, unit := insArg w 55 40, task := insTask w, at0 := s.now, due := s.now + 2 * cycles, instr := w, idx := i,
      deadline := 0, desc := desc, outs := outs }

/-- End a station operation: time passes to its end, its tiles land. -/
def State.endSta (s : State) (j : Job) : State := ((s.advanceTo j.due).flush j j.due).endJob j

/-- Set or clear bit i of a field. -/
def State.setBit (s : State) (f : Fld) (i : Nat) (b : Bool) : State :=
  s.wf f (setBits (s.rf f) i i (if b then 1 else 0))

end Sys2Proof.Machine
end

