-- ==== Sys2Proof/Machine/Detect.lean ====
section
/-! DEFINITION. Pooling, box decoding, non-maximum suppression and feature-map compression (05, R119 to R141). -/

namespace Sys2Proof.Machine
open Sys2Proof
set_option Elab.async false

/-! ### CODEC (R134 to R137) -/

def codecHalf (sh : Nat) : Nat := if sh = 0 then 0 else 2 ^ (sh - 1)

/-- Shift of a block: the smallest that fits the codes (R136). -/
def codecShift (range b : Nat) : Nat :=
  ((List.range 9).find? (fun sh => decide ((range + codecHalf sh) / 2 ^ sh ≤ 2 ^ b - 1))).getD 8

/-- Encode one block of 1 to 64 values into 2 + 8 × b bytes (R135, R136). -/
def codecBlock (v : List Int) (b : Nat) : List Byte :=
  have lo := v.foldl min (v.headD 0)
  have hi := v.foldl max (v.headD 0)
  have sh := codecShift (hi - lo).toNat b
  have codes := v.map (fun x => ((x - lo).toNat + codecHalf sh) / 2 ^ sh)
  have word := ofSigned 8 lo * 256 + sh * 16
  have str := (List.range codes.length).foldl (fun a i => a + ((codes[i]?).getD 0) * 2 ^ (i * b)) 0
  leBytes 2 word ++ leBytes (8 * b) str

/-- Decode element i of a block (R136). -/
def codecElem (blk : List Byte) (b i : Nat) : Int :=
  have w := leAt blk 0 2
  have code := bits (leAt blk 2 (8 * b)) (i * b + b - 1) (i * b)
  clampI (toSigned 8 (w / 256) + (code * 2 ^ bits w 7 4 : Nat)) (-128) 127

/-- Header of a compressed payload (R135). -/
def codecHead (b w h c : Nat) : List Byte :=
  leBytes 1 1 ++ leBytes 1 0 ++ leBytes 1 b ++ leBytes 1 0 ++ leBytes 2 w ++ leBytes 2 h ++ leBytes 2 c ++ leBytes 2 0 ++
    leBytes 4 (ceilDiv (w * h * c) 64)

/-- Compress a payload of n INT8 elements (R135, R136). -/
def codecCompress (b w h c : Nat) (pay : List Byte) : List Byte :=
  have n := w * h * c
  codecHead b w h c ++ (List.range (ceilDiv n 64)).flatMap (fun j =>
    codecBlock ((List.range (min 64 (n - 64 * j))).map (fun i => toSigned 8 (leAt pay (64 * j + i) 1))) b)

/-- The checks of R137 on a compressed payload of declared length len. -/
def codecRejects (b w h c len : Nat) (pay : List Byte) : Bool :=
  have n := w * h * c
  have blocks := ceilDiv n 64
  pay.take 16 != codecHead b w h c || decide (w = 0 ∨ h = 0 ∨ c = 0 ∨ 65536 < n) || decide (len ≠ 16 + blocks * (2 + 8 * b)) ||
    (List.range blocks).any (fun j => have x := leAt pay (16 + j * (2 + 8 * b)) 2; decide (8 < bits x 7 4) || x % 16 != 0)

/-- Expand a compressed payload (R136). -/
def codecExpand (b w h c : Nat) (pay : List Byte) : List Byte :=
  have n := w * h * c
  (List.range (ceilDiv n 64)).flatMap (fun j =>
    have blk := (pay.drop (16 + j * (2 + 8 * b))).take (2 + 8 * b)
    (List.range (min 64 (n - 64 * j))).map (fun i => BitVec.ofInt 8 (codecElem blk b i)))

/-- CODEC descriptor of an STA in the current plan's table (R134). -/
def State.codecDesc (s : State) (w : Nat) : List Byte := recElem (s.recBytes recCodec s.ctxPlan) 32 (insArg w 39 24)

/-- Run a CODEC operation: one output tile per input tile. -/
def State.codecOp (s : State) (n op : Nat) : State :=
  match s.issueSta n 6 (fun w => leAt (s.codecDesc w) 0 1 == op) with
  | (none, s) => s
  | (some (ins, _, i), s) =>
    have d := s.codecDesc ins
    have st := insArg ins 55 40
    have u := stLoc st
    have b := leAt d 2 1
    let (w, h, c) := (leAt d 4 2, leAt d 6 2, leAt d 8 2)
    have inS := leAt d 10 2 % 4096
    have outS := leAt d 12 2 % 4096
    have tiles := leAt d 14 2
    have cycles := tiles * (ceilDiv (w * h * c) 256 + 16)
    have t := s.now + 2 * cycles
    let (ks, olen) := s.streamTiles outS (s.runB n ins)
    let (outs, s) := (List.range tiles).foldl (fun (acc : List TileW × State) k =>
      let (outs, s) := acc
      let (hd, pay, void, s) := s.recvTile n ins (srcCodec u) st inS k
      have rej := !void && op == 2 && codecRejects b w h c hd.len pay
      have s := if rej then
          (s.send (srcCodec u) .CODEC_FORMAT (tileAddr inS k st)).bump (F.DET_CODEC_REJECT u) 1
        else s
      have out := if op = 1 then codecCompress b w h c pay else codecExpand b w h c pay
      have tw : List TileW := match ks[k]? with
        | some key => [{ key := key, hbytes := (s.mkHdr outS k olen [hd] 0 (void || rej)).front, pbytes := fitLen olen out, t := t }]
        | none => []
      (outs ++ tw, s)) ([], s)
    have s := (s.tally (F.DET_CODEC_TILES u) tiles).setBit F.DET_STATUS_CBUSY u true
    s.startSta .codec n ins i cycles d outs

/-- COMPRESS (R134 to R136). -/
def execCompress (core : Fin 64) (s : State) : Host.Outcome State Fault Refusal := .next (s.codecOp core.val 1)

/-- EXPAND (R134 to R137). -/
def execExpand (core : Fin 64) (s : State) : Host.Outcome State Fault Refusal := .next (s.codecOp core.val 2)

/-- CODEC_COMPLETE (R134). -/
def execCodecComplete (unit : Fin 8) (s : State) : Host.Outcome State Fault Refusal :=
  match s.tt.jobs.find? (fun j => j.kind == .codec && stLoc j.unit == unit.val) with
  | none => .next s
  | some j => .next ((s.setBit F.DET_STATUS_CBUSY unit.val false).endSta j)

/-! ### Pooling (R121, R125) -/

/-- Window geometry of a window record (Table 5-1). -/
structure Win where
  inH : Nat
  inW : Nat
  c : Nat
  kh : Nat
  kw : Nat
  sh : Nat
  sw : Nat
  dh : Nat
  dw : Nat
  pt : Nat
  pl : Nat
  outH : Nat
  outW : Nat
  pad : Nat
  deriving DecidableEq, Repr

def parseWin (b : List Byte) : Win :=
  { inH := leAt b 2 2, inW := leAt b 4 2, c := leAt b 6 2, kh := leAt b 8 1, kw := leAt b 9 1, sh := leAt b 10 1, sw := leAt b 11 1,
    dh := leAt b 12 1, dw := leAt b 13 1, pt := leAt b 14 1, pl := leAt b 16 1, outH := leAt b 18 2, outW := leAt b 20 2, pad := leAt b 22 2 }

/-- Element index of each tap of an output, in tap order; none for a padding tap (R121). -/
def Win.taps (g : Win) (y x ch : Nat) : List (Option Nat) :=
  (List.range g.kh).flatMap (fun ky => (List.range g.kw).map (fun kx =>
    have r : Int := (y * g.sh + ky * g.dh : Nat) - (g.pt : Int)
    have u : Int := (x * g.sw + kx * g.dw : Nat) - (g.pl : Int)
    if r < 0 ∨ (g.inH : Int) ≤ r ∨ u < 0 ∨ (g.inW : Int) ≤ u then none
    else some ((r.toNat * g.inW + u.toNat) * g.c + ch)))

/-- Code of one pooled element (Table 5-4). -/
def poolElem (max' excl : Bool) (fmt padCode : Nat) (pay : List Byte) (taps : List (Option Nat)) : Nat :=
  have img := taps.filterMap id
  if (max' || excl) && img.isEmpty then padCode % 2 ^ fmtBits fmt
  else if max' then
    match img.map (elemF32 fmt pay) with
    | [] => 0
    | v :: vs => (cvtOut fmt 0 (vs.foldl f32max v)).1
  else
    have n := if excl then img.length else taps.length
    have inv := f32div 0x3F800000 (f32ofInt n)
    if fmt = 0 then
      have zp := intVal 0 padCode
      have sum := img.foldl (fun a i => a + (intVal 0 (elemCode 0 pay i) - zp)) (0 : Int)
      (cvtOut 0 zp (f32mul (f32ofInt sum) inv)).1
    else
      have vals := taps.filterMap (fun t => match t with
         | some i => some (elemF32 fmt pay i)
         | none => if excl then none else some (widen fmt padCode))
      match vals with
      | [] => 0
      | v :: vs => (cvtOut fmt 0 (f32mul (vs.foldl f32add v) inv)).1

/-- The pooled map, channel-last and row-major (R125). -/
def poolMap (max' excl : Bool) (fmt : Nat) (g : Win) (pay : List Byte) : List Byte :=
  packCodes fmt ((List.range g.outH).flatMap (fun y => (List.range g.outW).flatMap (fun x => (List.range g.c).map (fun ch =>
    poolElem max' excl fmt g.pad pay (g.taps y x ch)))))

/-! ### Decoding (R128 to R130) -/

/-- Fields of a DETECT descriptor (Table 5-5). -/
structure Det where
  kind : Nat
  fmt : Nat
  classes : Nat
  agnostic : Bool
  excl : Bool
  inS : Nat
  headS : Nat
  auxS : Nat
  outS : Nat
  cand : Nat
  keep : Nat
  win : Nat
  anchors : Nat
  nIn : Nat
  th : F32
  iouTh : F32
  clip : F32
  cellX : F32
  cellY : F32
  orgX : F32
  orgY : F32
  gridW : Nat
  deriving DecidableEq, Repr

def parseDet (b : List Byte) : Det :=
  { kind := leAt b 0 1, fmt := leAt b 1 1, classes := leAt b 2 1, agnostic := bitAt (leAt b 3 1) 0, excl := bitAt (leAt b 3 1) 1,
    inS := leAt b 4 2 % 4096, headS := leAt b 6 2 % 4096, auxS := leAt b 8 2 % 4096, outS := leAt b 10 2 % 4096, cand := leAt b 12 2,
    keep := leAt b 14 2, win := leAt b 16 2, anchors := leAt b 18 2, nIn := leAt b 20 4, th := leAt b 24 4, iouTh := leAt b 28 4,
    clip := leAt b 32 4, cellX := leAt b 36 4, cellY := leAt b 40 4, orgX := leAt b 44 4, orgY := leAt b 48 4, gridW := leAt b 52 2 }

/-- A candidate: element index, logit, class, cell, anchor. -/
structure Cand where
  e : Nat
  q : F32
  k : Nat
  m : Nat
  a : Nat
  deriving DecidableEq, Repr

/-- Order of R129: q descending, then class, cell and anchor ascending. -/
def candLe (x y : Cand) : Bool :=
  if f32lt y.q x.q then true
  else if f32lt x.q y.q then false
  else if x.k ≠ y.k then decide (x.k < y.k)
  else if x.m ≠ y.m then decide (x.m < y.m)
  else decide (x.a ≤ y.a)

/-- Candidates of IN in order, and whether a NaN logit was met (R129). -/
def candidates (d : Det) (pay aux : List Byte) : List Cand × Bool :=
  have center := d.kind == 3 || d.kind == 4
  have all := (List.range d.nIn).map (fun e =>
     have cells := max (d.classes * d.anchors) 1
     ({ e := e, q := elemF32 d.fmt pay e, k := e % max d.classes 1, m := e / cells, a := (e / max d.classes 1) % max d.anchors 1 } : Cand))
  have ok := all.filter (fun c => f32le d.th c.q && (!decide center || f32eq c.q (elemF32 d.fmt aux c.e)))
  (sortBy ok candLe, all.any (fun c => f32isNan c.q))

def f32half : F32 := 0x3F000000

/-- Decoded record of a candidate, and its FP32 fields (R128, R130). -/
def decodeCand (d : Det) (head aux : List Byte) (c : Cand) : List Byte × List F32 :=
  have nh := if d.kind = 4 then 8 else 4
  have hd (i : Nat) : F32 := elemF32 d.fmt head ((c.m * d.anchors + c.a) * nh + i)
  have an (i : Nat) : F32 := elemF32 d.fmt aux ((c.m * d.anchors + c.a) * 4 + i)
  have score := f32rcp (f32add 0x3F800000 (f32exp (f32neg c.q)))
  have sz (x : F32) : F32 := f32exp (f32min x d.clip)
  have u := f32ofInt (c.m % max d.gridW 1 : Nat)
  have v := f32ofInt (c.m / max d.gridW 1 : Nat)
  have box (cx cy w h : F32) : List F32 :=
    [f32sub cx (f32mul f32half w), f32sub cy (f32mul f32half h), f32add cx (f32mul f32half w), f32add cy (f32mul f32half h), 0, 0, 0, 0]
  have gx := f32add d.orgX (f32mul (f32add u (hd 0)) d.cellX)
  have gy := f32add d.orgY (f32mul (f32add v (hd 1)) d.cellY)
  have geo :=
    if d.kind = 2 then
      box (f32add (an 0) (f32mul (hd 0) (an 2))) (f32add (an 1) (f32mul (hd 1) (an 3))) (f32mul (an 2) (sz (hd 2))) (f32mul (an 3) (sz (hd 3)))
    else if d.kind = 3 then box gx gy (f32mul (sz (hd 2)) d.cellX) (f32mul (sz (hd 3)) d.cellY)
    else
      have n2 := f32add (f32mul (hd 6) (hd 6)) (f32mul (hd 7) (hd 7))
      have r := f32rsqrt n2
      let (sn, cs) := if f32eq n2 0 then (0, 0x3F800000) else (f32mul (hd 6) r, f32mul (hd 7) r)
      [gx, gy, hd 2, sz (hd 3), sz (hd 4), sz (hd 5), sn, cs]
  (leBytes 2 c.k ++ leBytes 2 0 ++ leBytes 4 score ++ (geo.map (leBytes 4)).flatten ++ leBytes 4 c.e ++ leBytes 4 0, score :: geo)

/-- Detection tile: 16-byte prefix with COUNT, then `cap` records, zero beyond COUNT (R128). -/
def detTile (cap : Nat) (recs : List (List Byte)) : List Byte :=
  fitLen (16 + cap * 48) (leBytes 4 recs.length ++ List.replicate 12 0 ++ recs.flatten)

/-! ### Non-maximum suppression (R131 to R133) -/

/-- FP32 field i of the geometry of a record (Table 5-7). -/
def recGeo (r : List Byte) (i : Nat) : F32 := leAt r (8 + 4 * i) 4

/-- inter ÷ un, or 0 when un ≤ 0. -/
def iouOf (ua ub inter : F32) : F32 :=
  have un := f32sub (f32add ua ub) inter
  if f32le un 0 then 0 else f32div inter un

/-- Axis-aligned IoU (R132). -/
def iouAxis (a b : List Byte) : F32 :=
  have x (r : List Byte) (i : Nat) := recGeo r i
  have iw := f32sub (f32min (x a 2) (x b 2)) (f32max (x a 0) (x b 0))
  have ih := f32sub (f32min (x a 3) (x b 3)) (f32max (x a 1) (x b 1))
  have iw := if f32lt iw 0 then 0 else iw
  have ih := if f32lt ih 0 then 0 else ih
  iouOf (f32mul (f32sub (x a 2) (x a 0)) (f32sub (x a 3) (x a 1))) (f32mul (f32sub (x b 2) (x b 0)) (f32sub (x b 3) (x b 1))) (f32mul iw ih)

/-- Corners of a BEV box, counter-clockwise (R133). -/
def bevCorners (r : List Byte) : List (F32 × F32) :=
  have x := recGeo r 0
  have y := recGeo r 1
  have hl := f32mul f32half (recGeo r 3)
  have hw := f32mul f32half (recGeo r 4)
  have sn := recGeo r 6
  have cs := recGeo r 7
  have ax := f32mul hl cs
  have ay := f32mul hl sn
  have vx := f32neg (f32mul hw sn)
  have vy := f32mul hw cs
  [(f32sub (f32add x ax) vx, f32sub (f32add y ay) vy), (f32add (f32add x ax) vx, f32add (f32add y ay) vy),
   (f32add (f32sub x ax) vx, f32add (f32sub y ay) vy), (f32sub (f32sub x ax) vx, f32sub (f32sub y ay) vy)]

/-- One clip of a polygon against the edge e to f (R133). -/
def bevClip (l : List (F32 × F32)) (e f : F32 × F32) : List (F32 × F32) :=
  have ex := f32sub f.1 e.1
  have ey := f32sub f.2 e.2
  have side (p : F32 × F32) : F32 := f32sub (f32mul ex (f32sub p.2 e.2)) (f32mul ey (f32sub p.1 e.1))
  (List.range l.length).flatMap (fun i =>
    have cur := (l[i]?).getD (0, 0)
    have nxt := (l[(i + 1) % l.length]?).getD (0, 0)
    have dc := side cur
    have dn := side nxt
    have a := if f32le 0 dc then [cur] else []
    have b := if f32le 0 dc != f32le 0 dn then
        have t := f32div dc (f32sub dc dn)
        [(f32add cur.1 (f32mul t (f32sub nxt.1 cur.1)), f32add cur.2 (f32mul t (f32sub nxt.2 cur.2)))]
      else []
    a ++ b)

/-- The four clips; none when fewer than three vertices are left. -/
def bevClips (q : List (F32 × F32)) : Nat → List (F32 × F32) → Option (List (F32 × F32))
  | 0, l => some l
  | n + 1, l =>
    have k := 3 - n
    have o := bevClip l ((q[k]?).getD (0, 0)) ((q[(k + 1) % 4]?).getD (0, 0))
    if o.length < 3 then none else bevClips q n o

/-- Ground-plane IoU (R133). -/
def iouBev (a b : List Byte) : F32 :=
  have ua := f32mul (recGeo a 3) (recGeo a 4)
  have ub := f32mul (recGeo b 3) (recGeo b 4)
  if f32eq ua 0 || f32eq ub 0 then 0
  else match bevClips (bevCorners b) 4 (bevCorners a) with
    | none => 0
    | some l =>
      have acc := (List.range l.length).foldl (fun acc i =>
         have p := (l[i]?).getD (0, 0)
         have q := (l[(i + 1) % l.length]?).getD (0, 0)
         f32add acc (f32sub (f32mul p.1 q.2) (f32mul q.1 p.2))) 0
      iouOf ua ub (f32mul (f32abs acc) f32half)

/-- The loop of R131: kept records in keep order. -/
def nmsLoop (d : Det) (iou : List Byte → List Byte → F32) (recs : List (List Byte)) : List (List Byte) :=
  have same (a b : List Byte) : Bool := d.agnostic || leAt a 0 2 == leAt b 0 2
  recs.foldl (fun kept r =>
    if kept.length < d.keep && !kept.any (fun k => same k r && f32lt d.iouTh (iou k r)) then kept ++ [r] else kept) []

/-! ### DETECT operations -/

/-- DETECT descriptor of an STA in the current plan's table (R126). -/
def State.detDesc (s : State) (w : Nat) : List Byte := recElem (s.recBytes recDetect s.ctxPlan) 64 (insArg w 39 24)

/-- Cycles of a DETECT operation (Table 5-6). -/
def detCycles (d : Det) (g : Win) : Nat :=
  if d.kind ≤ 1 then ceilDiv (g.outH * g.outW * g.c * g.kh * g.kw) 256 + 32
  else if d.kind ≤ 4 then ceilDiv d.nIn 64 + 2 * d.cand + 64
  else ceilDiv (d.cand * (d.cand - 1)) (2 * (if d.kind = 5 then 32 else 8)) + d.cand + 64

/-- Run a decode kind on its inputs: payload and counts (R129, R130). -/
def State.decodeOp (s : State) (u st : Nat) (d : Det) (pay head aux : List Byte) : List Byte × State :=
  let (cs, nan) := candidates d pay aux
  have s := if nan then s.numFault (srcDetect u) .NUM_NAN d.outS 0 st else s
  have excess := cs.length - d.cand
  have s := if excess = 0 then s
    else (s.bump (F.DET_OVF_OVF u) excess).send (srcDetect u) .DET_CAND_OVF (tileAddr d.inS 0 st)
  have recs := (cs.take d.cand).map (decodeCand d head aux)
  have s := s.tally (F.DET_KEPT_CAND u) recs.length
  have bad := (List.range recs.length).filter (fun i => ((recs[i]?).map (fun r => r.2.any (fun x => !f32isFinite x))).getD false)
  have s := bad.foldl (fun s i => (s.bump (F.DET_OVF_NONFIN u) 1).send (srcDetect u) .DET_NONFINITE (tileAddr d.inS i st)) s
  (detTile d.cand ((recs.filter (fun r => r.2.all f32isFinite)).map (fun r => r.1)), s)

/-- Run an NMS kind on its candidate tile (R131). -/
def State.nmsOp (s : State) (u : Nat) (d : Det) (pay : List Byte) : List Byte × State :=
  have recs := (List.range (min (leAt pay 0 4) d.cand)).map (fun i => (pay.drop (16 + 48 * i)).take 48)
  have kept := nmsLoop d (if d.kind = 5 then iouAxis else iouBev) recs
  (detTile d.keep kept, s.tally (F.DET_KEPT_KEPT u) kept.length)

/-- Run a DETECT operation of one kind (R126 to R133). -/
def State.detectOp (s : State) (n kind : Nat) : State :=
  match s.issueSta n 8 (fun w => leAt (s.detDesc w) 0 1 == kind) with
  | (none, s) => s
  | (some (ins, _, i), s) =>
    have b := s.detDesc ins
    have d := parseDet b
    have st := insArg ins 55 40
    have u := stLoc st
    have g := parseWin (recElem (s.recBytes recWindow s.ctxPlan) 32 d.win)
    have src := srcDetect u
    let (h1, pay, v1, s) := s.recvStream n ins src st d.inS
    have decode := decide (2 ≤ kind ∧ kind ≤ 4)
    let (h2, head, v2, s) := if decode then s.recvStream n ins src st d.headS else (([] : List Hdr), ([] : List Byte), false, s)
    let (h3, aux, v3, s) := if decode then s.recvStream n ins src st d.auxS else (([] : List Hdr), ([] : List Byte), false, s)
    have void := v1 || v2 || v3
    let (out, s) :=
      if void then (([] : List Byte), s)
      else if kind ≤ 1 then (poolMap (kind == 0) d.excl d.fmt g pay, s)
      else if decode then s.decodeOp u st d pay head aux
      else s.nmsOp u d pay
    have cycles := detCycles d g
    have outs := s.putStream n ins d.outS (h1 ++ h2 ++ h3) void out (s.now + 2 * cycles)
    (s.setBit F.DET_STATUS_BUSY u true).startSta .detect n ins i cycles b outs

/-- POOL_MAX (R125). -/
def execPoolMax (core : Fin 64) (s : State) : Host.Outcome State Fault Refusal := .next (s.detectOp core.val 0)
/-- POOL_AVG (R125). -/
def execPoolAvg (core : Fin 64) (s : State) : Host.Outcome State Fault Refusal := .next (s.detectOp core.val 1)
/-- ANCHOR_2D (R129, R130). -/
def execAnchor2d (core : Fin 64) (s : State) : Host.Outcome State Fault Refusal := .next (s.detectOp core.val 2)
/-- CENTER_2D (R129, R130). -/
def execCenter2d (core : Fin 64) (s : State) : Host.Outcome State Fault Refusal := .next (s.detectOp core.val 3)
/-- CENTER_BEV (R129, R130). -/
def execCenterBev (core : Fin 64) (s : State) : Host.Outcome State Fault Refusal := .next (s.detectOp core.val 4)
/-- NMS_AXIS (R131, R132). -/
def execNmsAxis (core : Fin 64) (s : State) : Host.Outcome State Fault Refusal := .next (s.detectOp core.val 5)
/-- NMS_BEV (R131, R133). -/
def execNmsBev (core : Fin 64) (s : State) : Host.Outcome State Fault Refusal := .next (s.detectOp core.val 6)

/-- DETECT_COMPLETE (R127). -/
def execDetectComplete (unit : Fin 4) (s : State) : Host.Outcome State Fault Refusal :=
  match s.tt.jobs.find? (fun j => j.kind == .detect && stLoc j.unit == unit.val) with
  | none => .next s
  | some j => .next ((s.setBit F.DET_STATUS_BUSY unit.val false).endSta j)

end Sys2Proof.Machine
end

