-- ==== Sys2Proof/Machine/Attend.lean ====
section
/-! DEFINITION. ATTEND and the sequence cache (06, R142 to R173). -/

namespace Sys2Proof.Machine
open Sys2Proof
set_option Elab.async false

/-! ### Class records and tables in memory (Tables 6-1 and 6-2, R151, R157) -/

/-- A context class record. -/
structure CtxClass where
  cls : Nat
  fmt : Nat
  lib : Bool
  layers : Nat
  kvh : Nat
  flags : Nat
  dim : Nat
  tpp : Nat
  blk : Nat
  maxPages : Nat
  first : Nat
  count : Nat
  reserve : Nat
  limit : Nat
  hist : Nat
  idle : Nat
  buckets : List (Nat × Nat)
  pt : Nat
  deriving DecidableEq, Repr

def parseClass (b : List Byte) : CtxClass :=
  { cls := leAt b 0 1, fmt := leAt b 1 1, lib := leAt b 3 1 == 1, layers := leAt b 4 1, kvh := leAt b 5 1, flags := leAt b 7 1,
    dim := leAt b 8 2, tpp := leAt b 10 2, blk := leAt b 12 2, maxPages := leAt b 14 2, first := leAt b 16 2, count := leAt b 18 2,
    reserve := leAt b 20 4, limit := leAt b 24 4, hist := leAt b 28 2, idle := leAt b 30 2,
    buckets := ((List.range 4).map (fun i => (leAt b (32 + 4 * i) 2, leAt b (34 + 4 * i) 2))).filter (fun x => x.2 != 0),
    pt := leAt b 48 5 }

def CtxClass.slide (k : CtxClass) : Bool := bitAt k.flags 0
def CtxClass.dedup (k : CtxClass) : Bool := bitAt k.flags 1
def CtxClass.dual (k : CtxClass) : Bool := bitAt k.flags 2
/-- Blocks along HEAD_DIM, slot bytes, offset of the slots (R143, R147). -/
def CtxClass.nb (k : CtxClass) : Nat := k.dim / 32
def CtxClass.slotLen (k : CtxClass) : Nat := if k.fmt = 8 then 52 else 36
def CtxClass.d0 (k : CtxClass) : Nat := 64 + 8 * k.tpp
/-- S of R162. -/
def CtxClass.slots (k : CtxClass) : Nat := k.buckets.foldl (fun a b => a + b.2) 0

def State.classes (s : State) : List CtxClass :=
  have bs := s.recBytes recCtxClass 0
  (List.range (recCount bs 64)).map (fun i => parseClass (recElem bs 64 i))

def State.ctxClass (s : State) (c : Nat) : Option CtxClass := s.classes.find? (fun k => k.cls == c)

/-- Fields of ATTEND_GLOBAL (Table 16-10). -/
def State.libPool (s : State) : Nat := s.recLe recAttGlobal 0 5
def State.libFrames (s : State) : Nat := s.recLe recAttGlobal 8 2
def State.ctxKey (s : State) (c : Nat) : Nat := s.recLe recAttGlobal 12 5 + 32 * c
def State.pxBase (s : State) : Nat := s.recLe recAttGlobal 20 5
def State.nodeKey (s : State) (i : Nat) : Nat := s.pxBase + 64 * i
def State.nodeRow (s : State) (i : Nat) : Nat := s.pxBase + 0x100000 + 256 * i
/-- Key table of 1,024 contexts after the prefix index (R156). -/
def State.keyTab (s : State) (c : Nat) : Nat := s.pxBase + 0x500000 + 32 * c

/-- Address of frame f: bit 18 names the library pool (R146, R151). -/
def State.frameKey (s : State) (f : Nat) : Nat :=
  if f < 0x40000 then (((s.hbmRegion 2).map (fun r => r.1)).getD 0x200000000) + 32768 * f else s.libPool + 32768 * (f % 0x40000)

/-- Context table fields. -/
def State.cState (s : State) (c : Nat) : Nat := s.rdLe (s.ctxKey c) 1
def State.cPinned (s : State) (c : Nat) : Bool := s.rdLe (s.ctxKey c + 1) 1 == 1
def State.cHist (s : State) (c : Nat) : Nat := s.rdLe (s.ctxKey c + 2) 2
def State.cLen (s : State) (c : Nat) : Nat := s.rdLe (s.ctxKey c + 4) 4
def State.cBase (s : State) (c : Nat) : Nat := s.rdLe (s.ctxKey c + 8) 4
def State.cOpen (s : State) (c : Nat) : Nat := s.rdLe (s.ctxKey c + 12) 4
def State.cLast (s : State) (c : Nat) : Nat := s.rdLe (s.ctxKey c + 16) 4
def State.cPages (s : State) (c : Nat) : Nat := s.rdLe (s.ctxKey c + 20) 2
def State.setC (s : State) (c off n v : Nat) : State := s.wrLe (s.ctxKey c + off) n v

/-- Change a context's STATE, with KVM_CTX. -/
def State.setCState (s : State) (c v : Nat) : State :=
  have old := s.cState c
  have s := s.setC c 0 1 v
  have s := if old = 1 then s.wf F.KVM_CTX_ACTIVE (s.rf F.KVM_CTX_ACTIVE - 1) else if old = 2 then s.wf F.KVM_CTX_POISONED (s.rf F.KVM_CTX_POISONED - 1) else s
  if v = 1 then s.bump F.KVM_CTX_ACTIVE 1 else if v = 2 then s.bump F.KVM_CTX_POISONED 1 else s

/-- Page table entry of page p (T div TPP) at layer y of context c (R151). -/
def ptKey (k : CtxClass) (c p y : Nat) : Nat :=
  k.pt + (c - k.first) * 4 * k.layers * k.maxPages + ((p % max k.maxPages 1) * k.layers + y) * 4

def State.pte (s : State) (k : CtxClass) (c p y : Nat) : Nat := s.rdLe (ptKey k c p y) 4
def pteFrame (e : Nat) : Nat := e % 2 ^ 19
def pteShared (e : Nat) : Bool := bitAt e 30
def pteValid (e : Nat) : Bool := bitAt e 31

/-- Frames of page p of a context, one per layer. -/
def State.pageFrames (s : State) (k : CtxClass) (c p : Nat) : List Nat := (List.range k.layers).map (fun y => pteFrame (s.pte k c p y))

/-! ### Frames, counts and the release queue (R146, R152, R155) -/

def State.setAtt (s : State) (f : Att → Att) : State := { s with att := f s.att }

/-- Frames held by a class. -/
def State.used (s : State) (cls : Nat) : Nat := (s.att.refs.filter (fun r => r.2.1 == cls)).length

/-- Free frames of a pool. -/
def State.freeFrames (s : State) (lib : Bool) : Nat :=
  have n := (s.att.refs.filter (fun r => decide (0x40000 ≤ r.1) == lib)).length
  (if lib then s.libFrames else 262144) - n

/-- Refresh the KVM registers that show ATTEND's pools. -/
def State.attRegs (s : State) : State :=
  have s := (s.wf F.KVM_FREE_HBM_FREE (s.freeFrames false)).wf F.KVM_FREE_LIB_FREE (s.freeFrames true)
  have s := (s.wf F.KVM_RELQ_DEPTH s.att.relq.length).wf F.KVM_STATUS_RELEASING (if s.att.relq.isEmpty then 0 else 1)
  have s := s.wf F.KVM_PREFIX_NODES s.att.nodes.length
  s.classes.foldl (fun s k => s.wf (F.KVM_CLASS_USED k.cls) (s.used k.cls)) s

/-- Take one entry of the release queue: a count that reaches 0 frees its frame. -/
def Att.release1 (a : Att) : Att :=
  match a.relq with
  | [] => a
  | f :: q =>
    { a with relq := q,
             refs := (a.refs.map (fun r => if r.1 == f then (r.1, r.2.1, r.2.2 - 1) else r)).filter (fun r => r.2.2 != 0) }

def Att.releaseN (a : Att) : Nat → Att
  | 0 => a
  | n + 1 => a.release1.releaseN n

def State.attBusy (s : State) : Bool := s.tt.jobs.any (fun j => j.kind == .attend)

/-- Work through the release queue for the ARITH cycles that have passed without a command (R155). -/
def State.attDrain (s : State) : State :=
  if s.attBusy then s
  else
    have n := min s.att.relq.length ((s.now - s.att.relAt) / 2)
    (s.setAtt (fun a => { a.releaseN n with relAt := s.now })).attRegs

/-- Put frames on the release queue. -/
def State.queueFrames (s : State) (fs : List Nat) : State := s.setAtt (fun a => { a with relq := a.relq ++ fs })

/-- One more reference on a frame of a class. -/
def Att.addRef (a : Att) (cls f : Nat) : Att :=
  if a.refs.any (fun r => r.1 == f) then
    { a with refs := a.refs.map (fun r => if r.1 == f then (r.1, r.2.1, min 65535 (r.2.2 + 1)) else r) }
  else { a with refs := a.refs ++ [(f, cls, 1)] }

def State.addRefs (s : State) (cls : Nat) (fs : List Nat) : State := s.setAtt (fun a => fs.foldl (fun a f => a.addRef cls f) a)

/-- The n lowest-numbered free frames of a pool (R146). -/
def State.lowestFree (s : State) (lib : Bool) (n : Nat) : List Nat :=
  have base := if lib then 0x40000 else 0
  have cap := if lib then s.libFrames else 262144
  have taken := s.att.refs.map (fun r => r.1)
  (((List.range (min cap (taken.length + n))).map (· + base)).filter (fun f => !taken.contains f)).take n

/-- An allocation of LAYERS frames for a class, when R152 allows it. -/
def State.allocate (s : State) (k : CtxClass) : Option (List Nat) × State :=
  have others := (s.classes.filter (fun j => j.cls != k.cls && j.lib == k.lib)).foldl (fun a j => a + (j.reserve - s.used j.cls)) 0
  if s.used k.cls + k.layers ≤ k.limit ∧ others + k.layers ≤ s.freeFrames k.lib then
    have fs := s.lowestFree k.lib k.layers
    (some fs, s.addRefs k.cls fs)
  else (none, s)

/-! ### Prefix nodes (R156 to R158) -/

/-- LAYERS frame numbers of a node. -/
def State.nodeFrames (s : State) (k : CtxClass) (i : Nat) : List Nat := (List.range k.layers).map (fun y => s.rdLe (s.nodeRow i + 4 * y) 4)

/-- Which half of a DUAL class a context belongs to (R170). -/
def CtxClass.halfOf (k : CtxClass) (c : Nat) : Bool := k.dual && decide (k.first + k.count / 2 ≤ c)

/-- The half a node serves: that of the context that wrote its frames. -/
def State.nodeHalf (s : State) (k : CtxClass) (i : Nat) : Bool :=
  k.halfOf (s.rdLe (s.frameKey ((s.nodeFrames k i).headD 0)) 2)

/-- The 16 slots a key may stand in. -/
def probes (key : List Byte) : List Nat := (List.range 16).map (fun i => (leAt key 0 2 + i) % 16384)

def State.findNode (s : State) (k : CtxClass) (half : Bool) (key : List Byte) : Option Nat :=
  (probes key).find? (fun i => s.att.nodes.contains i && s.rdN (s.nodeKey i) 32 == key && s.rdLe (s.nodeKey i + 32) 1 == k.cls &&
    s.nodeHalf k i == half)

def State.nodeRefs (s : State) (i : Nat) : Nat := s.rdLe (s.nodeKey i + 40) 4
def State.setNodeRefs (s : State) (i n : Nat) : State := s.wrLe (s.nodeKey i + 40) 4 n

/-- Insert a node for frames at a free slot of its probes; none when there is none. -/
def State.insertNode (s : State) (k : CtxClass) (key : List Byte) (page refs pinned : Nat) (frames : List Nat) : Option State :=
  match (probes key).find? (fun i => !s.att.nodes.contains i) with
  | none => none
  | some i =>
    have s := s.wrN (s.nodeKey i) (key ++ leBytes 1 k.cls ++ leBytes 1 pinned ++ leBytes 2 page ++ leBytes 4 s.curBell ++
       leBytes 4 refs ++ List.replicate 20 0)
    have s := s.wrN (s.nodeRow i) (fitLen 256 (frames.map (leBytes 4)).flatten)
    some ((s.setAtt (fun a => { a with nodes := a.nodes ++ [i] })).addRefs k.cls frames)

/-- KEY_p of R156 from KEY_p−1 and the tags of the page. -/
def pageKey (cls : Nat) (prev tags : List Byte) : List Byte := shake256 (leBytes 1 cls ++ prev ++ tags) 32

/-- Key of page p of a prefix record, from its tags. -/
def prefixKeys (cls tpp : Nat) (tags : List Byte) : Nat → List Byte
  | 0 => List.replicate 32 0
  | p + 1 => pageKey cls (prefixKeys cls tpp tags p) ((tags.drop (8 * tpp * p)).take (8 * tpp))

/-! ### Contexts -/

/-- Release page p of a context: its frames are queued, a shared page's node loses a reference (R157). -/
def State.releasePage (s : State) (k : CtxClass) (c p : Nat) : State :=
  have e := s.pte k c p 0
  if !pteValid e then s
  else
    have fs := s.pageFrames k c p
    have s := if pteShared e then
        match s.att.nodes.find? (fun i => s.rdLe (s.nodeKey i + 32) 1 == k.cls && s.rdLe (s.nodeRow i) 4 == pteFrame e) with
        | some i => s.setNodeRefs i (s.nodeRefs i - 1)
        | none => s
      else s
    have s := s.queueFrames fs
    (List.range k.layers).foldl (fun s y => s.wrLe (ptKey k c p y) 4 (s.pte k c p y % 2 ^ 31)) s

/-- Release every page of a context. -/
def State.releaseCtx (s : State) (k : CtxClass) (c : Nat) : State :=
  have p0 := s.cBase c / max k.tpp 1
  have s := (List.range (s.cPages c)).foldl (fun s i => s.releasePage k c (p0 + i)) s
  have s := s.setAtt (fun a => { a with fulls := a.fulls.filter (fun f => f.1 != c) })
  ((s.setC c 4 4 0).setC c 8 4 0).setC c 20 2 0

/-- OPEN (R145): released, ACTIVE and empty, entries invalid. -/
def State.openCtx (s : State) (k : CtxClass) (c : Nat) : State :=
  have s := s.releaseCtx k c
  have s := s.wrN (ptKey k c 0 0) (List.replicate (4 * k.layers * k.maxPages) 0)
  have s := (s.setC c 2 2 0).setC c 12 4 (s.curBell % 2 ^ 32)
  (s.wrN (s.keyTab c) (List.replicate 32 0)).setCState c 1

/-- The pinned prefix PREFIX behind OPEN_PREFIX (R158). -/
def State.startPrefix (s : State) (k : CtxClass) (c pre : Nat) : State :=
  have r := s.recBytes recPrefix pre
  have pages := leAt r 2 2
  have tags := r.drop 16
  if r.isEmpty then s
  else
    have s := (List.range pages).foldl (fun s p =>
       match s.findNode k (k.halfOf c) (prefixKeys k.cls k.tpp tags (p + 1)) with
       | none => s
       | some i =>
         have fs := s.nodeFrames k i
         have s := (List.range k.layers).foldl (fun s y => s.wrLe (ptKey k c p y) 4 ((fs[y]?).getD 0 + 2 ^ 30 + 2 ^ 31)) s
         (s.setNodeRefs i (s.nodeRefs i + 1)).addRefs k.cls fs) s
    have s := (s.setC c 4 4 (pages * k.tpp)).setC c 20 2 pages
    s.wrN (s.keyTab c) (prefixKeys k.cls k.tpp tags pages)

/-- Load the pinned prefixes of the image: frames into the pools, pinned nodes for their pages (R158). -/
def State.loadPrefixes (s : State) : State :=
  (s.image.filter (fun r => r.typ == recPrefix)).foldl (fun s r =>
    match s.ctxClass (leAt r.bytes 0 1) with
    | none => s
    | some k =>
      have pages := leAt r.bytes 2 2
      have tags := r.bytes.drop 16
      have body := tags.drop (8 * k.tpp * pages)
      (List.range pages).foldl (fun s p =>
        have fs := s.lowestFree k.lib k.layers
        match s.insertNode k (prefixKeys k.cls k.tpp tags (p + 1)) p 0 1 fs with
        | none => s
        | some s => (List.range k.layers).foldl (fun s y =>
            s.wrN (s.frameKey ((fs[y]?).getD 0)) (fitLen 32768 ((body.drop ((p * k.layers + y) * 32768)).take 32768))) s) s) s

/-! ### Issue (R161) -/

/-- ATTEND descriptor of an STA in the current plan's table. -/
def State.attDesc (s : State) (w : Nat) : List Byte := recElem (s.recBytes recAttend s.ctxPlan) 16 (insArg w 39 24)

/-- Context in the address of an ATTEND fault (Table 6-6). -/
def kvAddr (c : Nat) : Nat := c % 1024 * 2 ^ 30
def kvPage (c y f : Nat) : Nat := kvAddr c + y % 64 * 2 ^ 24 + f % 2 ^ 19 * 2 ^ 5

/-- Issue an ATTEND command with its descriptor and class. -/
def State.attIssue (s : State) (n op : Nat) : Option (Nat × Nat × List Byte × CtxClass) × State :=
  match s.issueSta n 7 (fun w => leAt (s.attDesc w) 0 1 == op && !s.attBusy) with
  | (none, s) => (none, s)
  | (some (w, _, i), s) =>
    have d := s.attDesc w
    (some (w, i, d, (s.ctxClass (leAt d 1 1)).getD (parseClass [])), s.attDrain)

/-- Start an ATTEND command (R162). -/
def State.attStart (s : State) (n w i cycles : Nat) (d : List Byte) (outs : List TileW) : State :=
  ((s.wf F.KVM_STATUS_BUSY 1).attRegs).startSta .attend n w i cycles d outs

/-- Output tiles of a command at the end of its cycles. -/
def State.attOut (s : State) (n w stream cycles : Nat) (ins : List Hdr) (extra : Nat) (void : Bool) (pay : List Byte) : List TileW :=
  if stream = 0 then []
  else (s.putStream n w stream ins void pay (s.now + 2 * cycles)).map (fun o =>
    { o with hbytes := { parseHdr (o.hbytes ++ leBytes 4 0) with flags := (parseHdr (o.hbytes ++ leBytes 4 0)).flags ||| extra }.front })

/-! ### ATT_PLAN (R145, R154, R157, R159, R160) -/

/-- Apply one control word to a context; whether it takes a step. -/
def State.control (s : State) (k : CtxClass) (c word : Nat) : Bool × State :=
  match word % 16 with
  | 0 => (false, s)
  | 1 => (s.cState c == 1, s)
  | 2 => (true, s.openCtx k c)
  | 3 => (true, (s.openCtx k c).startPrefix k c (word / 65536 % 65536))
  | 4 => (false, ((s.releaseCtx k c).setC c 2 2 0).setCState c 0)
  | 5 => (false, s.setC c 1 1 1)
  | 6 => (false, s.setC c 1 1 0)
  | _ => (false, s.send srcAttend .KV_CONTROL (kvAddr c))

/-- Held range of a stepping context after this step's append, as far as the plan knows it (R153, R159). -/
def State.afterStep (s : State) (k : CtxClass) (c : Nat) : Nat × Nat :=
  have b := s.cBase c
  have l := s.cLen c
  if l % max k.tpp 1 = 0 ∧ s.cPages c = k.maxPages then
    (if k.slide && decide (2 ≤ s.cPages c) then (b + k.tpp, l - k.tpp + 1) else if k.slide then (b, l + 1) else (0, 1))
  else (b, l + 1)

/-- Assign one context: index of the slot in the concatenated buckets. -/
def bucketSlot (buckets : List (Nat × Nat)) (slots : List (Option AttSlot)) (len : Nat) : Option Nat :=
  have starts := (List.range buckets.length).map (fun i => ((buckets.take i).foldl (fun a b => a + b.2) 0, (buckets[i]?).getD (0, 0)))
  (starts.flatMap (fun x => if len ≤ x.2.1 then (List.range x.2.2).map (· + x.1) else [])).find? (fun i => (slots[i]?) == some none)

/-- The page table entries of a page name these frames, valid and shared. -/
def State.shareEntries (s : State) (k : CtxClass) (c p : Nat) (fs : List Nat) : State :=
  (List.range k.layers).foldl (fun s y => s.wrLe (ptKey k c p y) 4 ((fs[y]?).getD 0 + 2 ^ 30 + 2 ^ 31)) s

/-- Share one page that became full (R157). -/
def State.sharePage (s : State) (k : CtxClass) (c p : Nat) : State :=
  have fs := s.pageFrames k c p
  have tags := s.rdN (s.frameKey (fs.headD 0) + 64) (8 * k.tpp)
  have key := pageKey k.cls (s.rdN (s.keyTab c) 32) tags
  have s := (s.wrN (s.keyTab c) key).absorb 1 (33 + 8 * k.tpp)
  match s.findNode k (k.halfOf c) key with
  | some i =>
    have nf := s.nodeFrames k i
    have s := ((s.shareEntries k c p nf).queueFrames fs).addRefs k.cls nf
    have s := (s.setNodeRefs i (s.nodeRefs i + 1)).wrLe (s.nodeKey i + 36) 4 s.curBell
    s.tally F.KVM_PREFIX_HITS 1
  | none =>
    match s.insertNode k key p 1 0 fs with
    | some s => s.shareEntries k c p fs
    | none => s.bump F.KVM_PREFIX_FULL 1

/-- Evict from one pool (R154). -/
def State.evict (s : State) (lib : Bool) (stepping : List Nat) : State :=
  have low := s.recLe recAttGlobal (if lib then 32 else 28) 4
  if low ≤ s.freeFrames lib then s
  else
    have clsOf (i : Nat) : Option CtxClass := s.ctxClass (s.rdLe (s.nodeKey i + 32) 1)
    have nodes := sortBy (s.att.nodes.filter (fun i => s.rdLe (s.nodeKey i + 33) 1 == 0 && s.nodeRefs i == 0 &&
         ((clsOf i).map (fun k => k.lib == lib)).getD false)) (fun a b =>
       have x := s.rdLe (s.nodeKey a + 36) 4
       have y := s.rdLe (s.nodeKey b + 36) 4
       decide (x < y) || (x == y && decide (a ≤ b)))
    have s := (nodes.take 4).foldl (fun s i =>
       match s.ctxClass (s.rdLe (s.nodeKey i + 32) 1) with
       | none => s
       | some k =>
         have s := s.queueFrames (s.nodeFrames k i)
         (s.wrN (s.nodeKey i) (List.replicate 64 0)).setAtt (fun a => { a with nodes := a.nodes.erase i })) s
    have cur := s.curBell % 2 ^ 32
    have idle := (s.classes.filter (fun k => k.lib == lib && k.idle != 0)).flatMap (fun k =>
       ((List.range k.count).map (· + k.first)).filter (fun c => s.cState c == 1 && !s.cPinned c && !stepping.contains c &&
         decide (k.idle ≤ (cur + 2 ^ 32 - s.cLast c) % 2 ^ 32)))
    have pick := idle.foldl (fun (b : Option Nat) c => match b with
       | none => some c
       | some x =>
         have ax := (cur + 2 ^ 32 - s.cLast x) % 2 ^ 32
         have ac := (cur + 2 ^ 32 - s.cLast c) % 2 ^ 32
         if ax < ac ∨ (ax = ac ∧ c < x) then some c else some x) none
    match pick.bind (fun c => (s.classes.find? (fun k => decide (k.first ≤ c ∧ c < k.first + k.count))).map (fun k => (c, k))) with
    | some (c, k) =>
      (((s.releaseCtx k c).setCState c 0).send srcAttend .KV_RECLAIM (kvAddr c)).bump F.KVM_EVENTS_RECLAIM 1
    | none => s

/-- Plan record of a slot (R160). -/
def State.planRec (s : State) (k : CtxClass) (sl : Option AttSlot) : List Byte :=
  match sl with
  | none => leBytes 2 0xFFFF ++ leBytes 2 2 ++ leBytes 12 0
  | some x => leBytes 2 x.ctx ++ leBytes 2 (if s.cHist x.ctx < k.hist then 1 else 0) ++ leBytes 4 x.len ++ leBytes 4 x.base ++ leBytes 4 0

/-- ATT_PLAN (R159). -/
def execAttPlan (core : Fin 64) (s : State) : Host.Outcome State Fault Refusal :=
  match s.attIssue core.val 0 with
  | (none, s) => .next s
  | (some (w, i, d, k), s) =>
    have n := core.val
    have half := bitAt (leAt d 3 1) 1
    let (hs, pay, void, s) := s.recvStream n w srcAttend (insArg w 55 40) (leAt d 4 2 % 4096)
    have ctxs := ((List.range k.count).map (· + k.first)).filter (fun c => !k.dual || k.halfOf c == half)
    let (stepping, s) := if void then (([] : List Nat), s)
      else ctxs.foldl (fun (acc : List Nat × State) c =>
        let (st, s) := acc.2.control k c (leAt pay (4 * (c - k.first)) 4)
        (if st then acc.1 ++ [c] else acc.1, s)) ([], s)
    have order := sortBy stepping (fun a b =>
       have x := (s.afterStep k a).2
       have y := (s.afterStep k b).2
       decide (y < x) || (x == y && decide (a ≤ b)))
    let (slots, s) := order.foldl (fun (acc : List (Option AttSlot) × State) c =>
      let (b, l) := acc.2.afterStep k c
      match bucketSlot k.buckets acc.1 l with
      | some x => (acc.1.set x (some { ctx := c, base := b, len := l }), acc.2)
      | none => (acc.1, (acc.2.send srcAttend .KV_BUCKET_FULL (kvAddr c)).bump F.KVM_EVENTS_BUCKET 1))
      (List.replicate k.slots (none : Option AttSlot), s)
    have mine := s.att.fulls.filter (fun f => ctxs.contains f.1)
    have s := if k.dedup then mine.foldl (fun s f => if s.cBase f.1 = 0 then s.sharePage k f.1 f.2 else s) s else s
    have s := s.setAtt (fun a => { a with
       fulls := a.fulls.filter (fun f => !ctxs.contains f.1),
       plans := { cls := k.cls, half := half, slots := slots } :: a.plans.filter (fun p => p.cls != k.cls || p.half != half) })
    have placed := slots.filterMap (fun x => x.map (fun y => y.ctx))
    have s := (s.evict false placed).evict true placed
    have recs := slots.map (s.planRec k)
    have warm := if recs.any (fun r => bitAt (leAt r 2 2) 0) then flWarmup else 0
    have cycles := k.count + k.slots * (k.layers + 96) + 192
    .next (s.attStart n w i cycles d (s.attOut n w (leAt d 6 2 % 4096) cycles hs warm void recs.flatten))

/-! ### ATT_APPEND (R146 to R153, R163) -/

/-- The page encoder of R148 on 32 finite BF16 codes. -/
def pageEncode (v : List Nat) (qmax : Nat) : List Byte :=
  have fs := v.map (widen 4)
  have w := if qmax = 127 then 0 else 1
  have esc : Nat := if qmax = 127 then 0x80 else 0x8
  have f0 := fs.headD 0
  if fs.all (fun x => f32eq x f0) then
    leBytes 4 (2 ^ 30) ++ leBytes 4 (if f0 = 0x80000000 then 0 else f0) ++ List.replicate (if qmax = 127 then 32 else 16) 0
  else
    have rank := rankPos v
    have at0 (i : Nat) : F32 := f32abs ((fs[i]?).getD 0)
    have m8 := at0 ((rank[8]?).getD 0)
    have big (i : Nat) : Bool := fvLt (fvMul (f32val 0x41000000) (f32val m8)) (f32val (at0 i))
    have n := min 4 (if m8 = 0 then 0 else ((List.range 32).filter big).length)
    have escaped := rank.take n
    have m := (List.range 32).foldl (fun a i => if escaped.contains i then a else f32max a (at0 i)) 0
    have scale : Nat :=
      if m = 0 then 0x3F80
      else match f32val (f32div m (f32ofInt qmax)) with
        | .fin _ mm e =>
          have lg : Int := (mm.log2 : Int) + e + (if 2 ^ mm.log2 = mm then 0 else 1)
          f32of (.fin false 1 (max lg (-133))) / 65536
        | _ => 0x3F80
    have codes := (List.range 32).map (fun i =>
       if escaped.contains i then esc
       else match f32val (f32div ((fs[i]?).getD 0) (widen 4 scale)) with
         | .fin neg mm e => ofSigned (fmtBits w) (clampI (fvRoundInt neg mm e) (-(qmax : Int)) qmax)
         | _ => 0)
    have side := ((List.range 32).filter (fun i => escaped.contains i)).map (fun i => leBytes 4 (i * 2 ^ 16 + (v[i]?).getD 0))
    leBytes 4 (n * 2 ^ 27 + scale) ++ packCodes w codes ++ side.flatten

/-- Enter frames as the page of a context's next token. -/
def State.putPage (s : State) (k : CtxClass) (c : Nat) (fs : List Nat) : State :=
  have p := (s.cBase c + s.cLen c) / max k.tpp 1
  have s := (List.range k.layers).foldl (fun s y => s.wrLe (ptKey k c p y) 4 ((fs[y]?).getD 0 + 2 ^ 31)) s
  s.setC c 20 2 (s.cPages c + 1)

/-- A context takes no step, for want of a page (R152). -/
def State.failPage (s : State) (c : Nat) : Bool × State :=
  (false, (s.send srcAttend .KV_POOL_FULL (kvAddr c)).bump F.KVM_EVENTS_POOLFULL 1)

/-- Allocate once more for a context that has just given up frames (R153). -/
def State.againPage (s : State) (k : CtxClass) (c : Nat) : Bool × State :=
  match s.allocate k with
  | (some fs, s) => (true, s.putPage k c fs)
  | (none, s) => s.failPage c

/-- Move a context's BASE past its oldest page (R153). -/
def State.dropPage (s : State) (k : CtxClass) (c : Nat) : State :=
  ((s.setC c 8 4 (s.cBase c + k.tpp)).setC c 4 4 (s.cLen c - k.tpp)).setC c 20 2 (s.cPages c - 1)

/-- Give a context the page its new token starts (R152, R153); false when it takes no step. -/
def State.newPage (s : State) (k : CtxClass) (c : Nat) : Bool × State :=
  have full := decide (s.cPages c = k.maxPages)
  let (got, s) := if full then (none, s) else s.allocate k
  match got with
  | some fs => (true, s.putPage k c fs)
  | none =>
    have s := if full then s.send srcAttend .KV_CTX_LIMIT (kvAddr c) else s
    if k.slide then
      if 2 ≤ s.cPages c then
        have p0 := s.cBase c / max k.tpp 1
        have e := s.pte k c p0 0
        have fs := s.pageFrames k c p0
        if pteShared e then ((s.releasePage k c p0).dropPage k c).againPage k c
        else
          have s := (List.range k.layers).foldl (fun s y => s.wrLe (ptKey k c p0 y) 4 (s.pte k c p0 y % 2 ^ 31)) s
          (true, (s.dropPage k c).putPage k c fs)
      else s.failPage c
    else (((s.releaseCtx k c).setC c 2 2 0).wrN (s.keyTab c) (List.replicate 32 0)).againPage k c

/-- Write bytes of a frame of a class. -/
def State.writeFrame (s : State) (k : CtxClass) (a : Nat) (bs : List Byte) : State := if k.lib then s.store a bs else s.put 5 a bs

/-- Write the new token's row into the frame of layer y (R147, R148). -/
def State.writeRow (s : State) (k : CtxClass) (c y tok : Nat) (row : List Byte) : State :=
  have p := tok / max k.tpp 1
  have t := tok % max k.tpp 1
  have fk := s.frameKey (pteFrame (s.pte k c p y))
  have head := leBytes 2 c ++ leBytes 1 k.cls ++ leBytes 1 y ++ leBytes 4 (p * k.tpp) ++ leBytes 2 (t + 1) ++ leBytes 2 0 ++
    leBytes 4 (s.cOpen c) ++ List.replicate 44 0
  have s := (s.writeFrame k fk (head ++ leBytes 4 (crc32c head))).writeFrame k (fk + 64 + 8 * t) (row.take 8)
  (List.range (k.kvh * 2 * k.nb)).foldl (fun s x =>
    have j := x % max k.nb 1
    have kv := x / max k.nb 1 % 2
    have h := x / max k.nb 1 / 2
    have off := 8 + ((kv * k.kvh + h) * k.dim + 32 * j) * 2
    have v := (List.range 32).map (fun i => leAt row (off + 2 * i) 2)
    s.writeFrame k (fk + k.d0 + (((t * k.kvh + h) * 2 + kv) * k.nb + j) * k.slotLen)
      (fitLen k.slotLen (pageEncode v (if k.fmt = 8 then 127 else 7)))) s

/-- One plan slot of ATT_APPEND at layer y: the slot afterwards. -/
def State.appendSlot (s : State) (k : CtxClass) (y : Nat) (sl : AttSlot) (row : List Byte) : Option AttSlot × State :=
  have c := sl.ctx
  have vals := (List.range (k.kvh * 2 * k.dim)).map (fun i => widen 4 (leAt row (8 + 2 * i) 2))
  have tok := sl.base + sl.len - 1
  if s.cState c ≠ 1 then (none, s)
  else if vals.any (fun x => !f32isFinite x) then
    (none, (s.setCState c 2).send srcAttend .KV_NONFINITE (kvAddr c + y % 64 * 2 ^ 24 + tok % 2 ^ 24))
  else
    let (ok, sl, s) :=
      if y = 0 then
        let (ok, s) := if s.cLen c % max k.tpp 1 = 0 then s.newPage k c else (true, s)
        if ok then
          have s := s.setC c 4 4 (s.cLen c + 1)
          have cur := s.curBell % 2 ^ 32
          have first := s.cHist c == 0 || s.cLast c != cur
          have s := if first then (s.setC c 2 2 (satU 16 (s.cHist c + 1))).tally (F.KVM_CLASS_STEPPED k.cls) 1 else s
          (true, { sl with base := s.cBase c, len := s.cLen c }, s.setC c 16 4 cur)
        else (false, sl, s)
      else (true, sl, s)
    if !ok then (none, s)
    else
      have tok := sl.base + sl.len - 1
      have s := s.writeRow k c y tok row
      have s := if y + 1 = k.layers ∧ (tok + 1) % max k.tpp 1 = 0 ∧ sl.base = 0 then
          s.setAtt (fun a => { a with fulls := a.fulls ++ [(c, tok / max k.tpp 1)] })
        else s
      (some sl, s)

/-- The plan of a class and half in force. -/
def State.attPlan (s : State) (k : CtxClass) (half : Bool) : List (Option AttSlot) :=
  ((s.att.plans.find? (fun p => p.cls == k.cls && p.half == half)).map (fun p => p.slots)).getD []

/-- ATT_APPEND (R163): one layer's new keys and values for every plan slot. A void input tile writes nothing. -/
def execAttAppend (core : Fin 64) (s : State) : Host.Outcome State Fault Refusal :=
  match s.attIssue core.val 1 with
  | (none, s) => .next s
  | (some (w, i, d, k), s) =>
    have n := core.val
    have y := leAt d 2 1
    have half := bitAt (leAt d 3 1) 1
    let (_, pay, void, s) := s.recvStream n w srcAttend (insArg w 55 40) (leAt d 4 2 % 4096)
    have rowLen := 8 + 2 * k.kvh * k.dim * 2
    have slots := s.attPlan k half
    let (slots, s) := if void then (slots, s)
      else (List.range slots.length).foldl (fun (acc : List (Option AttSlot) × State) r =>
        match (slots[r]?).join with
        | none => (acc.1 ++ [none], acc.2)
        | some sl =>
          let (x, s) := acc.2.appendSlot k y sl ((pay.drop (r * rowLen)).take rowLen)
          (acc.1 ++ [x], s)) ([], s)
    have s := s.setAtt (fun a => { a with plans := a.plans.map (fun p => if p.cls == k.cls && p.half == half then { p with slots := slots } else p) })
    have cycles := ceilDiv (k.slots * k.kvh * 2 * k.nb) 4 + 64 + (if y = 0 then k.slots * (k.layers + 16) else 0)
    .next (s.attStart n w i cycles d [])

/-! ### ATT_FETCH (R164) and ATT_SPREAD (R165) -/

/-- BF16 code of element x of head h of a token, key or value (R149). -/
def State.kvElem (s : State) (k : CtxClass) (c y tok h kv x : Nat) : Nat :=
  have fk := s.frameKey (pteFrame (s.pte k c (tok / max k.tpp 1) y))
  have t := tok % max k.tpp 1
  have off := fk + k.d0 + (((t * k.kvh + h) * 2 + kv) * k.nb + x / 32) * k.slotLen
  facetValue k.fmt (s.rdN off k.slotLen) (x % 32) / 65536

/-- Check the header of the frame that holds page p at layer y (R164). -/
def State.pageOk (s : State) (k : CtxClass) (c y p : Nat) : Bool :=
  have e := s.pte k c p y
  have b := s.rdN (s.frameKey (pteFrame e)) 64
  leAt b 60 4 == crc32c (b.take 60) && leAt b 2 1 == k.cls && leAt b 3 1 == y && leAt b 4 4 == p * k.tpp &&
    (pteShared e || (leAt b 0 2 == c && leAt b 12 4 == s.cOpen c))

/-- ATT_FETCH (R164): widen one block of one slot and head into key, value and mask tiles. -/
def execAttFetch (core : Fin 64) (s : State) : Host.Outcome State Fault Refusal :=
  match s.attIssue core.val 2 with
  | (none, s) => .next s
  | (some (w, i, d, k), s) =>
    have n := core.val
    have y := leAt d 2 1
    have h := insArg w 11 9
    have b := insArg w 8 0
    have sl := ((s.attPlan k (bitAt (leAt d 3 1) 1))[insArg w 23 12]?).join
    have base := match sl with
      | some x => x.base
      | none => 0
    have held := match sl with
      | some x => x.base + x.len
      | none => 0
    have c := match sl with
      | some x => x.ctx
      | none => 0
    have t0 := base + b * k.blk
    have live := (List.range k.blk).filter (fun t => decide (t0 + t < held))
    have pages := (live.map (fun t => (t0 + t) / max k.tpp 1)).eraseDups
    have bad := pages.find? (fun p => !s.pageOk k c y p)
    have pageLen := k.d0 + k.tpp * k.kvh * 2 * k.nb * k.slotLen
    let (ue, s) := pages.foldl (fun (acc : Bool × State) p =>
      have fk := acc.2.frameKey (pteFrame (acc.2.pte k c p y))
      let (_, ok, s) := if k.lib then acc.2.load false 5 fk pageLen else acc.2.fetch 5 fk pageLen
      (acc.1 || !ok, s)) (false, s)
    have s := match bad with
      | some p => (s.send srcAttend .KV_PAGE_ID (kvPage c y (pteFrame (s.pte k c p y)))).bump F.KVM_EVENTS_PAGEID 1
      | none => s
    have void := ue || bad.isSome
    have el (kv t x : Nat) : Nat := if t0 + t < held then s.kvElem k c y (t0 + t) h kv x else 0
    have key := (List.range (k.dim / 8)).flatMap (fun q => (List.range k.blk).flatMap (fun t => (List.range 8).flatMap (fun e => leBytes 2 (el 0 t (8 * q + e)))))
    have val := (List.range (k.blk / 8)).flatMap (fun q => (List.range k.dim).flatMap (fun x => (List.range 8).flatMap (fun e => leBytes 2 (el 1 (8 * q + e) x))))
    have mask := (List.range k.blk).flatMap (fun t =>
       leBytes 4 (if t0 + t < held ∨ (sl.isNone ∧ b = 0 ∧ t = 0) then 0 else 0xFF800000))
    have n0 := ceilDiv (k.blk * k.nb * 2) 16
    have cycles := if k.lib then n0 + 32 else ceilDiv (n0 * (100 + s.recLe recHeader 4 1)) 100 + 400
    have out (st : Nat) (pay : List Byte) : List TileW := s.attOut n w (leAt d st 2 % 4096) cycles [] 0 void pay
    have addr := kvPage c y (pteFrame (s.pte k c (t0 / max k.tpp 1) y))
    .next (s.attStart n w i cycles (d ++ leBytes 1 (if k.lib then 0 else 1) ++ leBytes 5 addr) (out 6 key ++ out 8 val ++ out 10 mask))

/-- ATT_SPREAD (R165). -/
def execAttSpread (core : Fin 64) (s : State) : Host.Outcome State Fault Refusal :=
  match s.attIssue core.val 3 with
  | (none, s) => .next s
  | (some (w, i, d, _), s) =>
    have n := core.val
    have cnt := leAt d 12 2
    let (hs, pay, void, s) := s.recvStream n w srcAttend (insArg w 55 40) (leAt d 4 2 % 4096)
    have r := pay.length / 4
    have neg := bitAt (leAt d 3 1) 0
    have out := (List.range r).flatMap (fun v =>
       (List.replicate cnt (leBytes 4 (if neg then leAt pay (4 * v) 4 ^^^ 0x80000000 else leAt pay (4 * v) 4))).flatten)
    have cycles := ceilDiv (r * cnt) 1024 + 16
    .next (s.attStart n w i cycles d (s.attOut n w (leAt d 6 2 % 4096) cycles hs 0 void out))

/-- ATTEND_COMPLETE (R162): the command ends D cycles after issue; `late` says that a page read from HBM had not returned by then (R164). -/
def execAttendComplete (late : Bool) (s : State) : Host.Outcome State Fault Refusal :=
  match s.tt.jobs.find? (fun j => j.kind == .attend) with
  | none => .next s
  | some j =>
    have isLate := late && leAt j.desc 0 1 == 2 && leAt j.desc 16 1 == 1
    have j' := if isLate then { j with outs := j.outs.map (fun o => { o with t := j.due + 1 }) } else j
    have s := s.advanceTo j.due
    have s := if isLate then (s.send srcAttend .KV_LATE (leAt j.desc 17 5)).bump F.KVM_EVENTS_PAGEID 1 else s
    have s := ((s.flush j' j.due).endJob j).wf F.KVM_STATUS_BUSY 0
    .next (s.setAtt (fun a => { a with relAt := s.now })).attRegs

/-- ATT_RELEASE_FRAME (R155): one entry of the release queue, one ARITH cycle, while no command runs. -/
def execAttReleaseFrame (s : State) : Host.Outcome State Fault Refusal :=
  if s.attBusy || s.att.relq.isEmpty then .next s
  else .next (s.advanceTo (s.att.relAt + 2)).attDrain

end Sys2Proof.Machine
end

