-- ==== Sys2Proof/Machine/Selftest.lean ====
section
/-! DEFINITION. Online test (14): strand programs, retirement, recess windows, test requests and the weight digest. -/

namespace Sys2Proof.Machine
open Sys2Proof
set_option Elab.async false

/-! ### Test content (R380 to R382) -/

def State.content (s : State) : List Byte := s.recBytes recContent 0

/-- An operation descriptor that holds only a pair of formats. -/
def pairOpd (fl fs : Nat) : Opd := parseOpd (leBytes 1 0 ++ leBytes 1 fl ++ leBytes 1 fs)

/-- Cycles of n groups of a strand program from an offset (R381). -/
def groupCycles (c : List Byte) : Nat → Nat → Nat
  | 0, _ => 0
  | n + 1, off =>
    have d := pairOpd (leAt c off 1) (leAt c (off + 1) 1)
    have loads := leAt c (off + 2) 2
    have pos := leAt c (off + 4) 1
    pos * loads * d.cps + 16 + groupCycles c n (off + 12 + 8 * loads * d.sb d.fl + pos * loads * d.sb d.fs)

/-- Duration of the base or the extended strand program in ARITH cycles (R378, R381). -/
def State.programCycles (s : State) (ext : Bool) : Nat :=
  have off := leAt s.content (if ext then 12 else 8) 4
  groupCycles s.content (leAt s.content off 2) (off + 2)

/-- Units under test by code: unit kind 1 VECTOR, 2 and 3 movers 0 and 1, 4 CODEC, 5 DETECT, times 128, plus the physical core or the
unit's number. -/
def unitKey (u i : Nat) : Nat := u * 128 + i

/-- Segment table of a unit kind: its offset and count (Table 14-2). -/
def State.segTable (s : State) (u : Nat) : Nat × Nat :=
  have k := if u = 1 then 0 else if u = 2 ∨ u = 3 then 1 else if u = 4 then 2 else 3
  (leAt s.content (16 + 4 * k) 4, leAt s.content (32 + 4 * k) 4)

/-- Whether segment i is extended, and its CYCLES (R382). -/
def State.segment (s : State) (u i : Nat) : Bool × Nat :=
  have c := leAt s.content ((s.segTable u).1 + 16 * i) 4
  (bitAt c 31, c % 2 ^ 31)

/-- Number of base segments: the table lists them first. -/
def State.baseCount (s : State) (u : Nat) : Nat := ((List.range (s.segTable u).2).filter (fun i => !(s.segment u i).1)).length

/-! ### Requests (R387) -/

def State.refuseRequest (s : State) (reason kind : Nat) : State := s.send srcSafety .TEST_REQUEST (reason * 2 ^ 36 + kind % 16 * 2 ^ 32)

def State.setQueue (s : State) (l : List TestReq) : State :=
  ({ s with tst := { s.tst with reqs := l } }).wf F.TST_STATUS_QUEUE l.length

/-- Test state of a unit. -/
def State.unitT (s : State) (k : Nat) : UnitT :=
  (s.tst.units.find? (fun t => t.unit == k)).getD { unit := k, next := 0, complete := true, passed := false, ext := [], winEnd := 0, run := none }

def State.setUnitT (s : State) (t : UnitT) : State :=
  { s with tst := { s.tst with units := s.tst.units.filter (fun x => x.unit != t.unit) ++ [t] } }

/-- Queue the extended segments of a unit. -/
def State.queueExt (s : State) (k : Nat) : State :=
  have t := s.unitT k
  have u := k / 128
  have l := (List.range (s.segTable u).2).filter (fun i => (s.segment u i).1)
  s.setUnitT { t with ext := t.ext ++ l.filter (fun i => !t.ext.contains i) }

/-- The units a request of kind 1 or 2 covers. -/
def reqUnits (r : TestReq) : List Nat :=
  if r.kind = 1 then [unitKey 1 r.target, unitKey 2 r.target, unitKey 3 r.target]
  else if r.kind = 2 then [unitKey (if r.detect then 5 else 4) r.target] else []

/-- Queue a request of kind 0 to 2 (R387, Table 14-3): refused for an unknown target or a full queue, merged with an equal one. -/
def State.request (s : State) (r : TestReq) : State :=
  have limit := if r.kind = 2 then (if r.detect then 4 else 8) else 66
  if 2 < r.kind ∨ limit ≤ r.target then s.refuseRequest 2 r.kind
  else
    have r : TestReq := if r.kind = 2 then r else { r with detect := false }
    if s.tst.reqs.contains r then s
    else if 16 ≤ s.tst.reqs.length then s.refuseRequest 1 r.kind
    else (reqUnits r).foldl (fun s k => s.queueExt k) (s.setQueue (s.tst.reqs ++ [r]))

/-- A request written to TST_REQ: CP0 in machine mode only. -/
def State.requestWrite (s : State) (req : Requester) (mmode : Bool) (f : State → State) : State :=
  s.cmdWrite req A.TST_REQ (fun s => if cp0m req mmode then f s else s.deny req A.TST_REQ)

/-- STRAND_EXTENDED_REQUEST (R387): TST_REQ with KIND 0. -/
def execStrandExtendedRequest (req : Requester) (mmode : Bool) (target : BitVec 7) (s : State) : Host.Outcome State Fault Refusal :=
  .next (s.requestWrite req mmode (fun s => s.request { kind := 0, target := target.toNat, detect := false }))

/-- UNIT_EXTENDED_REQUEST (R387): TST_REQ with KIND 1. -/
def execUnitExtendedRequest (req : Requester) (mmode : Bool) (target : BitVec 7) (s : State) : Host.Outcome State Fault Refusal :=
  .next (s.requestWrite req mmode (fun s => s.request { kind := 1, target := target.toNat, detect := false }))

/-- STATION_EXTENDED_REQUEST (R387): TST_REQ with KIND 2. -/
def execStationExtendedRequest (req : Requester) (mmode : Bool) (detect : Bool) (target : BitVec 7) (s : State) :
    Host.Outcome State Fault Refusal :=
  .next (s.requestWrite req mmode (fun s => s.request { kind := 2, target := target.toNat, detect := detect }))

/-! ### Retirement (R78, R379, R394) -/

/-- Is the physical core fenced? -/
def State.fenced (s : State) (p : Nat) : Bool := s.flag (F.CORE_STATE_FENCED p)

/-- Retire a strand: it leaves at the next SWAP, enters the map, of which both copies are written, and suspects it was count as
retired (R379, R392, R401). -/
def State.retire (s : State) (p e k : Nat) : State :=
  have x := s.eng p e
  if x.ret.contains k || x.pend.contains k then s
  else
    have i := x.ret.length + x.pend.length
    have s := s.setEng p e { x with pend := x.pend ++ [k] }
    have s := if i = 0 then (s.wf (F.ENG_RETIRED_RET0 p e) k).wf (F.ENG_RETIRED_V0 p e) 1
      else if i = 1 then (s.wf (F.ENG_RETIRED_RET1 p e) k).wf (F.ENG_RETIRED_V1 p e) 1
      else if i = 2 then (s.wf (F.ENG_RETIRED_RET2 p e) k).wf (F.ENG_RETIRED_V2 p e) 1 else s
    { s with tst := { s.tst with
        mapq := [0, 1],
        evs := s.tst.evs.map (fun v => { v with sus := v.sus.map (fun u =>
          if u.phys == p && u.engine == e && u.strand == k && u.status == 0 then { u with status := 2 } else u) }) } }

/-- STRAND_FAIL with the retirement of R379. -/
def State.strandFail (s : State) (p e k group : Nat) : State :=
  ((s.send (srcEngine p e) .STRAND_FAIL (e * 2 ^ 37 + k * 2 ^ 30 + group % 2 ^ 16)).bump F.TST_FAILS_STRAND 1).retire p e k

/-- The retirement map (R394): 528 words in the layout of ENG_RETIRED and their CRC. -/
def State.retireMap (s : State) : List Byte :=
  have b := (List.range 528).flatMap (fun i => leBytes 4 (s.reg (A.ENG_RETIRED (i / 8) (i % 8))).toNat)
  b ++ leBytes 4 (crc32c b)

/-- RETIREMENT_MAP_WRITTEN (R394): the next copy of the map is in the boot store. -/
def execRetirementMapWritten (s : State) : Host.Outcome State Fault Refusal :=
  match s.tst.mapq with
  | [] => .next s
  | d :: r => .next ({ s with tst := { s.tst with mapq := r } }.wrN (keyBoot d 0x3502000) s.retireMap)

/-! ### Strand programs (R378, R379) -/

/-- SWAP_COMPLETE (R53, R378): 12 cycles after the SWAP its strands run the test program; an engine on an extended turn runs the
extended one. -/
def execSwapComplete (engine : BitVec 16) (s : State) : Host.Outcome State Fault Refusal :=
  match s.jobAt engine.toNat with
  | none => .next s
  | some j =>
    if j.kind ≠ .swap then .next s
    else
      have p := s.phys j.core
      have e := stLoc j.unit % 8
      have key := p * 8 + e
      have s := ((s.advanceTo j.due).wf (F.ENG_STATUS_BUSY p e) 0).endJob j
      have left := (smFind s.tst.turns key).getD 0
      have ext := decide (0 < left)
      .next { s with tst := { s.tst with
        progs := s.tst.progs.filter (fun x => x.1 != key) ++ [(key, j.due + 2 * s.programCycles ext, ext)],
        turns := if ext then smInsert s.tst.turns key (left - 1) else s.tst.turns } }

/-- The extended turn of a core ends when all eight engines have run it. -/
def State.turnsDone (s : State) (p : Nat) : State :=
  if (List.range 8).all (fun e => smFind s.tst.turns (p * 8 + e) == some 0) then
    have s := { s with tst := { s.tst with turns := s.tst.turns.filter (fun x => x.1 / 8 != p) } }
    s.setQueue (s.tst.reqs.filter (fun r => !(r.kind == 0 && r.target == p)))
  else s

/-! ### Recess windows (R54, R383, R386) -/

/-- Station addresses and unit keys that a RECESS word of logical core n reserves. -/
def State.recessUnits (s : State) (n w : Nat) : List (Nat × Nat) :=
  have p := s.phys n
  have st := insArg w 23 8
  (if bitAt w 24 then [(0x4000 + n * 64, unitKey 1 p)] else []) ++
  (if bitAt w 25 then [(0x5000 + n * 64, unitKey 2 p)] else []) ++
  (if bitAt w 26 then [(0x5000 + n * 64 + 8, unitKey 3 p)] else []) ++
  (if bitAt w 27 then
    (if stKind st = 6 then [(st, unitKey 4 (stLoc st))] else if stKind st = 8 then [(st, unitKey 5 (stLoc st))] else [(st, 0)]) else [])

/-- Take the next pending segment that fits the window: base segments of the pass, then queued extended ones (R383). -/
def State.takeSeg (s : State) (k : Nat) : State :=
  have t := s.unitT k
  have u := k / 128
  have seg := if !t.complete then some t.next else t.ext.head?
  match seg with
  | none => s
  | some i =>
    have fin' := s.now + 2 * (s.segment u i).2
    if fin' ≤ t.winEnd then s.setUnitT { t with run := some (i, fin') } else s

/-- A window opens for a unit: a new pass starts when the last one is complete (R383). -/
def State.openWindow (s : State) (k winEnd : Nat) : State :=
  have t := s.unitT k
  have t := if t.complete then { t with next := 0, complete := false } else t
  (s.setUnitT { t with winEnd := winEnd, run := none }).takeSeg k

/-- RECESS (R54): the window reserves its units from its AT to AT + LENGTH. -/
def execRecess (core : Fin 64) (s : State) : Host.Outcome State Fault Refusal :=
  have n := core.val
  match s.issue n (fun w => insOp w == 0x31) with
  | (none, s) => .next s
  | (some (w, _, i), s) =>
    have due := s.bell.start + 2 * (insAt w + insArg w 55 28)
    .next ((s.recessUnits n w).foldl (fun (s : State) x =>
      have s := s.startJob
        { kind := .recess, core := n, unit := x.1, task := 0, at0 := s.now, due := due, instr := w, idx := i, deadline := 0, desc := [],
          outs := [] }
      if x.2 = 0 then s else s.openWindow x.2 due) s)

/-- RECESS_END (R54): the window ends on its fixed edge; a segment still to run waits whole for the next window, and one that ends on
that edge still gives its result (R401). -/
def execRecessEnd (core : Fin 64) (s : State) : Host.Outcome State Fault Refusal :=
  match s.tt.jobs.find? (fun j => j.kind == .recess && j.core == core.val) with
  | none => .next s
  | some j =>
    have s := s.advanceTo j.due
    have s := (s.recessUnits j.core j.instr).foldl (fun (s : State) x =>
       if x.2 = 0 then s else s.setUnitT { s.unitT x.2 with winEnd := 0 }) s
    .next { s with tt := { s.tt with jobs := s.tt.jobs.filter (fun x => !(x.kind == .recess && x.core == j.core && x.idx == j.idx)) } }

/-- A unit's segment failed (R383, R386, R399). -/
def State.segFail (s : State) (u i seg : Nat) : State :=
  have src := if u = 4 then srcCodec i else if u = 5 then srcDetect i else srcRecess i
  have s := (s.send src .UNIT_TEST_FAIL (u * 2 ^ 36 + (if 4 ≤ u then i % 8 * 2 ^ 33 else 0) + seg % 2 ^ 16)).bump F.TST_FAILS_UNIT 1
  if 4 ≤ u then { s with tst := { s.tst with failPend := if s.tst.failPend.contains (unitKey u i) then s.tst.failPend else unitKey u i :: s.tst.failPend } }
  else s

/-- Requests of kinds 1 and 2 leave the queue when none of their segments is left. -/
def State.extDone (s : State) : State :=
  s.setQueue (s.tst.reqs.filter (fun r => r.kind == 0 || (reqUnits r).any (fun k => !(s.unitT k).ext.isEmpty)))

/-- UNIT_SEGMENT_DONE (R383): the running segment of a unit ends; the next that fits starts. -/
def execUnitSegmentDone (unit : Fin 6) (index : Fin 66) (pass : Bool) (s : State) : Host.Outcome State Fault Refusal :=
  have u := unit.val
  have k := unitKey u index.val
  have t := s.unitT k
  match t.run with
  | none => .next s
  | some (seg, fin') =>
    have s := s.advanceTo fin'
    have s := if pass then s else s.segFail u index.val seg
    have base := !t.complete
    have last := base && decide (s.baseCount u ≤ seg + 1)
    have s := s.setUnitT { t with
       run := none, next := if base then seg + 1 else t.next, complete := t.complete || last, passed := t.passed || last,
       ext := if base then t.ext else t.ext.tail }
    .next ((if base && !last then s else s.extDone).takeSeg k)

/-! ### Weight digests (R397, R398) -/

/-- DIGEST_STEP: bytes of the pass per bell (R398). -/
def State.digestStep (s : State) : Nat := 64 * 2 ^ 20 * ceilDiv s.bellPeriod 33333334

/-- Put an object into the bad map, or report that it is full. -/
def State.badObject (s : State) (cause o : Nat) : State :=
  have full := !s.tst.bad.contains o && decide (64 ≤ s.tst.bad.length)
  have s := s.send srcShk .WEIGHT_DIGEST ((if full then 3 else cause) * 2 ^ 38 + o % 4096)
  if s.tst.bad.contains o || full then s
  else ({ s with tst := { s.tst with bad := s.tst.bad ++ [o] } }).wf F.TST_DIGEST_BAD (s.tst.bad.length + 1)

/-- WEIGHT_DIGEST_CHECK (R398): SHK has read the last byte of the object it is at, within the bytes the bells so far allow. -/
def execWeightDigestCheck (s : State) : Host.Outcome State Fault Refusal :=
  have list := s.recBytes recDigest 0
  have o := s.rf F.TST_DIGEST_NEXT
  have e := recElem list 48 o
  have len := leAt e 8 4
  if recCount list 48 = 0 ∨ s.tst.dleft < len ∨ !s.flag F.TST_STATUS_DIGEST_BUSY ∨ s.pstate = .halt then .next s
  else
    have s := { s with tst := { s.tst with dleft := s.tst.dleft - len } }
    let (bytes, ok, s) := s.fetch 7 (keyHbm (leAt e 0 5)) len
    have s := s.absorb 5 len
    have s := if !ok then s.badObject 1 o else if shake256 bytes 32 = (e.drop 16).take 32 then s else s.badObject 0 o
    .next (if o + 1 < recCount list 48 then s.wf F.TST_DIGEST_NEXT (o + 1)
      else ({ s with tst := { s.tst with dstart := s.now, dlate := false } }.wf F.TST_DIGEST_NEXT 0).bump F.TST_DIGEST_PASS_PASSES 1)

/-- Report a missed coverage (R399). -/
def State.coverageMissed (s : State) (src u p i : Nat) : State :=
  (s.send src .COVERAGE_MISSED (u * 2 ^ 36 + p * 2 ^ 29 + i * 2 ^ 26)).bump F.TST_COVERAGE_MISSED 1

/-- DIGEST_PASS_TIMEOUT (R398): the pass has run for 8 s, which is reported once. -/
def execDigestPassTimeout (s : State) : Host.Outcome State Fault Refusal :=
  if s.flag F.TST_STATUS_DIGEST_BUSY && !s.tst.dlate && decide (s.pstate ≠ .halt) then
    have s := s.advanceTo (s.tst.dstart + 3200000000)
    .next ({ s with tst := { s.tst with dlate := true } }.coverageMissed srcShk 6 0x7F 0)
  else .next s

end Sys2Proof.Machine
end

