-- ==== Sys2Proof/Machine/Evidence.lean ====
section
/-! DEFINITION. The dual-run comparator's verdict and the attribution of mismatches (02 R50; 14 R388 to R393). -/

namespace Sys2Proof.Machine
open Sys2Proof
set_option Elab.async false

/-- Evidence slot k in the HBM (R348, R391). -/
def State.evKey (s : State) (k : Nat) : Nat := keyHbm (s.gradebookBase + 48 * 2 ^ 20 + 65536 * (k % 256))

/-- Two suspects of a run side by side as the head lists them: physical strands, 0xFF when unused. -/
def Evid.strandBytes (v : Evid) (run : Nat) (f : Sus → Nat) (unused : Nat) : List Byte :=
  have l := (v.sus.filter (fun u => u.run == run)).map f
  (List.range 4).flatMap (fun i => leBytes 1 ((l[i]?).getD unused))

/-- The tile of Table 14-4 with its CRC: head, descriptor and operand bytes. -/
def Evid.tileBytes (v : Evid) (outcome content : Nat) : List Byte :=
  have a := leBytes 1 1 ++ leBytes 1 outcome ++ leBytes 1 v.region ++ leBytes 1 v.groups ++ leBytes 8 v.bell ++ leBytes 1 v.coreA ++
    leBytes 1 v.coreB ++ leBytes 1 v.physA ++ leBytes 1 v.physB ++ leBytes 1 v.engA ++ leBytes 1 v.engB ++ leBytes 1 v.lane ++
    leBytes 1 0 ++ leBytes 2 v.instr ++ leBytes 2 v.stream ++ leBytes 2 v.tile ++ leBytes 2 v.pos ++ leBytes 2 v.ch ++
    v.strandBytes 0 (fun u => u.strand) 0xFF ++ v.strandBytes 1 (fun u => u.strand) 0xFF ++
    v.strandBytes 0 (fun u => if u.status = 2 then 1 else 0) 0 ++ v.strandBytes 1 (fun u => if u.status = 2 then 1 else 0) 0 ++
    leBytes 2 v.lBytes ++ leBytes 2 v.sBytes ++ leBytes 2 content ++ leBytes 8 0
  a ++ leBytes 4 (crc32c (a ++ leBytes 4 0 ++ v.data)) ++ v.data

/-- Write an evidence tile; one whose OUTCOME is not pending is also copied to the boot store's ring (R391, R394). -/
def State.writeEv (s : State) (v : Evid) (outcome : Nat) : State :=
  have t := v.tileBytes outcome (s.rf F.TST_CONTENT_CONTENT_ID)
  have s := s.wrN (s.evKey v.slot) t
  if outcome = 0xFF then s
  else { s.wrN (keyBoot 0 (0x3402000 + 65536 * (s.tst.nvmEv % 16))) t with tst := { s.tst with nvmEv := s.tst.nvmEv + 1 } }

/-- Unattributed events of a core in the last 1,000 bells (R393). -/
def State.unattrCount (s : State) (p : Nat) : Nat :=
  (s.tst.unattr.filter (fun x => x.1 == p && decide (s.curBell < x.2 + 1000))).length

/-- Count an unattributed event against a core (R393). -/
def State.countUnattr (s : State) (p : Nat) : State :=
  have s := { s with tst := { s.tst with unattr := s.tst.unattr ++ [(p, s.curBell)] } }
  have n := s.unattrCount p
  have s := s.wf (F.TST_UNATTR_COUNT p) (satU 2 n)
  if n = 3 then s.send (srcRecess p) .UNATTR_LIMIT (s.curBell % 2 ^ 32) else s

/-- The evidence is NONE (R390). -/
def State.evNone (s : State) (v : Evid) : State :=
  have s := { s with tst := { s.tst with evs := s.tst.evs.filter (fun x => x.slot != v.slot) } }
  have s := (s.writeEv v 2).bump F.TST_EVIDENCE_NONE 1
  have s := [v.physA, v.physB].foldl (fun (s : State) p =>
     (s.request { kind := 0, target := p, detect := false }).request { kind := 1, target := p, detect := false }) s
  (s.countUnattr v.physA).countUnattr v.physB

/-- Every suspect was replayed or left service: complete the head and report (R392). -/
def State.evResolve (s : State) (v : Evid) : State :=
  if v.captured && v.sus.all (fun u => u.status != 0) then
    have hit := v.sus.any (fun u => u.status == 2)
    have oc := if hit then 0 else 1
    have s := { s with tst := { s.tst with evs := s.tst.evs.filter (fun x => x.slot != v.slot) } }
    have s := (s.writeEv v oc).bump (if hit then F.TST_EVIDENCE_ATTRIB else F.TST_EVIDENCE_UNATTR) 1
    have s := s.send (srcRecess v.physA) .REPLAY_RESULT (oc * 2 ^ 38 + v.bell % 2 ^ 32)
    if hit then s else (s.countUnattr v.physA).countUnattr v.physB
  else s

/-- Suspects of fenced cores leave service (R401); then every resolved event ends. -/
def State.sweepEvs (s : State) : State :=
  have s := { s with tst := { s.tst with evs := s.tst.evs.map (fun (v : Evid) =>
     { v with sus := v.sus.map (fun (u : Sus) => if u.status == 0 && s.fenced u.phys then { u with status := 3 } else u) }) } }
  s.tst.evs.foldl (fun s v => s.evResolve v) s

/-! ### Locating the element (R388) -/

/-- Where the bytes at an operand-buffer offset came from: the latest MOVE before instruction i of core n that wrote it (R179, R388), or
the buffer itself when none did. -/
def State.movedFrom (s : State) (n i e off : Nat) : Nat :=
  have p := s.phys n
  have hit (x : Nat) : Option Nat :=
    have w := s.insWord p x
    if insOp w ≠ 0x08 then none
    else
      have d := s.rdN (keyDesk p (s.dir p 8 + 32 * insArg w 39 24)) 32
      have len := leAt d 20 4 - 32
      (List.range (leAt d 16 2)).findSome? (fun k =>
        (s.moveDsts n d k).findSome? (fun t => match t with
          | .ob q f o =>
            if q = p ∧ f = e ∧ o ≤ off ∧ off < o + len then
              (s.addrKey (leAt d 0 5 + k * leAt d 24 4)).map (fun a => a + 32 + (off - o))
            else none
          | .mem _ => none))
  (((List.range i).reverse).findSome? hit).getD (keyOb p e off)

/-- Bytes a suspect read, fetched from where the MOVEs took them. -/
def State.evBytes (s : State) (n i e off len : Nat) : List Byte := s.rdN (s.movedFrom n i e off) len

/-- First differing element of two output tiles. -/
def diffElem (w : Nat) (a b : List Byte) (n : Nat) : Option Nat :=
  (List.range n).find? (fun x => elemCode w a x != elemCode w b x)

/-- Position or row, channel, lane and strand slots of element x of a block (R68, R69, R76, R388). -/
def elemPlace (d : Opd) (x : Nat) : Nat × Nat × Nat × List Nat :=
  if d.form = 0 then
    have per := max (d.sg * 8) 1
    have ch := x % per
    (x / per, ch, ch % 8, (List.range d.groups).map (fun g => g * d.sg + ch / 8))
  else if d.form = 1 then
    have per := max (d.strands * d.pos) 1
    have lane := (d.laneList[x / per]?).getD 0
    (x % per, lane, lane, [x % per / max d.pos 1])
  else
    have per := max (d.strands * 8) 1
    (x / per, x % per, x % 8, [x % per / 8])

/-- L bytes of one suspect slot and S bytes of the block (R388, Table 14-4). -/
def State.evOperands (s : State) (n i e : Nat) (d : Opd) (b pos slot lane : Nat) : List Byte × List Byte :=
  have g (off len : Nat) : List Byte := s.evBytes n i e off len
  have sl := d.sb d.fl
  have ss := d.sb d.fs
  if d.form = 0 then
    ((List.range d.loads).flatMap (fun q => g (d.lBase + (q * d.strands + slot) * 8 * sl + lane * sl) sl),
     (List.range d.loads).flatMap (fun q => (List.range d.pos).flatMap (fun p =>
       have x : Int := (b * d.xStep + p : Nat) - (d.padLo : Int)
       if x < 0 ∨ (d.imgW : Int) ≤ x then packCodes d.fs (List.replicate d.k (d.padV % 2 ^ opWidth d.fs))
       else g (d.sBase + x.toNat * d.pStride + q * d.qStride) ss)))
  else
    have st := d.sBase + leNat (g (d.sBase + 2 * slot) 2)
    if d.form = 1 then
      have rd : ObRd := fun off len => s.rdN (keyOb (s.phys n) e off) len
      ((List.range d.loads).flatMap (fun k => g (d.lBase + k * 8 * sl + lane * sl) sl),
       if d.isBlk then
         have bl := ((blocksAt rd d.fs (d.blocks * d.pos * d.cols) st).drop (b * d.pos * d.cols)).take (d.pos * d.cols)
         bl.flatMap (fun x => g x.2 x.1.len)
       else g (st + b * d.pos * d.loads * ss) (d.pos * d.loads * ss))
    else
      have w := opWidth d.fl
      ((List.range d.loads).flatMap (fun q => g (d.lBase + (q * d.strands + slot) * w) w), g (st + (b * d.loads + pos) * opWidth d.fs) (opWidth d.fs))

/-- Records of a submission in list order. -/
def sortRecs (l : List MmRec) : List MmRec := sortBy l (fun a b => decide (a.idx ≤ b.idx))

/-- Evidence of a mismatch between submissions a (run A) and b (run B): the event, and whether operands were located (R388, R390). -/
def State.locate (s : State) (slot region : Nat) (a b : DigSub) : Evid × Bool :=
  have v : Evid :=
    { slot := slot, bell := s.curBell, region := region, coreA := a.core, coreB := b.core, physA := s.phys a.core, physB := s.phys b.core,
      engA := 0, engB := 0, lane := 0, instr := 0, stream := 0, tile := 0, pos := 0, ch := 0, groups := 0, lBytes := 0, sBytes := 0,
      data := [], cycles := 0, sus := [], holdEnd := min a.at0 b.at0 + 2 * 40064, captured := false }
  have pairs := List.zip (sortRecs a.recs) (sortRecs b.recs)
  match (List.range pairs.length).find? (fun i => match pairs[i]? with
      | some (x, y) => x.crc != y.crc
      | none => false) with
  | none => (v, false)
  | some i =>
    match pairs[i]? with
    | none => (v, false)
    | some (x, y) =>
      have da := parseOpd x.desc
      have db := parseOpd y.desc
      have len := fmtBytes da.outFmt da.elems
      have diff (k : Nat) : Option (Nat × Nat) :=
        (diffElem da.outFmt (s.rdN (keyDesk x.phys (da.out + k * da.outStride) + 32) len)
          (s.rdN (keyDesk y.phys (db.out + k * db.outStride) + 32) len) da.elems).map (fun e => (k, e))
      match (List.range da.blocks).findSome? diff with
      | none => (v, false)
      | some (k, e) =>
        let (pos, ch, lane, slots) := elemPlace da e
        have ea := stLoc x.unit % 8
        have eb := stLoc y.unit % 8
        have opA := slots.map (fun z => s.evOperands a.core x.idx ea da k pos z lane)
        have opB := slots.map (fun z => s.evOperands b.core y.idx eb db k pos z lane)
        have lb := ((opA.map (fun o => o.1)).headD []).length
        have sb := (opA.map (fun o => o.2)).headD []
        have mk (run p en : Nat) (r : MmRec) : List Sus :=
          slots.map (fun z => { run := run, phys := p, engine := en, strand := (r.slots[z]?).getD 0xFF, status := 0 })
        have v := { v with
           engA := ea, engB := eb, lane := lane, instr := i, stream := da.stream, tile := da.tile + k, pos := pos, ch := ch,
           groups := slots.length, lBytes := lb, sBytes := sb.length, cycles := da.slotCycles + 16, sus := mk 0 x.phys ea x ++ mk 1 y.phys eb y,
           data := x.desc ++ (opA ++ opB).flatMap (fun o => o.1) ++ sb }
        (v, decide (64 + v.data.length ≤ 61440) && decide (v.cycles ≤ 2048))

/-- The results of streams that failed the digest compare (R314). -/
def State.markDigest (s : State) (l : List Nat) : State := l.foldl (fun (s : State) x => s.markResult x 2 false) s

/-- DIGEST_COMPARE (R50): 64 cycles after the region's DIGEST, the verdict, once per bell. -/
def execDigestCompare (region : Byte) (s : State) : Host.Outcome State Fault Refusal :=
  have r := region.toNat
  match s.tt.subs.filter (fun x => x.region == r) with
  | [] => .next s
  | x :: rest =>
    have t := rest.foldl (fun t y => min t y.at0) x.at0
    have s := s.advanceTo (t + 128)
    have s := { s with tt := { s.tt with judged := r :: s.tt.judged, subs := s.tt.subs.filter (fun y => y.region != r) } }
    match rest with
    | [] =>
      have other := ((s.seqOf x.partner).digs.filter (fun d => d.partner == x.core)).flatMap (fun d => d.streams)
      let (ca, cb) := if x.run = 0 then (x.core, x.partner) else (x.partner, x.core)
      have s := (s.voidStreams (x.streams ++ other)).markDigest (x.streams ++ other)
      .next (s.send srcDual .DIGEST_MISSING (r * 2 ^ 32 + ca * 2 ^ 26 + cb * 2 ^ 20))
    | y :: _ =>
      if x.crc = y.crc ∧ x.count = y.count then .next s
      else
        let (a, b) := if x.run = 0 then (x, y) else (y, x)
        have s := (s.voidStreams (a.streams ++ b.streams)).markDigest (a.streams ++ b.streams)
        have slot := s.tst.evNext % 256
        let (v, found) := s.locate slot r a b
        have s := { s with tst := { s.tst with evNext := s.tst.evNext + 1 } }.bump F.TST_EVIDENCE_EVENTS 1
        have s := s.sendMsg { src := srcDual, kind := Kind.DIGEST_MISMATCH.code, addr := r * 2 ^ 32 + a.core * 2 ^ 26 + b.core * 2 ^ 20,
                              merges := 0, injected := false, ev := s.evKey slot, evBytes := 64 + v.data.length, detail := [] }
        .next (if found then { s with tst := { s.tst with evs := s.tst.evs ++ [v] } } else s.evNone { v with data := [], sus := [], groups := 0 })

/-- EVIDENCE_CAPTURE_DONE (R388, R391): after `dt` more TIME edges the operands are in the evidence tile, before the hold ends. -/
def execEvidenceCaptureDone (slot : Byte) (dt : Nat) (s : State) : Host.Outcome State Fault Refusal :=
  match s.tst.evs.find? (fun v => v.slot == slot.toNat && !v.captured) with
  | none => .next s
  | some v =>
    if v.holdEnd < s.now + dt then .next s
    else
      have s := (s.advance dt).writeEv v 0xFF
      .next ({ s with tst := { s.tst with evs := s.tst.evs.map (fun (x : Evid) => if x.slot == v.slot then { x with captured := true } else x) } }).sweepEvs

/-- EVIDENCE_HOLD_END (R390): the hold ends with the capture unfinished. -/
def execEvidenceHoldEnd (slot : Byte) (s : State) : Host.Outcome State Fault Refusal :=
  match s.tst.evs.find? (fun v => v.slot == slot.toNat && !v.captured) with
  | none => .next s
  | some v => .next ((s.advanceTo v.holdEnd).evNone v)

/-- STRAND_PROGRAM_DONE (R378, R379): the program ends on an engine; `fails` names the recess strands whose signature differed and the
first group that differed. -/
def execStrandProgramDone (phys : Fin 66) (engine : Fin 8) (fails : List (Fin 100 × BitVec 16)) (s : State) :
    Host.Outcome State Fault Refusal :=
  have p := phys.val
  have e := engine.val
  have key := p * 8 + e
  match s.tst.progs.find? (fun x => x.1 == key) with
  | none => .next s
  | some (_, t, ext) =>
    have s := s.advanceTo t
    have set := (s.eng p e).rec0
    have good := set.filter (fun k => !fails.any (fun f => f.1.val == k))
    have s := { s with tst := { s.tst with
       progs := s.tst.progs.filter (fun x => x.1 != key),
       tested := s.tst.tested ++ (good.map (fun k => (key, k))).filter (fun x => !s.tst.tested.contains x) } }
    have s := fails.foldl (fun (s : State) f => if set.contains f.1.val then s.strandFail p e f.1.val f.2.toNat else s) s
    .next (if ext then s.turnsDone p else s).sweepEvs

/-- SUSPECT_REPLAY_DONE (R392, R401): a suspect at recess has replayed its computation after the program; a difference retires it. -/
def execSuspectReplayDone (slot : Byte) (suspect : Fin 8) (equal : Bool) (s : State) : Host.Outcome State Fault Refusal :=
  match s.tst.evs.find? (fun v => v.slot == slot.toNat && v.captured) with
  | none => .next s
  | some v =>
    match v.sus[suspect.val]? with
    | none => .next s
    | some u =>
      have key := u.phys * 8 + u.engine
      have swapping := s.tt.jobs.any (fun j => j.kind == .swap && s.phys j.core == u.phys && stLoc j.unit % 8 == u.engine)
      if u.status ≠ 0 ∨ swapping ∨ s.tst.progs.any (fun x => x.1 == key) ∨ !(s.eng u.phys u.engine).rec0.contains u.strand ∨ s.fenced u.phys then
        .next s.sweepEvs
      else
        have s := s.advance (2 * v.cycles)
        have s := { s with tst := { s.tst with evs := s.tst.evs.map (fun (x : Evid) => if x.slot == v.slot then
           { x with sus := x.sus.set suspect.val { u with status := if equal then 1 else 2 } } else x) } }
        let (g, s) := if equal then (0, s) else s.freeNat 16
        have s := if equal then s else s.strandFail u.phys u.engine u.strand g
        .next s.sweepEvs

end Sys2Proof.Machine
end

