-- ==== Sys2Proof/Machine/Isp.lean ====
section
/-! DEFINITION. The image pipeline as functions on images (09, R225, R227, R233 to R240): pixel packing, ISP stages, pyramid levels,
statistics and taps. -/

namespace Sys2Proof.Machine
open Sys2Proof
set_option Elab.async false

/-! ### CSI-2 packing (Table 9-1; the bit orders are CSI-2's, log 16) -/

/-- Bytes of a line of n pixels of a data type. -/
def lineBytes (dt n : Nat) : Nat :=
  match dt with
  | 0x2B => n * 5 / 4
  | 0x2C => n * 3 / 2
  | 0x2D => n * 7 / 4
  | 0x2E => n * 2
  | 0x2F => n * 5 / 2
  | 0x27 => n * 3
  | 0x1E => n * 2
  | _ => 0

/-- Bits per raw code. -/
def rawBits (dt : Nat) : Nat :=
  match dt with
  | 0x2B => 10
  | 0x2C => 12
  | 0x2D => 14
  | 0x2E => 16
  | 0x2F => 20
  | 0x27 => 24
  | _ => 8

/-- Byte i of an array as a number. -/
def aByte (a : Array Byte) (i : Nat) : Nat := (a.getD i 0).toNat

def raw10At (a : Array Byte) (i : Nat) : Nat := aByte a (i / 4 * 5 + i % 4) * 4 + bits (aByte a (i / 4 * 5 + 4)) (2 * (i % 4) + 1) (2 * (i % 4))
def raw12At (a : Array Byte) (i : Nat) : Nat := aByte a (i / 2 * 3 + i % 2) * 16 + bits (aByte a (i / 2 * 3 + 2)) (4 * (i % 2) + 3) (4 * (i % 2))
def raw14At (a : Array Byte) (i : Nat) : Nat :=
  have b := i / 4 * 7
  have lo := aByte a (b + 4) + 256 * aByte a (b + 5) + 65536 * aByte a (b + 6)
  aByte a (b + i % 4) * 64 + bits lo (6 * (i % 4) + 5) (6 * (i % 4))

/-- Raw code of pixel i of a stored line. -/
def rawAt (dt : Nat) (a : Array Byte) (i : Nat) : Nat :=
  match dt with
  | 0x2B => raw10At a i
  | 0x2C => raw12At a i
  | 0x2D => raw14At a i
  | 0x2E => aByte a (2 * i) * 256 + aByte a (2 * i + 1)
  | 0x2F => raw10At a (2 * i) * 1024 + raw10At a (2 * i + 1)
  | 0x27 => raw12At a (2 * i) * 4096 + raw12At a (2 * i + 1)
  | _ => aByte a i

def pack10 : List Nat → List Byte
  | a :: b :: c :: d :: r =>
    leBytes 1 (a / 4) ++ leBytes 1 (b / 4) ++ leBytes 1 (c / 4) ++ leBytes 1 (d / 4) ++
      leBytes 1 (a % 4 + 4 * (b % 4) + 16 * (c % 4) + 64 * (d % 4)) ++ pack10 r
  | _ => []

def pack12 : List Nat → List Byte
  | a :: b :: r => leBytes 1 (a / 16) ++ leBytes 1 (b / 16) ++ leBytes 1 (a % 16 + 16 * (b % 16)) ++ pack12 r
  | _ => []

def pack14 : List Nat → List Byte
  | a :: b :: c :: d :: r =>
    leBytes 1 (a / 64) ++ leBytes 1 (b / 64) ++ leBytes 1 (c / 64) ++ leBytes 1 (d / 64) ++
      leBytes 3 (a % 64 + 64 * (b % 64) + 4096 * (c % 64) + 262144 * (d % 64)) ++ pack14 r
  | _ => []

/-- Pack raw codes of a line. -/
def packRaw (dt : Nat) (l : List Nat) : List Byte :=
  match dt with
  | 0x2B => pack10 l
  | 0x2C => pack12 l
  | 0x2D => pack14 l
  | 0x2E => l.flatMap (fun x => leBytes 1 (x / 256) ++ leBytes 1 x)
  | 0x2F => pack10 (l.flatMap (fun x => [x / 1024, x % 1024]))
  | 0x27 => pack12 (l.flatMap (fun x => [x / 4096, x % 4096]))
  | _ => l.flatMap (leBytes 1)

/-! ### Images -/

/-- A one-channel image, row-major. -/
structure Img where
  w : Nat
  h : Nat
  d : Array Nat

/-- Index mirrored about the edge pixel (R233). -/
def mirror (n : Nat) (x : Int) : Nat := if x < 0 then (-x).toNat else if (n : Int) ≤ x then (2 * ((n : Int) - 1) - x).toNat else x.toNat

def Img.at (m : Img) (x y : Int) : Nat := m.d.getD (mirror m.h y * m.w + mirror m.w x) 0

/-- Build an image pixel by pixel. -/
def Img.make (w h : Nat) (f : Nat → Nat → Nat) : Img := { w := w, h := h, d := ((List.range (w * h)).map (fun i => f (i % w) (i / w))).toArray }

def px24 : Nat := 16777215
def clampPx (i : Int) : Nat := (clampI i 0 px24).toNat

/-- CFA channel of a pixel: 0 R, 1 Gr, 2 Gb, 3 B (BAYER of Table 9-2). -/
def cfa (bayer x y : Nat) : Nat :=
  have k := (y % 2) * 2 + x % 2
  match bayer with
  | 0 => k
  | 1 => ([1, 0, 3, 2][k]?).getD 0
  | 2 => ([2, 3, 0, 1][k]?).getD 0
  | _ => 3 - k

/-- pwl of R233 over a curve of 641 nodes with a node maximum. -/
def pwl (x : Nat) (node : Nat → Nat) (top : Nat) : Nat :=
  if x < 32 then node x
  else
    have e := x.log2
    have sh := e - 5
    have i := 32 + (e - 5) * 32 + (x / 2 ^ sh - 32)
    have f := x % 2 ^ sh
    have d : Int := (node (i + 1) : Int) - node i
    have h : Int := if sh = 0 then 0 else (2 ^ (sh - 1) : Nat)
    (clampI (node i + (d * f + h) / (2 ^ sh : Nat)) 0 top).toNat

/-- A parameter set (Table 9-8). -/
structure PSet where
  bl : Nat → Nat
  blg : Nat
  wb : Nat → Nat
  ratio1 : Nat
  ratio2 : Nat
  knee : Nat
  sat : Nat
  dpcT : Nat
  ccm : Nat → Int
  tone : Nat

def parsePSet (b : List Byte) : PSet :=
  { bl := fun i => leAt b (3 * i) 3, blg := leAt b 12 2, wb := fun i => leAt b (14 + 2 * i) 2, ratio1 := leAt b 22 2, ratio2 := leAt b 24 2,
    knee := leAt b 28 3, sat := leAt b 32 3, dpcT := leAt b 36 3, ccm := fun i => toSigned 16 (leAt b (40 + 2 * i) 2), tone := leAt b 58 1 }

/-- merge of R234. -/
def hdrMerge (exps : Nat) (s : PSet) (l m sh : Nat) : Nat :=
  if exps = 1 then l
  else
    have mm := (m * s.ratio1 + 128) / 256
    have ss := (sh * s.ratio2 + 128) / 256
    have hi := if exps = 3 ∧ s.sat ≤ m then ss else mm
    if l < s.knee then l
    else if s.sat ≤ l then min hi px24
    else
      have w := (l - s.knee) * 65536 / (s.sat - s.knee)
      clampPx (l + (((hi : Int) - l) * w + 32768) / 65536)

/-- Stage 3: black level. -/
def blackLevel (s : PSet) (ch x : Nat) : Nat := min (((x - s.bl ch) * s.blg + 2048) / 4096) px24

/-- Second- and third-smallest, smallest and largest of four neighbours. -/
def fourStats (a b c d : Nat) : Nat × Nat × Nat × Nat :=
  match sortBy [a, b, c, d] (fun x y => decide (x ≤ y)) with
  | [w, x, y, z] => (w, x, y, z)
  | _ => (0, 0, 0, 0)

/-- Stage 5: static map, then dynamic detection, on the stage's input (R235). -/
def defect (s : PSet) (dpc : List (Nat × Nat)) (m : Img) : Img :=
  Img.make m.w m.h (fun x y =>
    have g (dx dy : Int) := m.at (x + dx) (y + dy)
    if dpc.contains (x, y) then (g (-2) 0 + g 2 0 + 1) / 2
    else
      have p := g 0 0
      let (lo, n2, n3, hi) := fourStats (g (-2) 0) (g 2 0) (g 0 (-2)) (g 0 2)
      if hi + s.dpcT < p ∨ p + s.dpcT < lo then (n2 + n3 + 1) / 2 else p)

/-- Lens-shading gain of a pixel (R235); the grid is 13 rows of 17 nodes with the four channels last. -/
def lscGain (grid : Nat → Nat) (w h ch x y : Nat) : Nat :=
  have gx := x * 4096 / max w 1
  have gy := y * 3072 / max h 1
  let (ix, fx, iy, fy) := (gx / 256, gx % 256, gy / 256, gy % 256)
  have n (j i : Nat) := grid ((j * 17 + i) * 4 + ch)
  (n iy ix * (256 - fx) * (256 - fy) + n iy (ix + 1) * fx * (256 - fy) + n (iy + 1) ix * (256 - fx) * fy + n (iy + 1) (ix + 1) * fx * fy + 32768) / 65536

def absDiff (a b : Int) : Int := ((a - b).natAbs : Int)

/-- Green at every pixel (R236). -/
def greenPlane (bayer : Nat) (m : Img) : Img :=
  Img.make m.w m.h (fun x y =>
    have ch := cfa bayer x y
    have g (dx dy : Int) : Int := (m.at (x + dx) (y + dy) : Nat)
    if ch = 1 ∨ ch = 2 then m.at x y
    else
      have c := g 0 0
      have dh := absDiff (g (-1) 0) (g 1 0) + ((2 * c - g (-2) 0 - g 2 0).natAbs : Int)
      have dv := absDiff (g 0 (-1)) (g 0 1) + ((2 * c - g 0 (-2) - g 0 2).natAbs : Int)
      have gh : Int := clampPx ((2 * (g (-1) 0 + g 1 0) + 2 * c - g (-2) 0 - g 2 0 + 2) / 4)
      have gv : Int := clampPx ((2 * (g 0 (-1) + g 0 1) + 2 * c - g 0 (-2) - g 0 2 + 2) / 4)
      if dh < dv then gh.toNat else if dv < dh then gv.toNat else clampPx ((gh + gv + 1) / 2))

/-- Red (want 0) or blue (want 3) at a pixel (R236). -/
def colourAt (bayer want : Nat) (m gp : Img) (x y : Nat) : Nat :=
  have ch := cfa bayer x y
  if ch = want then m.at x y
  else
    have ks : List (Int × Int) :=
      if ch = 1 ∨ ch = 2 then
        -- red lies in the row of Gr, blue in the row of Gb
        (if (ch = 1) = (want = 0) then [(-1, 0), (1, 0)] else [(0, -1), (0, 1)])
      else [(-1, -1), (1, -1), (-1, 1), (1, 1)]
    have n : Int := ks.length
    have sum := ks.foldl (fun (a : Int) k => a + ((m.at (x + k.1) (y + k.2) : Nat) : Int) - ((gp.at (x + k.1) (y + k.2) : Nat) : Int)) 0
    clampPx ((gp.at x y : Nat) + (sum + n / 2) / n)

/-- An image of three channels. -/
structure Rgb where
  w : Nat
  h : Nat
  c : Nat → Img

/-- What one frame's processing needs beside its planes. -/
structure IspIn where
  w : Nat
  h : Nat
  exps : Nat
  bayer : Nat
  dt : Nat
  pset : PSet
  decomp : Nat → Nat
  tone : Nat → Nat → Nat
  lsc : Nat → Nat
  dpc : List (Nat × Nat)
  /-- raw code of exposure e at x, y -/
  raw : Nat → Nat → Nat → Nat
  /-- stored byte of exposure 0, line y -/
  yuv : Bool
  yuvRow : Nat → Array Byte

/-- Stage 3 output of exposure e. -/
def IspIn.linear (i : IspIn) (e x y : Nat) : Nat :=
  blackLevel i.pset (cfa i.bayer x y) (min (pwl (i.raw e x y) i.decomp px24) px24)

/-- Stage 4 output. -/
def IspIn.merged (i : IspIn) : Img :=
  Img.make i.w i.h (fun x y => hdrMerge i.exps i.pset (i.linear 0 x y) (i.linear 1 x y) (i.linear 2 x y))

/-- Stages 5 to 8 on a merged image: red, green and blue planes. -/
def IspIn.demosaiced (i : IspIn) (m : Img) : Rgb :=
  have m := defect i.pset i.dpc m
  have m := Img.make i.w i.h (fun x y => min ((m.at x y * lscGain i.lsc i.w i.h (cfa i.bayer x y) x y + 2048) / 4096) px24)
  have m := Img.make i.w i.h (fun x y => min ((m.at x y * i.pset.wb (cfa i.bayer x y) + 2048) / 4096) px24)
  have g := greenPlane i.bayer m
  have r := Img.make i.w i.h (fun x y => colourAt i.bayer 0 m g x y)
  have b := Img.make i.w i.h (fun x y => colourAt i.bayer 3 m g x y)
  { w := i.w, h := i.h, c := fun k => if k = 0 then r else if k = 1 then g else b }

/-- Stages 9 to 11: RGB888. -/
def IspIn.rgb888 (i : IspIn) (m : Rgb) : Rgb :=
  have ch (k : Nat) : Img := Img.make i.w i.h (fun x y =>
     have s : Int := i.pset.ccm (3 * k) * ((m.c 0).at x y : Nat) + i.pset.ccm (3 * k + 1) * ((m.c 1).at x y : Nat) + i.pset.ccm (3 * k + 2) * ((m.c 2).at x y : Nat)
     have t := pwl (clampPx ((s + 2048) / 4096)) (i.tone i.pset.tone) 65535
     min 255 ((t + 128) / 256))
  have r := ch 0
  have g := ch 1
  have b := ch 2
  { w := i.w, h := i.h, c := fun k => if k = 0 then r else if k = 1 then g else b }

/-- Three channels of a YUV camera: Y, U and V, each pair of pixels sharing U and V. -/
def IspIn.bypass (i : IspIn) : Rgb :=
  have ch (k : Nat) : Img := Img.make i.w i.h (fun x y =>
     have a := i.yuvRow y
     have b := x / 2 * 4
     if k = 0 then aByte a (b + 1 + 2 * (x % 2)) else if k = 1 then aByte a b else aByte a (b + 2))
  have y := ch 0
  have u := ch 1
  have v := ch 2
  { w := i.w, h := i.h, c := fun k => if k = 0 then y else if k = 1 then u else v }

/-- A pyramid level entry (Table 9-6). -/
structure Level where
  src : Nat
  fx : Nat
  fy : Nat
  fmt : Nat
  x0 : Nat
  y0 : Nat
  w : Nat
  h : Nat
  stream : Nat
  rows : Nat
  deriving DecidableEq, Repr

def parseLevel (b : List Byte) : Level :=
  { src := leAt b 0 1, fx := leAt b 1 1, fy := leAt b 2 1, fmt := leAt b 3 1, x0 := leAt b 4 2, y0 := leAt b 6 2, w := leAt b 8 2,
    h := leAt b 10 2, stream := leAt b 12 2 % 4096, rows := leAt b 14 2 }

/-- Output size of a level. -/
def Level.ow (l : Level) : Nat := l.w / max l.fx 1
def Level.oh (l : Level) : Nat := l.h / max l.fy 1
/-- Row bytes of a level in its FORMAT. -/
def Level.rowBytes (l : Level) : Nat := if l.fmt = 0 ∨ l.fmt = 3 then 3 * l.ow else if l.fmt = 1 then 2 * l.ow else l.ow

/-- Crop and block average of a source, per channel (R237). -/
def Level.scale (l : Level) (m : Rgb) : Rgb :=
  have n := max l.fx 1 * max l.fy 1
  have ch (k : Nat) : Img := Img.make l.ow l.oh (fun x y =>
     have sum := (List.range n).foldl (fun a i => a + (m.c k).at ((l.x0 + x * l.fx + i % max l.fx 1 : Nat)) ((l.y0 + y * l.fy + i / max l.fx 1 : Nat))) 0
     (sum + n / 2) / n)
  have a := ch 0
  have b := ch 1
  have c := ch 2
  { w := l.ow, h := l.oh, c := fun k => if k = 0 then a else if k = 1 then b else c }

/-- Y, U or V of an RGB pixel with the Q14 matrix and offsets (16, 128, 128) (R237). -/
def toYuv (mat : Nat → Int) (r g b : Nat) (k : Nat) : Nat :=
  have s := mat (3 * k) * r + mat (3 * k + 1) * g + mat (3 * k + 2) * b
  (clampI ((s + 8192) / 16384 + (if k = 0 then 16 else 128)) 0 255).toNat

/-- Pack a level image in its FORMAT; `yuv` marks an image whose channels are Y, U and V already. -/
def Level.pack (l : Level) (mat : Nat → Int) (yuv : Bool) (m : Rgb) : List Byte :=
  have p (x y k : Nat) : Nat := (m.c k).at x y
  have q (x y k : Nat) : Nat := if yuv then p x y k else toYuv mat (p x y 0) (p x y 1) (p x y 2) k
  (List.range m.h).flatMap (fun y =>
    match l.fmt with
    | 0 => (List.range m.w).flatMap (fun x => leBytes 1 (p x y 0) ++ leBytes 1 (p x y 1) ++ leBytes 1 (p x y 2))
    | 1 => (List.range (m.w / 2)).flatMap (fun i =>
        have x := 2 * i
        leBytes 1 ((q x y 1 + q (x + 1) y 1 + 1) / 2) ++ leBytes 1 (q x y 0) ++ leBytes 1 ((q x y 2 + q (x + 1) y 2 + 1) / 2) ++ leBytes 1 (q (x + 1) y 0))
    | 2 => (List.range m.w).flatMap (fun x => leBytes 1 (q x y 0))
    | 3 => (List.range m.w).flatMap (fun x => leBytes 1 (p x y 0 + 128) ++ leBytes 1 (p x y 1 + 128) ++ leBytes 1 (p x y 2 + 128))
    | 4 => (List.range m.w).flatMap (fun x => leBytes 1 (q x y 0 + 128))
    | _ => [])

/-- The packed levels in order; an unused entry is empty. -/
def packLevels (ls : List Level) (mat : Nat → Int) (yuv : Bool) (m : Rgb) : List (List Byte) :=
  (ls.foldl (fun (acc : List Rgb × List (List Byte)) l =>
    if l.fmt = 0xFF then (acc.1 ++ [m], acc.2 ++ [[]])
    else
      have src := if l.src = 0 then m else (acc.1[l.src - 1]?).getD m
      have o := l.scale src
      (acc.1 ++ [o], acc.2 ++ [l.pack mat yuv o])) ([], [])).2

/-- Quad values r, g, b, y of the merged image (R238). -/
def quad (bayer : Nat) (m : Img) (qx qy : Nat) : List Nat :=
  have v (want : Nat) : Nat :=
    match (List.range 4).find? (fun i => cfa bayer (i % 2) (i / 2) == want) with
    | some i => m.at ((2 * qx + i % 2 : Nat)) ((2 * qy + i / 2 : Nat))
    | none => 0
  have r := v 0
  have g := (v 1 + v 2 + 1) / 2
  have b := v 3
  [r, g, b, (r + 2 * g + b + 2) / 4]

/-- Histograms and zones of a statistics record, bytes 64 onward (R238, Table 9-7), and the quads counted. -/
def statsBody (bayer shift : Nat) (m : Img) : List Byte × Nat :=
  have qw := m.w / 2
  have qh := m.h / 2
  have qs : List (List Nat) := (List.range (qw * qh)).map (fun i => quad bayer m (i % qw) (i / qw))
  have hist (c : Nat) : List Byte :=
    have a := qs.foldl (fun (a : Array Nat) q => have b := min 255 (((q[c]?).getD 0) / 2 ^ shift); a.setIfInBounds b (a.getD b 0 + 1)) (Array.replicate 256 0)
    a.toList.flatMap (leBytes 4)
  have qa := qs.toArray
  have zones := (List.range 24).flatMap (fun zy => (List.range 32).flatMap (fun zx =>
     have xs := (List.range ((zx + 1) * qw / 32 - zx * qw / 32)).map (· + zx * qw / 32)
     have ys := (List.range ((zy + 1) * qh / 24 - zy * qh / 24)).map (· + zy * qh / 24)
     have n := xs.length * ys.length
     (List.range 4).flatMap (fun c =>
       have sum := ys.foldl (fun a y => xs.foldl (fun a x => a + ((qa.getD (y * qw + x) [])[c]?).getD 0) a) 0
       leBytes 4 (if n = 0 then 0 else (sum + n / 2) / n))))
  (hist 0 ++ hist 1 ++ hist 2 ++ hist 3 ++ zones, qs.length)

/-- Lines of a raw tap (R240): T1 per exposure and T2 as RAW24, T3 from bits of the demosaiced image. -/
def tapLines (i : IspIn) (tap shift : Nat) : List (List Byte) :=
  match tap with
  | 1 => (List.range i.exps).flatMap (fun e => (List.range i.h).map (fun y => packRaw 0x27 ((List.range i.w).map (fun x => i.linear e x y))))
  | 2 => have m := i.merged; (List.range i.h).map (fun (y : Nat) => packRaw 0x27 ((List.range i.w).map (fun (x : Nat) => m.at x y)))
  | 3 =>
    have d := i.demosaiced i.merged
    (List.range i.h).map (fun (y : Nat) => (List.range i.w).flatMap (fun (x : Nat) => (List.range 3).flatMap (fun k => leBytes 1 (min 255 ((d.c k).at x y / 2 ^ shift)))))
  | _ => []

end Sys2Proof.Machine
end

