-- ==== Sys2Proof/Machine/Camera.lean ====
section
/-! DEFINITION. Camera receivers, frame buffers, ISP scheduling, tags and camera control (09, R218 to R251), with video and tap frames
of R499. -/

namespace Sys2Proof.Machine
open Sys2Proof
set_option Elab.async false

/-! ### The camera record (Table 9-2) -/

/-- The record of camera c. -/
def State.camRec (s : State) (c : Nat) : Option (List Byte) :=
  have bs := s.recBytes recCamera 0
  ((List.range (recCount bs 144)).map (recElem bs 144)).find? (fun r => leAt r 0 1 == c)

def State.cam (s : State) (c : Nat) : Cam := (s.cams[c]?).getD Cam.reset
def State.setCam (s : State) (c : Nat) (f : Cam → Cam) : State := { s with cams := s.cams.modify c f }

/-- A receiver with a record runs in every state but OFF and PARK (R220, R475). -/
def State.camOn (s : State) (c : Nat) : Option (List Byte) :=
  if s.pstate = .off ∨ s.parked ∨ s.replay.isSome then none else s.camRec c

def camFlag (r : List Byte) (i : Nat) : Bool := bitAt (leAt r 3 1) i
def camExps (r : List Byte) : Nat := leAt r 4 1
def camDt (r : List Byte) : Nat := leAt r 6 1
def camWidth (r : List Byte) : Nat := leAt r 12 2
def camLines (r : List Byte) : Nat := leAt r 14 2
def camEmbBytes (r : List Byte) : Nat := leAt r 18 2
def camHasEmb (r : List Byte) : Bool := leAt r 7 1 != 0xFF

def up64 (n : Nat) : Nat := ceilDiv n 64 * 64

/-- Bytes, number and offset of the lines of a plane; plane 3 is the embedded area (R225). -/
def planeBytes (r : List Byte) (e : Nat) : Nat := if e = 3 then camEmbBytes r else lineBytes (camDt r) (camWidth r)
def planeLines (r : List Byte) (e : Nat) : Nat := if e = 3 then leAt r 16 2 else camLines r
def planeOff (r : List Byte) (e i : Nat) : Nat :=
  if e = 3 then 0x1000 + i * up64 (camEmbBytes r)
  else 0x10000 + (e * camLines r + i) * up64 (planeBytes r e)

/-- Planes a frame has. -/
def planes (r : List Byte) : List Nat := List.range (camExps r) ++ (if camHasEmb r then [3] else [])
def planeVc (r : List Byte) (e : Nat) : Nat := if e = 3 then leAt r 7 1 else leAt r (8 + e) 1

/-- A line of pad: PAD pixels, or zeros in the embedded area (R227). -/
def padLine (r : List Byte) (e : Nat) : List Byte :=
  if e = 3 then List.replicate (camEmbBytes r) 0
  else if camDt r = 0x1E then (List.replicate (camWidth r) (leAt r 20 2)).flatMap (leBytes 2)
  else packRaw (camDt r) (List.replicate (camWidth r) (leAt r 20 4 % 2 ^ rawBits (camDt r)))

/-- Base of frame buffer k of camera c (R202, R224). -/
def State.fbBase (s : State) (c k : Nat) : Nat := ((s.hbmRegion 3).map (fun r => r.1)).getD 0x400000000 + (3 * c + k) * 0x2000000

/-! ### Registers that show the path -/

def bufFld (c k : Nat) : Fld := if k = 0 then F.CSI_LINK_BUF0 c else if k = 1 then F.CSI_LINK_BUF1 c else F.CSI_LINK_BUF2 c

def Cam.bufSt (m : Cam) (k : Nat) : Nat := ((m.bufs[k]?).getD CamBuf.reset).st

/-- Cameras of a pipeline. -/
def State.pipeCams (s : State) (p : Nat) : List Nat :=
  (List.range 16).filter (fun c => match s.camRec c with | some r => leAt r 1 1 == p | none => false)

/-- COMPLETE buffers of a pipeline's cameras: (T_SOF, camera, buffer). -/
def State.waiting (s : State) (p : Nat) : List (Nat × Nat × Nat) :=
  (s.pipeCams p).flatMap (fun c => ((List.range 3).filter (fun k => (s.cam c).bufSt k == 2)).map
    (fun k => ((((s.cam c).bufs[k]?).getD CamBuf.reset).sof, c, k)))

/-- Show buffer states and waiting counts (Tables 9-10, 9-11). -/
def State.camShow (s : State) (c : Nat) : State :=
  have m := s.cam c
  have s := (List.range 3).foldl (fun (s : State) k => s.wf (bufFld c k) (m.bufSt k)) s
  match s.camRec c with
  | some r => have p := leAt r 1 1; s.wf (F.ISP_STATUS_WAITING p) (s.waiting p).length
  | none => s

def State.setBuf (s : State) (c k : Nat) (f : CamBuf → CamBuf) : State :=
  (s.setCam c (fun m => { m with bufs := m.bufs.modify k f })).camShow c

def camAddr (c f : Nat) : Nat := c * 2 ^ 36 + f % 2 ^ 16

/-! ### Packet headers (R219, R227) -/

/-- Note a packet and judge its header: 0 good, 1 corrected, 2 discarded. Answers whether the packet is used. -/
def State.camHeader (s : State) (c vc ecc dt : Nat) : Bool × State :=
  have s := s.advance dt
  have s := s.setCam c (fun m => { m with lastPacket := s.now })
  if ecc = 0 then (true, s)
  else if ecc = 1 then (true, s.bump (F.CSI_ERR_ECC c) 1)
  else
    have m := s.cam c
    have f := match m.opens.getLast? with
      | some o => o.frame
      | none => m.lastFrame.getD 0
    (false, (s.bump (F.CSI_ERR_LOST c) 1).send (srcCam c) .CAM_HDR (c * 2 ^ 36 + vc * 2 ^ 16 + f % 2 ^ 16))

/-! ### Ending planes and frames -/

/-- Write line i of plane e of buffer k, with zeros up to the line stride (R225). -/
def State.camLine (s : State) (c k : Nat) (r : List Byte) (e i : Nat) (bs : List Byte) : State :=
  s.put 2 (keyHbm (s.fbBase c k + planeOff r e i)) (bs ++ List.replicate (up64 (planeBytes r e) - bs.length) 0)

/-- End plane e of a frame: missing lines are written with pad and count as repairs (R227). -/
def State.endPlane (s : State) (c : Nat) (r : List Byte) (o : CamOpen) (e : Nat) : CamOpen × State :=
  if (o.ended[e]?).getD true then (o, s)
  else
    have have' := (o.lines[e]?).getD 0
    have missing := planeLines r e - have'
    have s := match o.buf with
      | some k => (List.range missing).foldl (fun (s : State) j => s.camLine c k r e (have' + j) (padLine r e)) s
      | none => s
    have tag := o.tagBad || (e == 3 && decide (have' ≤ leAt r 44 1))
    ({ o with started := o.started.set e true, ended := o.ended.set e true, repairs := o.repairs + missing, tagBad := tag }, s)

/-- Lines of a stored plane from the buffer. -/
def State.planeData (s : State) (c k : Nat) (r : List Byte) (e : Nat) : List Byte :=
  (List.range (planeLines r e)).flatMap (fun i => s.rdN (keyHbm (s.fbBase c k + planeOff r e i)) (planeBytes r e))

/-- Two tag bytes in TAG_BE order. -/
def tagPair (r : List Byte) (t : Nat) : List Byte := if camFlag r 2 then leBytes 1 (t / 256) ++ leBytes 1 t else leBytes 2 t

/-- Tag of a finished frame and whether it is assumed (R243, R245). -/
def State.frameTag (s : State) (c k : Nat) (r : List Byte) (o : CamOpen) : Nat × Bool :=
  if camFlag r 1 && !o.tagBad then
    have at' := s.fbBase c k + planeOff r 3 (leAt r 44 1) + leAt r 42 2
    have a := s.rdLe (keyHbm at') 1
    have b := s.rdLe (keyHbm (at' + leAt r 45 1)) 1
    (if camFlag r 2 then a * 256 + b else a + 256 * b, false)
  else (o.assumed, true)

/-- Header bytes 0 to 251 of a frame buffer (Table 9-3). -/
def fbHeader (c : Nat) (b : CamBuf) (crcs : List Nat) (digs : List (List Byte)) (sdig : List Byte) : List Byte :=
  leBytes 1 1 ++ leBytes 1 c ++ leBytes 2 b.frame ++ leBytes 2 b.tag ++ leBytes 2 b.flags ++
  leBytes 6 (b.capt / 1000000000) ++ leBytes 4 (b.capt % 1000000000) ++ leBytes 6 (b.sof / 1000000000) ++ leBytes 4 (b.sof % 1000000000) ++
  leBytes 4 b.repairs ++ leBytes 4 b.seq ++ List.replicate 28 0 ++ crcs.flatMap (leBytes 4) ++ digs.flatMap id ++ sdig ++ List.replicate 12 0

/-- Sample digest (R226). -/
def sampleDigest (c frame capt : Nat) (digs : List (List Byte)) : List Byte :=
  shake256 (leBytes 1 c ++ leBytes 2 frame ++ leBytes 6 (capt / 1000000000) ++ leBytes 4 (capt % 1000000000) ++ digs.flatMap id) 32

/-- A whole frame: corrupt (R228), or COMPLETE with its header (R226). -/
def State.finishFrame (s : State) (c : Nat) (r : List Byte) (o : CamOpen) : State :=
  match o.buf with
  | none => s
  | some k =>
    if leAt r 24 2 < o.repairs then
      have s := (s.bump (F.CSI_ERR_DROP c) 1).send (srcCam c) .CAM_CORRUPT (c * 2 ^ 36 + satU 20 o.repairs * 2 ^ 16 + o.frame)
      s.setBuf c k (fun _ => CamBuf.reset)
    else
      let (tag, assumed) := s.frameTag c k r o
      have flags := 1 + (if o.repairs = 0 then 0 else 2) + (if assumed then 8 else 0) + (if o.free then 16 else 0)
      have b : CamBuf := { st := 2, frame := o.frame, seq := o.seq, tag := tag, flags := flags, capt := o.capt, sof := o.sof, repairs := o.repairs }
      have data := (List.range 4).map (fun e => if (planes r).contains e then some (s.planeData c k r e) else none)
      have crcs := data.map (fun d => match d with | some x => crc32c x | none => 0)
      have digs := data.map (fun d => match d with | some x => shake256 x 32 | none => List.replicate 32 (0 : Byte))
      have h := fbHeader c b crcs digs (sampleDigest c o.frame o.capt digs)
      have s := s.put 2 (keyHbm (s.fbBase c k)) (h ++ leBytes 4 (crc32c h))
      have s := (s.tally (F.CSI_FRAMES_DONE c) 1).tally (F.CSI_FRAMES_REPAIRED c) (if o.repairs = 0 then 0 else 1)
      have s := (s.wf (F.CSI_SOF_FRM_TAG c) tag).absorb 2 (data.foldl (fun n d => n + ((d.map List.length).getD 0)) 141)
      s.setBuf c k (fun _ => b)

def CamOpen.whole (r : List Byte) (o : CamOpen) : Bool := (planes r).all (fun e => (o.ended[e]?).getD true)

/-- End the planes `es` of every open frame that `sel` names, and finish the frames that are whole. -/
def State.endPlanes (s : State) (c : Nat) (r : List Byte) (es : List Nat) (sel : CamOpen → Bool) : State :=
  let (os, s) := (s.cam c).opens.foldl (fun (acc : List CamOpen × State) o =>
    if sel o then
      let (o, s) := es.foldl (fun (p : CamOpen × State) e => p.2.endPlane c r p.1 e) (o, acc.2)
      (acc.1 ++ [o], s)
    else (acc.1 ++ [o], acc.2)) ([], s)
  have done := os.filter (CamOpen.whole r)
  have s := s.setCam c (fun m => { m with opens := os.filter (fun o => !o.whole r) })
  done.foldl (fun (s : State) o => s.finishFrame c r o) s

/-- Planes carried by a VC. -/
def vcPlanes (r : List Byte) (vc : Nat) : List Nat := (planes r).filter (fun e => planeVc r e == vc)

/-! ### FS, lines, FE -/

/-- Capture time of a frame, or none when no trigger qualifies (R223). -/
def captOf (r : List Byte) (m : Cam) (sof : Nat) : Option Nat :=
  if camFlag r 0 then
    (m.trigs.find? (fun t => decide (t + leAt r 32 4 ≤ sof) && decide (sof ≤ t + leAt r 36 4))).map (fun t => t + leAt r 28 4)
  else some (sof - leAt r 32 4)

/-- The lowest FREE buffer, else the COMPLETE one with the oldest capture time (R224). -/
def takeBuf (m : Cam) : Option Nat × Bool :=
  match (List.range 3).find? (fun k => m.bufSt k == 0) with
  | some k => (some k, false)
  | none =>
    have cs := (List.range 3).filter (fun k => m.bufSt k == 2)
    (cs.foldl (fun (b : Option Nat) k => match b with
      | none => some k
      | some j => if ((m.bufs[k]?).getD CamBuf.reset).capt < ((m.bufs[j]?).getD CamBuf.reset).capt then some k else some j) none, true)

/-- The assumed tag: the latest group with LATENCY SOFs after its tc, this one included; else 1 (R245). -/
def assumedTag (r : List Byte) (m : Cam) : Nat :=
  match m.groups.reverse.find? (fun g => decide (leAt r 26 1 ≤ g.2.2)) with
  | some g => g.1
  | none => 1

/-- Count one more SOF after the completion of a group (R245, R251). -/
def countSof (sof : Nat) (g : Nat × Nat × Nat) : Nat × Nat × Nat := if g.2.1 < sof then (g.1, g.2.1, g.2.2 + 1) else g

/-- An accepted FS of plane 0 (R223, R224). -/
def State.openFrame (s : State) (c : Nat) (r : List Byte) (frame sof : Nat) : State :=
  have m := s.cam c
  have s := match m.lastFrame with
    | some p => if (p + 1) % 65536 = frame then s else s.send (srcCam c) .CAM_SKIP (c * 2 ^ 36 + (p + 1) % 65536 * 2 ^ 16 + frame)
    | none => s
  have s := (s.wf (F.CSI_SOF_NS_NS c) (sof % 1000000000)).wf (F.CSI_SOF_FRM_FRAME c) frame
  have s := s.setCam c (fun m => { m with lastFrame := some frame, groups := m.groups.map (countSof sof) })
  have m := s.cam c
  have st := (List.range 4).map (fun e => (vcPlanes r (planeVc r 0)).contains e)
  have en := (List.range 4).map (fun e => !(planes r).contains e)
  have o : CamOpen :=
    { buf := none, frame := frame, capt := 0, sof := sof, seq := m.seq + 1, lines := [0, 0, 0, 0], started := st, ended := en,
                       extra := [false, false, false, false], tagBad := false, repairs := 0, assumed := assumedTag r m, free := s.freeRunning }
  match captOf r m sof with
  | none =>
    have s := (s.bump (F.CSI_ERR_DROP c) 1).send (srcCam c) .CAM_TRIG (camAddr c frame)
    s.setCam c (fun m => { m with opens := m.opens ++ [o] })
  | some capt =>
    match takeBuf m with
    | (none, _) =>
      have s := (s.bump (F.CSI_ERR_DROP c) 1).send (srcCam c) .CAM_DROP (camAddr c frame)
      s.setCam c (fun m => { m with opens := m.opens ++ [o] })
    | (some k, drop) =>
      have s := if drop then
          (s.bump (F.CSI_ERR_DROP c) 1).send (srcCam c) .CAM_DROP (camAddr c ((m.bufs[k]?).getD CamBuf.reset).frame)
        else s
      have s := s.setCam c (fun m => { m with seq := m.seq + 1, opens := m.opens ++ [{ o with buf := some k, capt := capt }] })
      s.setBuf c k (fun _ => { CamBuf.reset with st := 1, frame := frame, capt := capt, sof := sof })

/-- FRAME_START (R219, R223, R224, R227). `latency`: the receiver's fixed latency for the gear in ns, of which the spec gives no
number, so the event brings it. -/
def execFrameStart (camera : Fin 16) (vc : Fin 4) (frame : BitVec 16) (ecc : Fin 3) (latency dt : Nat) (s : State) :
    Host.Outcome State Fault Refusal :=
  have c := camera.val
  match s.camOn c with
  | none => .next s
  | some r =>
    let (ok, s) := s.camHeader c vc.val ecc.val dt
    if !ok then .next s
    else
      have es := vcPlanes r vc.val
      if es.isEmpty then .next s
      else if es.contains 0 then
        have s := s.endPlanes c r es (fun _ => true)
        .next (s.openFrame c r frame.toNat (s.timeNs - latency))
      else
        have os := (s.cam c).opens
        have tgt : Option Nat := match os.find? (fun o => o.frame == frame.toNat) with
          | some o => some o.sof
          | none => (os.getLast?).map (fun o => o.sof)
        have s := s.endPlanes c r es (fun o => (tgt != some o.sof) || es.any (fun e => (o.started[e]?).getD false))
        .next (s.setCam c (fun m => { m with opens := m.opens.map (fun o =>
          if tgt == some o.sof then { o with started := es.foldl (fun l e => l.set e true) o.started } else o) }))

/-- One line of plane e of a frame (R227): the frame and state after it. -/
def State.takeLine (s : State) (c : Nat) (r : List Byte) (o : CamOpen) (e : Nat) (crcOk : Bool) (payload : List Byte) : CamOpen × State :=
  have i := (o.lines[e]?).getD 0
  have lb := planeBytes r e
  if planeLines r e ≤ i then
    if o.extra.any id then (o, s)
    else ({ o with extra := o.extra.set e true, repairs := o.repairs + 1 }, s)
  else
    have bad := !crcOk || payload.length != lb
    have line := if crcOk then payload.take lb ++ (padLine r e).drop payload.length else padLine r e
    have s := if crcOk then s
      else (s.bump (F.CSI_ERR_CRC c) 1).send (srcCam c) .CAM_LINE_CRC (c * 2 ^ 36 + e * 2 ^ 32 + i * 2 ^ 16 + o.frame)
    have s := match o.buf with
      | some k => s.camLine c k r e i line
      | none => s
    ({ o with lines := o.lines.set e (i + 1), repairs := o.repairs + (if bad then 1 else 0),
              tagBad := o.tagBad || (bad && e == 3 && i == leAt r 44 1) }, s)

/-- Plane of a long packet (R219, Table 9-1). -/
def packetPlane (r : List Byte) (vc dt : Nat) : Option Nat :=
  (planes r).find? (fun e => planeVc r e == vc && (if e = 3 then decide (0x12 ≤ dt) && decide (dt ≤ 0x16) else dt == camDt r))

/-- LONG_PACKET (R219, R227). -/
def execLongPacket (camera : Fin 16) (vc : Fin 4) (dtype : BitVec 6) (ecc : Fin 3) (crcOk : Bool) (payload : List Byte) (dt : Nat)
    (s : State) : Host.Outcome State Fault Refusal :=
  have c := camera.val
  match s.camOn c with
  | none => .next s
  | some r =>
    let (ok, s) := s.camHeader c vc.val ecc.val dt
    if !ok then .next s
    else
      match packetPlane r vc.val dtype.toNat with
      | none => .next (s.bump (F.CSI_ERR_LOST c) 1)
      | some e =>
        have open' (o : CamOpen) : Bool := (o.started[e]?).getD false && !(o.ended[e]?).getD true
        match (s.cam c).opens.find? open' with
        | none => .next (s.bump (F.CSI_ERR_LOST c) 1)
        | some o =>
          let (o2, s) := s.takeLine c r o e crcOk payload
          .next (s.setCam c (fun m => { m with opens := m.opens.map (fun x => if x = o then o2 else x) }))

/-- FRAME_END (R227). -/
def execFrameEnd (camera : Fin 16) (vc : Fin 4) (ecc : Fin 3) (dt : Nat) (s : State) : Host.Outcome State Fault Refusal :=
  have c := camera.val
  match s.camOn c with
  | none => .next s
  | some r =>
    let (ok, s) := s.camHeader c vc.val ecc.val dt
    if !ok then .next s
    else
      have es := vcPlanes r vc.val
      .next (s.endPlanes c r es (fun o => es.any (fun e => (o.started[e]?).getD false)))

/-- FRAME_TIMEOUT (R227): FRAME_TIMEOUT µs after the last packet, every open frame ends. -/
def execFrameTimeout (camera : Fin 16) (s : State) : Host.Outcome State Fault Refusal :=
  have c := camera.val
  match s.camOn c with
  | none => .next s
  | some r =>
    if (s.cam c).opens.isEmpty then .next s
    else
      have s := s.advanceTo ((s.cam c).lastPacket + leAt r 52 4 * 400)
      .next (s.endPlanes c r (planes r) (fun _ => true))

/-! ### Link and trigger (R222, R246) -/

/-- The link of a camera goes down: CAM_LINK once per loss (R246, R462). -/
def State.camDown (s : State) (c : Nat) : State :=
  if s.flag (F.CSI_LINK_UP c) then
    ((s.wf (F.CSI_LINK_UP c) 0).wf (F.CSI_LINK_GEAR c) 0).send (srcCam c) .CAM_LINK (c * 2 ^ 36)
  else s

/-- CAM_LINK_DOWN (R246). -/
def execCamLinkDown (camera : Fin 16) (s : State) : Host.Outcome State Fault Refusal :=
  match s.camOn camera.val with
  | none => .next s
  | some _ => .next ((s.wf F.CLK_SERDES_APHY_RX (setBits (s.rf F.CLK_SERDES_APHY_RX) camera.val camera.val 0)).camDown camera.val)

/-- CAM_LINK_UP (R246): the gear the link reached and, at start-up, whether the initialisation script passed. -/
def execCamLinkUp (camera : Fin 16) (gear : Fin 6) (scriptOk : Bool) (s : State) : Host.Outcome State Fault Refusal :=
  have c := camera.val
  match s.camOn c with
  | none => .next s
  | some r =>
    if !s.flag (F.CSI_LINK_POC_ON c) then .next s
    else
      have s := s.wf F.CLK_SERDES_APHY_RX (setBits (s.rf F.CLK_SERDES_APHY_RX) c c 1)
      have s := s.wf (F.CSI_LINK_GEAR c) gear.val
      have up := decide (leAt r 2 1 ≤ gear.val) && decide (0 < gear.val)
      have s := s.wf (F.CSI_LINK_UP c) (if up then 1 else 0)
      if up && scriptOk then .next s
      else .next ((s.setCam c (fun m => { m with failed := m.failed || !scriptOk })).send (srcCam c) .CAM_LINK (c * 2 ^ 36))

/-- The first trigger instant at or after x ns (R222). -/
def State.nextTrig (s : State) (r : List Byte) (x : Nat) : Nat :=
  have lead := leAt r 28 4
  have n := max (leAt r 27 1) 1
  have p := s.bellPeriod
  have y := x + lead
  have b := if y < s.epochNs then 0 else (y - s.epochNs) / p
  have at' (bell k : Nat) : Nat := s.epochNs + bell * p + k * p / n
  match (List.range n).find? (fun k => decide (y ≤ at' b k)) with
  | some k => at' b k - lead
  | none => at' (b + 1) 0 - lead

/-- CAMERA_TRIGGER (R222): time passes to the camera's next t_trig and the trigger leaves. -/
def execCameraTrigger (camera : Fin 16) (s : State) : Host.Outcome State Fault Refusal :=
  have c := camera.val
  match s.camOn c with
  | none => .next s
  | some r =>
    if !camFlag r 0 || !s.flag (F.CSI_LINK_UP c) || decide (s.bellPeriod = 0) then .next s
    else
      have t := s.nextTrig r (match (s.cam c).trigs.head? with | some l => max s.timeNs (l + 1) | none => s.timeNs)
      have s := s.advanceToNs t
      .next ((s.setCam c (fun m => { m with trigs := (t :: m.trigs).take 8 })).out (.gpio c))

/-! ### CSI-2 output of video and taps (R240, R499, R500) -/

/-- Send one CSI-2 frame on an output link, or drop it while the link is down. -/
def State.csiSend (s : State) (link vc frame : Nat) (packets : List (Nat × List Byte)) : State :=
  if s.flag (F.CSO_STATUS_UP link) then
    (s.out (.csi link vc frame packets)).tally (F.CSO_FRAMES_FRAMES link) 1
  else s.bump (F.CSO_DROP_RECORDS link) 1

/-- Elements of the OUTPUT record (R485): outputs, destinations, and the tap element. -/
def State.nOut (s : State) : Nat := s.recLe recOutput 0 1
def State.nDest (s : State) : Nat := s.recLe recOutput 1 1
def State.outElem (s : State) (o : Nat) : List Byte := recElem (s.recBytes recOutput 0) 64 (1 + o)
def State.destElem (s : State) (d : Nat) : List Byte := recElem (s.recBytes recOutput 0) 64 (1 + s.nOut + d)
def State.tapElem (s : State) : List Byte := recElem (s.recBytes recOutput 0) 64 (1 + s.nOut + s.nDest)

/-- Split bytes into rows of n bytes. -/
def rowsOf (n : Nat) (bs : List Byte) : List (List Byte) := (List.range (bs.length / max n 1)).map (fun i => (bs.drop (i * n)).take n)

/-- Flags of Table 2-4 for an output set's flags. -/
def setFlags (f : Nat) : Nat :=
  (if bitAt f 1 then flRepaired else 0) + (if bitAt f 2 then flVoid else 0) + (if bitAt f 3 then flTag else 0) + (if bitAt f 4 then flFree else 0)

/-- Send a camera's video outputs when its output set becomes COMPLETE (R499). -/
def State.sendVideo (s : State) (c : Nat) (r : List Byte) (st : CamSet) (levels : List (List Byte)) : State :=
  (List.range s.nOut).foldl (fun (s : State) o =>
    have e := s.outElem o
    if leAt e 0 1 ≠ 5 ∨ leAt e 4 1 % 16 ≠ c then s
    else
      have lv := leAt e 4 1 / 16 % 4
      have l := parseLevel (recElem (r.drop 80) 16 lv)
      have bs := (levels[lv]?).getD []
      [10, 11].foldl (fun (s : State) off =>
        have x := leAt e off 1
        have link := x % 4
        if !bitAt x 7 || decide (s.rf (F.CSO_STATUS_MAJOR link) = 0) then s
        else
          have h := (extRecord (leAt e 2 2) (s.rf (F.CSO_STATUS_MAJOR link)) (s.rf (F.CSO_STATUS_MINOR link)) (s.curBell % 2 ^ 32)
             (st.capt / 1000000000) (st.capt % 1000000000) (setFlags st.flags) (satU 32 ((s.timeNs - st.capt) / 1000)) bs).take 32
          s.csiSend link (x / 4 % 8) (st.frame % 65535 + 1)
            ((0x12, h) :: (rowsOf l.rowBytes bs).map (fun row => (if l.fmt = 0 then 0x24 else 0x1E, row)))) s) s

/-! ### Parameter sets (R244) -/

/-- Show the parameter-set registers. -/
def State.psetShow (s : State) (c cur : Nat) : State :=
  (s.wf (F.ISP_TAGS_CUR c) cur).wf (F.ISP_TAGS_PENDING c) (s.cam c).psets.length

/-- The set that applies to a frame of tag t whose processing starts (R244). -/
def State.pickPset (s : State) (p c tag frame : Nat) : State :=
  have m := s.cam c
  -- in replay the item of the frame gives the set (R417)
  match s.replay with
  | some rp =>
    match rp.psets.find? (fun (x : Nat × Nat × List Byte) => x.1 == c && x.2.1 == frame) with
    | some x => (s.setCam c (fun m => { m with pset := x.2.2 })).psetShow c tag
    | none => s
  | none =>
  match m.psets.reverse.findIdx? (fun x => x.1 == tag) with
  | some i =>
    have k := m.psets.length - 1 - i
    have s := s.setCam c (fun m => { m with pset := ((m.psets[k]?).map (fun x => x.2)).getD [], psets := m.psets.drop (k + 1) })
    s.psetShow c tag
  | none =>
    if tag = s.rf (F.ISP_TAGS_CUR c) then s
    else (s.bump (F.ISP_TAGERR_UNKNOWN c) 1).send (srcIsp p) .TAG_UNKNOWN (c * 2 ^ 36 + tag * 2 ^ 16 + frame)

/-- PSET_COMMIT (R244): commits the staged set; tag 0 is ignored. -/
def execPsetCommit (req : Requester) (camera : Fin 16) (tag : BitVec 32) (s : State) : Host.Outcome State Fault Refusal :=
  have c := camera.val
  have t := tag.toNat % 65536
  .next (s.cmdWrite req (A.ISP_PSET_COMMIT c) (fun s =>
    if t = 0 then s
    else
      have words := (List.range 16).flatMap (fun w => leBytes 4 (s.rf (F.ISP_PSET_WORD c w)))
      have l := (s.cam c).psets ++ [(t, words)]
      have s := if 8 < l.length then s.bump (F.ISP_TAGERR_OVERWRITE c) 1 else s
      have s := s.setCam c (fun m => { m with psets := if 8 < l.length then l.drop 1 else l })
      s.psetShow c (s.rf (F.ISP_TAGS_CUR c))))

/-! ### ISP pipelines (R229 to R232) -/

/-- The earliest T_SOF of a pipeline's COMPLETE buffers, the lower camera on a tie (R232). -/
def earliest (l : List (Nat × Nat × Nat)) : Option (Nat × Nat × Nat) :=
  l.foldl (fun (b : Option (Nat × Nat × Nat)) x => match b with
    | none => some x
    | some y => if x.1 < y.1 ∨ (x.1 = y.1 ∧ x.2.1 < y.2.1) then some x else some y) none

/-- The lowest output set that neither the snapshot holds nor is the newest COMPLETE one (R237). -/
def freeSet (m : Cam) : Nat := ((List.range 3).find? (fun k => m.held != some k && m.newest != some k)).getD 0

/-- T_PROC in PIX cycles (R230). -/
def tProc (w l : Nat) : Nat := (w / 2 + 2) * l + 2560

/-- ISP_FRAME_START (R232, R244). -/
def execIspFrameStart (pipe : Fin 4) (s : State) : Host.Outcome State Fault Refusal :=
  have p := pipe.val
  if s.pstate = .off ∨ s.parked ∨ ((s.pipes[p]?).getD none).isSome then .next s
  else
    match earliest (s.waiting p) with
    | none => .next s
    | some (_, c, k) =>
      match s.camRec c with
      | none => .next s
      | some r =>
        have b := ((s.cam c).bufs[k]?).getD CamBuf.reset
        have s := s.setBuf c k (fun b => { b with st := 3 })
        have s := s.pickPset p c b.tag b.frame
        have s := s.wf (F.ISP_TAGS_ASSUMED c) (if bitAt b.flags 3 then 1 else 0)
        have o := freeSet (s.cam c)
        have s := s.setCam c (fun m => { m with sets := m.sets.modify o (fun x => { x with complete := false }) })
        have j : PipeJob := { cam := c, buf := k, set := o, due := s.now + ceilDiv (2 * tProc (camWidth r) (camLines r)) 3, tag := b.tag, pset := (s.cam c).pset }
        have s := { s with pipes := s.pipes.set p (some j) }
        have s := (s.wf (F.ISP_STATUS_BUSY p) 1).wf (F.ISP_STATUS_CAMERA p) c
        .next (s.wf (F.ISP_STATUS_TAP p) (if leAt r 11 1 = 0 then 0 else 1))

/-- Read a plane of a buffer with the memory's checks. -/
def State.loadPlane (s : State) (c k : Nat) (r : List Byte) (e : Nat) : List (List Byte) × Bool × State :=
  (List.range (planeLines r e)).foldl (fun (acc : List (List Byte) × Bool × State) i =>
    let (bs, ok, s) := acc.2.2.fetch 3 (keyHbm (s.fbBase c k + planeOff r e i)) (planeBytes r e)
    (acc.1 ++ [bs], acc.2.1 && ok, s)) ([], true, s)

/-- Inputs of the pixel pipeline from the loaded planes. -/
def State.ispIn (s : State) (c : Nat) (r : List Byte) (j : PipeJob) (rows : List (List (List Byte))) : IspIn :=
  have arr : Array (Array (Array Byte)) := (rows.map (fun p => (p.map (fun l => l.toArray)).toArray)).toArray
  have tab (kind : Nat) : Array Byte := (s.recBytes recCamTable (4 * c + kind)).toArray
  have u16 (a : Array Byte) (i : Nat) : Nat := aByte a (2 * i) + 256 * aByte a (2 * i + 1)
  have t0 := tab 0
  have t1 := tab 1
  have t2 := tab 2
  have t3 := tab 3
  { w := camWidth r, h := camLines r, exps := camExps r, bayer := leAt r 5 1, dt := camDt r, pset := parsePSet j.pset,
    decomp := fun i => u16 t0 (2 * i) + 65536 * u16 t0 (2 * i + 1),
    tone := fun curve i => u16 t1 (641 * curve + i),
    lsc := fun i => u16 t2 i,
    dpc := (List.range (t3.size / 4)).map (fun i => (u16 t3 (2 * i), u16 t3 (2 * i + 1))),
    raw := fun e x y => rawAt (camDt r) ((arr.getD e #[]).getD y #[]) x,
    yuv := camFlag r 3, yuvRow := fun y => (arr.getD 0 #[]).getD y #[] }

/-- Check the buffer as it is read (R229): planes' lines, whether everything is good, and the state with the faults sent. -/
def State.checkFb (s : State) (p : Nat) (r : List Byte) (j : PipeJob) (frame : Nat) : List (List (List Byte)) × Bool × State :=
  let (h, okH, s) := s.fetch 3 (keyHbm (s.fbBase j.cam j.buf)) 256
  have bad (s : State) (plane : Nat) : State :=
    (s.bump (F.ISP_FRAMES_FBCRC p) 1).send (srcIsp p) .FB_CRC (j.cam * 2 ^ 36 + plane * 2 ^ 32 + frame)
  have hcOk := leAt h 252 4 == crc32c (h.take 252)
  have s := if hcOk then s else bad s 15
  (planes r).foldl (fun (acc : List (List (List Byte)) × Bool × State) e =>
    let (ls, ok, s) := acc.2.2.loadPlane j.cam j.buf r e
    have good := leAt h (0x40 + 4 * e) 4 == crc32c (ls.flatMap id)
    have s := if good then s else bad s e
    (acc.1 ++ [ls], acc.2.1 && ok && good, s)) ([], okH && hcOk, s)

/-- Offsets of the levels in a set: each on a 32-byte boundary after the 64-byte header. -/
def levelOffsets (ls : List (List Byte)) : List Nat :=
  (ls.foldl (fun (acc : List Nat × Nat) l => (acc.1 ++ [acc.2], ceilDiv (acc.2 + l.length) 32 * 32)) ([], 64)).1

/-- The 64-byte header of an output set (R237). -/
def setHeader (c tag : Nat) (st : CamSet) (sdig : List Byte) (levels : List (List Byte)) : List Byte :=
  have h := leBytes 1 1 ++ leBytes 1 c ++ leBytes 2 st.frame ++ leBytes 2 tag ++ leBytes 2 st.flags ++ leBytes 6 (st.capt / 1000000000) ++
    leBytes 4 (st.capt % 1000000000) ++ sdig ++ List.replicate 10 0
  h ++ leBytes 4 (crc32c (h ++ levels.flatMap id))

/-- Write a statistics record (R239). -/
def State.putStats (s : State) (c tag : Nat) (st : CamSet) (body : List Byte) (quads : Nat) : State :=
  have seq := (s.rf (F.ISP_STATS_SEQ_SEQ c) + 1) % 2 ^ 32
  have fl := (if bitAt st.flags 3 then 1 else 0) + (if bitAt st.flags 1 then 2 else 0) + (if bitAt st.flags 4 then 4 else 0)
  have h := leBytes 2 c ++ leBytes 2 st.frame ++ leBytes 2 tag ++ leBytes 2 fl ++ leBytes 6 (st.capt / 1000000000) ++
    leBytes 4 (st.capt % 1000000000) ++ leBytes 2 0 ++ leBytes 4 quads ++ leBytes 4 seq ++ List.replicate 32 0
  have at' := s.recLe recIsp 0 5 + (4 * c + seq % 4) * 16448
  match s.addrKey at' with
  | none => s
  | some k =>
    have s := s.store k (h ++ leBytes 4 (crc32c (h ++ body)) ++ body)
    have s := s.wf (F.ISP_STATS_SEQ_SEQ c) seq
    s.wf F.ISP_STATS_READY_READY (setBits (s.rf F.ISP_STATS_READY_READY) c c 1)

/-- Lines of a tap with their data type (R240, R499). -/
def tapPackets (r : List Byte) (i : IspIn) (rows : List (List (List Byte))) (levels : List (List Byte)) : List (Nat × List Byte) :=
  match leAt r 11 1 with
  | 1 => ((rows.take (camExps r)).flatMap id).map (fun l => (camDt r, l))
  | 5 => have l := parseLevel (r.drop 80); (rowsOf l.rowBytes ((levels[0]?).getD [])).map (fun x => (if l.fmt = 0 then 0x24 else 0x1E, x))
  | 4 => (tapLines i 3 (leAt r 56 1)).map (fun l => (0x24, l))
  | t => (tapLines i (t - 1) 0).map (fun l => (0x27, l))

/-- Send the tap frame less the lines the link could not take (R240). -/
def State.sendTap (s : State) (p : Nat) (r : List Byte) (c : Nat) (st : CamSet) (lines : List (Nat × List Byte)) (dropped : List Nat) : State :=
  have x := leAt (s.tapElem) c 1
  if leAt r 11 1 = 0 ∨ !bitAt x 7 then s
  else
    have kept := (List.range lines.length).filterMap (fun i => if dropped.contains i then none else lines[i]?)
    have n := lines.length - kept.length
    have s := s.csiSend (x % 4) (x / 4 % 8) (st.frame % 65535 + 1) kept
    if n = 0 then s
    else (s.bump (F.ISP_FRAMES_TAPDROP p) 1).send (srcIsp p) .TAP_DROP (c * 2 ^ 36 + satU 20 n * 2 ^ 16 + st.frame)

/-- ISP_FRAME_DONE (R229, R230, R237 to R240, R499). `dropped`: tap lines the output link could not take in time. -/
def execIspFrameDone (pipe : Fin 4) (dropped : List Nat) (s : State) : Host.Outcome State Fault Refusal :=
  have p := pipe.val
  match (s.pipes[p]?).getD none with
  | none => .next s
  | some j =>
    match s.camRec j.cam with
    | none => .next s
    | some r =>
      have c := j.cam
      have s := s.advanceTo j.due
      have b := ((s.cam c).bufs[j.buf]?).getD CamBuf.reset
      let (rows, ok, s) := s.checkFb p r j b.frame
      have i := s.ispIn c r j rows
      have merged := i.merged
      have img := if i.yuv then i.bypass else i.rgb888 (i.demosaiced merged)
      have ls := (List.range 4).map (fun k => parseLevel (recElem (r.drop 80) 16 k))
      have mat (k : Nat) : Int := toSigned 16 (s.recLe recIsp (8 + 2 * k) 2)
      have levels := packLevels ls mat i.yuv img
      have st : CamSet := { complete := true, void := !ok, frame := b.frame, seq := b.seq, capt := b.capt,
                            flags := setBits (setBits b.flags 2 2 (if ok then 0 else 1)) 0 0 1, pset := if i.yuv then [] else j.pset }
      have sdig := s.rdN (keyHbm (s.fbBase c j.buf + 0xD0)) 32
      have base := leAt r 64 5 + j.set * leAt r 72 4
      have s := match s.addrKey base with
        | none => s
        | some k =>
          have s := ((levelOffsets levels).zip levels).foldl (fun (s : State) (x : Nat × List Byte) => s.store (k + x.1) x.2) s
          s.store k (setHeader c j.tag st sdig levels)
      have s := if i.yuv then s
        else
          let (body, quads) := statsBody i.bayer (leAt r 47 1) merged
          s.putStats c j.tag st body quads
      have s := s.setCam c (fun m => { m with sets := m.sets.set j.set st, newest := some j.set })
      have s := s.setBuf c j.buf (fun _ => CamBuf.reset)
      have s := (s.sendVideo c r st levels).sendTap p r c st (tapPackets r i rows levels) dropped
      have s := { s with pipes := s.pipes.set p none }
      have s := ((s.wf (F.ISP_STATUS_BUSY p) 0).wf (F.ISP_STATUS_TAP p) 0).tally (F.ISP_FRAMES_DONE p) 1
      .next s

/-! ### I2C tunnel (R241, R242) -/

def I2cOp.entries : I2cOp → Nat
  | .group _ ws => ws.length
  | _ => 1

/-- Bytes that leave for an operation: device, register most significant first, data. -/
def i2cBytes (dev reg : Nat) (data : List Byte) : List Byte := leBytes 1 dev ++ leBytes 1 (reg / 256) ++ leBytes 1 reg ++ data

/-- The write sequence of a group (R242). -/
def groupSeq (r : List Byte) (tag : Nat) (ws : List (Nat × Nat × List Byte)) : List (Nat × Nat × List Byte) :=
  have d := leAt r 46 1
  [(d, leAt r 48 2, leBytes 1 (leAt r 50 1))] ++ ws ++ [(d, leAt r 40 2, tagPair r tag), (d, leAt r 48 2, leBytes 1 (leAt r 51 1))]

def I2cOp.wire (r : List Byte) : I2cOp → List Byte
  | .write d g bs => i2cBytes d g bs
  | .read d g n => i2cBytes d g (leBytes 1 n)
  | .group t ws => (groupSeq r t ws).flatMap (fun w => i2cBytes w.1 w.2.1 w.2.2)

/-- Entries in use of a queue: waiting operations and, on queue 0, the open group's writes. -/
def Cam.used (m : Cam) (q : Nat) : Nat :=
  (((m.queues[q]?).getD []).map I2cOp.entries).sum + (if q = 0 then (m.group.map (fun g => g.2.length)).getD 0 else 0)

/-- Start the next transaction when the bus is idle, queue 0 first, and show the queues. -/
def State.i2cNext (s : State) (c : Nat) (r : List Byte) : State :=
  have m := s.cam c
  have s := match m.running with
    | some _ => s
    | none =>
      match [0, 1].find? (fun q => !((m.queues[q]?).getD []).isEmpty) with
      | none => s
      | some q =>
        match (m.queues[q]?).getD [] with
        | op :: rest =>
          (s.setCam c (fun m => { m with running := some (q, op), queues := m.queues.set q rest })).out (.i2c c q (op.wire r))
        | [] => s
  have m := s.cam c
  [0, 1].foldl (fun (s : State) q =>
    have s := s.wf (F.CSI_I2C_STAT_FREE c q) (32 - m.used q)
    have s := s.wf (F.CSI_I2C_STAT_BUSY c q) (match m.running with | some (x, _) => if x = q then 1 else 0 | none => 0)
    have s := s.wf (F.CSI_I2C_STAT_OPEN c q) (if q = 0 && m.group.isSome then 1 else 0)
    s.wf (F.CSI_I2C_RD_DATA c q) (match ((m.reads[q]?).getD []).head? with | some x => x | none => 0)) s

def State.i2cPush (s : State) (c q : Nat) (op : I2cOp) : State :=
  s.setCam c (fun m => { m with queues := m.queues.modify q (· ++ [op]) })

def cmdDev (r : List Byte) (cmd : Nat) : Nat := if bits cmd 27 21 = 0 then leAt r 46 1 else bits cmd 27 21

/-- Shared frame of the four queue commands: the camera has a record and the command word carries the operation. -/
def State.i2cCmd (s : State) (req : Requester) (c q op : Nat) (cmd : Nat) (f : List Byte → State → State) : State :=
  s.cmdWrite req (A.CSI_I2C_CMD c q) (fun s =>
    match s.camOn c with
    | none => s
    | some r => if bits cmd 31 30 = op then (f r s).i2cNext c r else s)

/-- I2C_WRITE (R241, R242): held by an open group on queue 0, at most 24; a full queue takes nothing. -/
def execI2cWrite (req : Requester) (camera : Fin 16) (queue : Fin 2) (cmd data : BitVec 32) (s : State) : Host.Outcome State Fault Refusal :=
  .next (s.i2cCmd req camera.val queue.val 0 cmd.toNat (fun r s =>
    have m := s.cam camera.val
    have dev := cmdDev r cmd.toNat
    have reg := bits cmd.toNat 15 0
    have bs := leBytes (bits cmd.toNat 29 28 + 1) data.toNat
    if 32 ≤ m.used queue.val then s
    else match queue.val, m.group with
      | 0, some (t, ws) =>
        if 24 ≤ ws.length then s else s.setCam camera.val (fun m => { m with group := some (t, ws ++ [(dev, reg, bs)]) })
      | _, _ => s.i2cPush camera.val queue.val (.write dev reg bs)))

/-- I2C_READ (R241). -/
def execI2cRead (req : Requester) (camera : Fin 16) (queue : Fin 2) (cmd : BitVec 32) (s : State) : Host.Outcome State Fault Refusal :=
  .next (s.i2cCmd req camera.val queue.val 1 cmd.toNat (fun r s =>
    if 32 ≤ (s.cam camera.val).used queue.val then s
    else s.i2cPush camera.val queue.val (.read (cmdDev r cmd.toNat) (bits cmd.toNat 15 0) (bits cmd.toNat 29 28 + 1))))

/-- GROUP_OPEN (R242). -/
def execGroupOpen (req : Requester) (camera : Fin 16) (queue : Fin 2) (cmd : BitVec 32) (s : State) : Host.Outcome State Fault Refusal :=
  .next (s.i2cCmd req camera.val queue.val 2 cmd.toNat (fun _ s =>
    have t := bits cmd.toNat 15 0
    if queue.val = 0 ∧ (s.cam camera.val).group = none ∧ t ≠ 0 then s.setCam camera.val (fun m => { m with group := some (t, []) }) else s))

/-- GROUP_COMMIT (R242). -/
def execGroupCommit (req : Requester) (camera : Fin 16) (queue : Fin 2) (cmd : BitVec 32) (s : State) : Host.Outcome State Fault Refusal :=
  .next (s.i2cCmd req camera.val queue.val 3 cmd.toNat (fun _ s =>
    match queue.val, (s.cam camera.val).group with
    | 0, some (t, ws) => (s.setCam camera.val (fun m => { m with group := none })).i2cPush camera.val 0 (.group t ws)
    | _, _ => s))

/-- Address of CAM_I2C. -/
def i2cAddr (c q code reg : Nat) : Nat := c * 2 ^ 36 + q * 2 ^ 35 + code * 2 ^ 32 + reg % 2 ^ 16

/-- Register of a step of an operation. -/
def I2cOp.regAt (r : List Byte) (step : Nat) : I2cOp → Nat
  | .write _ g _ => g
  | .read _ g _ => g
  | .group t ws => match (groupSeq r t ws)[step]? with | some w => w.2.1 | none => 0

/-- Keep the latest 16 completed groups. -/
def keepGroups (l : List (Nat × Nat × Nat)) : List (Nat × Nat × Nat) := l.drop (l.length - 16)

/-- I2C_TRANSACTION_DONE (R241, R242): `nack` names the write of a group, or 0, that was not acknowledged; `data` is what a READ
returned; the stop condition lies `dt` TIME edges ahead. -/
def execI2cTransactionDone (camera : Fin 16) (nack : Option Nat) (data : BitVec 32) (dt : Nat) (s : State) : Host.Outcome State Fault Refusal :=
  have c := camera.val
  match s.camOn c, (s.cam c).running with
  | some r, some (q, op) =>
    have s := s.advance dt
    have s := s.setCam c (fun m => { m with running := none })
    have s := match nack, op with
      | some i, .group _ _ =>
        (((s.wf (F.CSI_I2C_STAT_NACK c q) 1).wf (F.CSI_GROUP_ABORTED c) 1).send (srcCam c) .CAM_I2C (i2cAddr c q 2 (op.regAt r i)))
      | some i, _ => (s.wf (F.CSI_I2C_STAT_NACK c q) 1).send (srcCam c) .CAM_I2C (i2cAddr c q 0 (op.regAt r i))
      | none, .group t _ =>
        have s := (s.wf (F.CSI_GROUP_TAG c) t).wf (F.CSI_GROUP_NS_NS c) (s.timeNs % 1000000000)
        s.setCam c (fun m => { m with groups := keepGroups (m.groups ++ [(t, s.timeNs, 0)]) })
      | none, .read _ _ n => s.setCam c (fun m => { m with reads := m.reads.modify q (· ++ [data.toNat % 2 ^ (8 * n)]) })
      | none, .write _ _ _ => s
    .next (s.i2cNext c r)
  | _, _ => .next s

/-- I2C_TIMEOUT (R241): 10 ms without the bus's answer. A group ends without completion. -/
def execI2cTimeout (camera : Fin 16) (step : Nat) (s : State) : Host.Outcome State Fault Refusal :=
  have c := camera.val
  match s.camOn c, (s.cam c).running with
  | some r, some (q, op) =>
    have s := s.advance 4000000
    have s := s.setCam c (fun m => { m with running := none })
    have s := s.wf (F.CSI_I2C_STAT_TIMEOUT c q) 1
    have s := match op with
      | .group _ _ => s.wf (F.CSI_GROUP_ABORTED c) 1
      | _ => s
    have s := s.send (srcCam c) .CAM_I2C (i2cAddr c q 1 (op.regAt r step))
    .next (s.i2cNext c r)
  | _, _ => .next s

/-! ### First bell and PARK (R471, R475) -/

/-- At a first bell every camera runs the initial parameter set with tag 1; waiting sets are discarded. -/
def State.camFirst (s : State) : State :=
  (List.range 16).foldl (fun (s : State) c =>
    match s.camRec c with
    | none => s
    | some _ =>
      have s := s.setCam c (fun m => { m with psets := [], pset := s.recBytes recPsetInit c })
      s.psetShow c 1) s

/-- Camera paths and pipelines lose what they hold when their clocks stop; the port's switch-off history stays. -/
def State.camClear (s : State) : State :=
  have s := { s with cams := s.cams.map (fun m => { Cam.reset with pset := m.pset, pocTrip := m.pocTrip, pocDead := m.pocDead, seq := m.seq }),
                     pipes := List.replicate 4 none }
  have s := (List.range 16).foldl (fun (s : State) c => ((s.wf (F.CSI_LINK_UP c) 0).wf (F.CSI_LINK_GEAR c) 0).camShow c) s
  (List.range 4).foldl (fun (s : State) p => (s.wf (F.ISP_STATUS_BUSY p) 0).wf (F.ISP_STATUS_TAP p) 0) s

end Sys2Proof.Machine
end

