-- ==== Sys2Proof/Machine/Time.lean ====
section
/-! DEFINITION. The TSU servo and PTP (11, R276 to R292). -/

namespace Sys2Proof.Machine
open Sys2Proof
set_option Elab.async false

/-- Servo states (Table 11-3). -/
def stFree : Nat := 0
def stAcquire : Nat := 1
def stStepped : Nat := 2
def stLocked : Nat := 3
def stHoldover : Nat := 4
def stFailed : Nat := 5

def State.servo (s : State) : Nat := s.rf F.TSU_STATUS_STATE
def State.setServo (s : State) (x : Nat) : State := s.wf F.TSU_STATUS_STATE x
def State.slavePort (s : State) : Nat := s.rf F.TSU_STATUS_SLAVE
def State.slavePorts (s : State) : Nat := s.recLe recTime 14 1
def State.gmPorts (s : State) : Nat := s.recLe recTime 15 1
def State.profile (s : State) : Nat := s.recLe recTime 16 1
def State.staticPtp (s : State) : Bool := bitAt (s.recLe recTime 20 1) 0
/-- Does the profile use the peer delay mechanism (Table 11-2)? -/
def State.p2p (s : State) : Bool := s.profile == 0 || s.profile == 3

/-- TSU time in 2^-16 ns. -/
def State.time16 (s : State) : Int := ((s.tsu.units / 65536 : Nat) : Int)
/-- Receive time at the pins of port n: the capture minus INGRESS (R281). -/
def State.rxTime (s : State) (n : Nat) : Int := s.time16 - toSigned 32 (s.rf (F.TSU_PORT_IN_INGRESS n)) * 256
/-- Send time at the pins of port n: the capture plus EGRESS (R281). -/
def State.txTime (s : State) (n : Nat) : Int := s.time16 + toSigned 32 (s.rf (F.TSU_PORT_EG_EGRESS n)) * 256
def State.asym (s : State) (n : Nat) : Int := toSigned 32 (s.rf (F.TSU_PORT_ASYM_ASYM n)) * 256

/-- Drop a PTP message and count it (R303). -/
def State.ptpBad (s : State) (port typ : Nat) : State :=
  (s.bump (F.TSU_PORT_STAT_BAD port) 1).send srcTsu .PTP_BAD (port * 2 ^ 36 + typ * 2 ^ 32)

/-- The domain a port expects, if PTP uses the port (Table 11-2). -/
def State.ptpDomain (s : State) (port : Nat) : Option Nat :=
  if bitAt s.slavePorts port then some (if s.profile = 0 then 0 else s.recLe recTime 17 1)
  else if bitAt s.gmPorts port then some (s.recLe recTime 18 1) else none

/-- A message parses and carries the domain configured on its port. -/
def State.ptpGood (s : State) (port : Nat) (ok : Bool) (domain : Byte) : Bool := ok && (s.ptpDomain port == some domain.toNat)

/-- Edge of bell n in ns. -/
def State.bellEdgeNs (s : State) (n : Nat) : Nat := s.epochNs + n * s.bellPeriod

/-- First bell whose edge lies at or after t ns (R291). -/
def State.firstBellAt (s : State) (t : Nat) : Nat :=
  if s.bellPeriod = 0 then 0 else if t ≤ s.epochNs then 0 else ceilDiv (t - s.epochNs) s.bellPeriod

/-- Schedule a first bell (R291, R298). -/
def State.armBell (s : State) (n : Nat) : State :=
  have s := { s with bell := { s.bell with armed := true, nextB := s.bellEdgeNs n } }
  if s.modules ≤ 1 then s
  else (((s.wf F.JXL_FIRST_LO_BELL (n % 2 ^ 32)).wf F.JXL_FIRST_HI_BELL (n / 2 ^ 32)).wf F.JXL_STATUS_PHASE 2)

/-- A single module whose first bell is set recomputes its edge on the new time (R291, R484). -/
def State.rearm (s : State) : State :=
  if s.bell.armed && !s.bell.running && decide (s.modules ≤ 1) then s.armBell (s.firstBellAt s.timeUp) else s

/-- Set RATE and report it (R278, R288). -/
def State.setRate (s : State) (r : Int) : State :=
  have s := s.wf F.TSU_RATE_RATE (ofSigned 32 r)
  have warn := decide (s.recLe recTime 23 1 * 1073741824 < r.natAbs * 100000)
  have atClamp := decide (r.natAbs = 2147483)
  have first := warn && !s.tsu.rateWarned
  have s := { s with tsu := { s.tsu with rateWarned := s.tsu.rateWarned || warn } }
  if first || atClamp then s.send srcTsu .TIME_RATE (ofSigned 32 r) else s

/-- The servo enters FAILED (R287). -/
def State.timeFail (s : State) (o : Int) : State :=
  ((s.setServo stFailed).wf F.TSU_STATUS_FREE_RUNNING 1).send srcTsu .TIME_OFFSET
    (s.slavePort * 2 ^ 32 + sat32 (o / 1000))

/-- Apply the step: the TSU loses o ns (R286), unless that would set it earlier than BELL_EPOCH (R287). -/
def State.applyStep (s : State) (o : Int) : State :=
  have u : Int := (s.tsu.units : Int) - o * 4294967296
  have s := { s with tsu := { s.tsu with held := none } }
  if u < (s.epochNs : Int) * 4294967296 then s.timeFail o
  else
    have s := { s with tsu := { (s.tsu.ofUnits u.toNat) with integ := 0, good := 0, prevO := none } }
    have d := ofSigned 64 (-o)
    have s := (s.wf F.TSU_STEP_LO_STEP (d % 2 ^ 32)).wf F.TSU_STEP_HI_STEP (d / 2 ^ 32)
    (s.wf F.TSU_STATUS_STEPPED 1).setServo stStepped

/-- The servo of R286. -/
def State.servoRun (s : State) (o : Int) : State :=
  have kp : Int := s.recLe recTime 26 2
  have ki : Int := s.recLe recTime 28 2
  have e := clampI o (-1000000) 1000000
  have i := clampI (s.tsu.integ - ki * e) (-2147483) 2147483
  have s := { s with tsu := { s.tsu with integ := i } }
  s.setRate (clampI (i - kp * e) (-2147483) 2147483)

/-- One offset measurement of o ns (R285 to R287, Table 11-3). -/
def State.offset (s : State) (o : Int) : State :=
  if s.servo = stFree ∨ s.servo = stFailed then s
  else
    have s := s.wf F.TSU_OFFSET_O (sat32 o)
    if s.servo = stAcquire then
      match s.tsu.held, s.tsu.prevO with
      | some _, _ => s
      | none, some p =>
        if (o - p).natAbs ≤ 10000 then
          if s.bell.running then { s with tsu := { s.tsu with held := some o } }   -- R292: held to the next edge
          else (s.applyStep o).rearm
        else { s with tsu := { s.tsu with prevO := some o } }
      | none, none => { s with tsu := { s.tsu with prevO := some o } }
    else if 1000000 < o.natAbs then s.timeFail o
    else if s.servo = stHoldover then
      { (s.setServo stStepped) with tsu := { s.tsu with good := 0 } }
    else
      have s := s.servoRun o
      if s.servo = stStepped then
        have g := if o.natAbs ≤ s.recLe recTime 24 2 then s.tsu.good + 1 else 0
        have s := { s with tsu := { s.tsu with good := g } }
        if 8 ≤ g then
          have s := { s with tsu := { s.tsu with locked := true } }
          (s.setServo stLocked).wf F.TSU_STATUS_FREE_RUNNING 0
        else s
      else s

/-- An offset from t1, t2 and the corrections, once a path delay is valid (R281, R285). Times in 2^-16 ns, o in whole ns (log 11). -/
def State.syncMeasure (s : State) (t1 t2 corr : Int) : State :=
  have s := { s with tsu := { s.tsu with lastT1 := some (t1 + corr, t2) } }
  if s.tsu.delayValid then s.offset ((t2 - t1 - corr - s.tsu.delay) / 65536) else s

/-- Port p is the slave port, and the other ports that may carry the time source are passive (R276, R304; log 71). -/
def State.setSlave (s : State) (p : Nat) : State :=
  (List.range 6).foldl (fun (s : State) n =>
    if bitAt s.slavePorts n then s.wf (F.TSU_PORT_STAT_ROLE n) (if n = p then 1 else 3) else s) (s.wf F.TSU_STATUS_SLAVE p)

/-- Does a message come from the master that the BMCA selected? STATIC has no BMCA: only the slave port counts (R276, R303). -/
def State.fromMaster (s : State) (m : PtpMsg) : Bool :=
  if s.staticPtp then s.slavePort == m.port.val
  else match s.tsu.best with
    | some b => b.port == m.port && b.clock == m.clock && b.sport == m.sport
    | none => false

/-- A message that no measurement takes: a STATIC module drops it, and the BMCA counts it as PTP_BAD (R276, R303). -/
def State.ptpOther (s : State) (m : PtpMsg) (typ : Nat) : State :=
  if s.ptpGood m.port.val m.ok m.domain && bitAt s.slavePorts m.port.val && s.staticPtp then s else s.ptpBad m.port.val typ

/-- The slave port and master accept a Sync (R283, Table 11-3): STATIC takes the first port that delivers one. -/
def State.syncFrom (s : State) (m : PtpMsg) : Option State :=
  have p := m.port.val
  if !(s.ptpGood p m.ok m.domain && bitAt s.slavePorts p) then none
  else if s.staticPtp && s.slavePort == 15 then some (s.setSlave p)
  else if s.fromMaster m then some s else none

/-- PTP runs once the TIME record is read (Table 17-3) and outside OFF. -/
def State.ptpOn (s : State) : Bool := !(s.recBytes recTime 0).isEmpty && decide (s.pstate ≠ .off)

/-- PTP_SYNC (R283, R285). -/
def execPtpSync (m : PtpMsg) (s : State) : Host.Outcome State Fault Refusal :=
  if !s.ptpOn then .next s
  else
    have s := s.advance m.dt
    match s.syncFrom m with
    | none => .next (s.ptpOther m 0)
    | some s =>
      have s := if s.servo = stFree then s.setServo stAcquire else s
      have s := { s with tsu := { s.tsu with interval := m.logInterval, lastSync := s.now } }
      have t2 := s.rxTime m.port.val
      have c := m.corr + s.asym m.port.val
      if m.twoStep then .next { s with tsu := { s.tsu with sync2 := some (m.seq.toNat, t2, c) } }
      else .next (s.syncMeasure ((m.ts : Int) * 65536) t2 c)

/-- PTP_FOLLOW_UP (R285): completes a two-step Sync. -/
def execPtpFollowUp (m : PtpMsg) (s : State) : Host.Outcome State Fault Refusal :=
  if !s.ptpOn then .next s
  else
    have s := s.advance m.dt
    match s.syncFrom m with
    | none => .next (s.ptpOther m 8)
    | some s => match s.tsu.sync2 with
      | some (q, t2, c) =>
        if q = m.seq.toNat then
          .next ({ s with tsu := { s.tsu with sync2 := none } }.syncMeasure ((m.ts : Int) * 65536) t2 (c + m.corr))
        else .next s
      | none => .next s

/-- Take a new mean path delay in 2^-16 ns (R285). -/
def State.setDelay (s : State) (d : Int) : State :=
  ({ s with tsu := { s.tsu with delay := d, delayValid := true } }).wf F.TSU_PDELAY_DELAY (sat32 (d / 65536))

/-- clockIdentity: the EUI-64 of the port's MAC address (R283). -/
def State.clockId (s : State) : Nat :=
  have mac := s.rf F.ETH_MAC_HI_MAC * 2 ^ 32 + s.rf F.ETH_MAC_LO_MAC
  (mac / 2 ^ 24) * 2 ^ 40 + 0xFFFE * 2 ^ 24 + mac % 2 ^ 24

/-- PTP_DELAY_REQ (R283): a GM port with the E2E mechanism answers with a Delay_Resp. -/
def execPtpDelayReq (m : PtpMsg) (s : State) : Host.Outcome State Fault Refusal :=
  if !s.ptpOn then .next s
  else
    have s := s.advance m.dt
    have p := m.port.val
    if !s.ptpGood p m.ok m.domain then .next (s.ptpBad p 1)
    else if bitAt s.gmPorts p && !s.p2p then
      .next (s.out (.ptpDelayResp p m.clock.toNat m.seq.toNat (s.rxTime p)))
    else .next s

/-- PTP_DELAY_RESP (R285): the E2E path delay from the last Sync and the request in flight. -/
def execPtpDelayResp (m : PtpMsg) (s : State) : Host.Outcome State Fault Refusal :=
  if !s.ptpOn then .next s
  else
    have s := s.advance m.dt
    if !s.ptpGood m.port.val m.ok m.domain then .next (s.ptpBad m.port.val 9)
    else if !s.fromMaster m then .next (s.ptpOther m 9)
    else if s.p2p then .next s
    else match s.tsu.req, s.tsu.lastT1 with
      | some (q, t3), some (t1, t2) =>
        if q = m.seq.toNat ∧ m.reqClock.toNat = s.clockId then
          have d := ((t2 - t1) + ((m.ts : Int) * 65536 - m.corr - t3)) / 2
          .next (({ s with tsu := { s.tsu with req := none } }).setDelay d)
        else .next s
      | _, _ => .next s

/-- PTP_PDELAY_REQ (R282): a one-step Pdelay_Resp whose correction is the turnaround; the operand's time stamp is that turnaround in ns. -/
def execPtpPdelayReq (m : PtpMsg) (s : State) : Host.Outcome State Fault Refusal :=
  if !s.ptpOn then .next s
  else
    have s := s.advance m.dt
    have p := m.port.val
    if !s.ptpGood p m.ok m.domain then .next (s.ptpBad p 2)
    else if s.p2p then
      .next (s.out (.ptpPdelayResp p m.clock.toNat m.seq.toNat
        (m.corr + (m.ts : Int) * 65536 + (s.txTime p - s.rxTime p))))
    else .next s

/-- PTP_PDELAY_RESP (R285): one-step, or the first half of a two-step measurement. -/
def execPtpPdelayResp (m : PtpMsg) (s : State) : Host.Outcome State Fault Refusal :=
  if !s.ptpOn then .next s
  else
    have s := s.advance m.dt
    if !s.ptpGood m.port.val m.ok m.domain then .next (s.ptpBad m.port.val 3)
    else if !(bitAt s.slavePorts m.port.val && s.p2p) then .next s
    else match s.tsu.req with
      | some (q, t1) =>
        if q = m.seq.toNat ∧ m.reqClock.toNat = s.clockId then
          have t4 := s.rxTime m.port.val
          if m.twoStep then
            .next { s with tsu := { s.tsu with pd2 := some (q, (m.ts : Int) * 65536, t4, m.corr + s.asym m.port.val) } }
          else .next (({ s with tsu := { s.tsu with req := none } }).setDelay ((t4 - t1 - m.corr - s.asym m.port.val) / 2))
        else .next s
      | none => .next s

/-- PTP_PDELAY_RESP_FOLLOW_UP (R285): completes a two-step peer delay measurement. -/
def execPtpPdelayRespFollowUp (m : PtpMsg) (s : State) : Host.Outcome State Fault Refusal :=
  if !s.ptpOn then .next s
  else
    have s := s.advance m.dt
    if !s.ptpGood m.port.val m.ok m.domain then .next (s.ptpBad m.port.val 10)
    else if !(bitAt s.slavePorts m.port.val && s.p2p) then .next s
    else match s.tsu.req, s.tsu.pd2 with
      | some (q, t1), some (q2, t2, t4, c) =>
        if q = m.seq.toNat ∧ q2 = q then
          have d := ((t4 - t1) - ((m.ts : Int) * 65536 - t2) - c - m.corr) / 2
          .next (({ s with tsu := { s.tsu with req := none, pd2 := none } }).setDelay d)
        else .next s
      | _, _ => .next s

/-- Is Announce data set a better than b? (default BMCA of IEEE 1588: PRESUMED, log 12) -/
def annBetter (a b : PtpAnn) : Bool :=
  if a.gm = b.gm then
    decide (a.steps.toNat < b.steps.toNat) || (a.steps == b.steps && (decide (a.clock.toNat < b.clock.toNat) ||
      (a.clock == b.clock && decide (a.port.val < b.port.val))))
  else
    have k (x : PtpAnn) : List Nat := [x.prio1.toNat, x.cls.toNat, x.acc.toNat, x.var.toNat, x.prio2.toNat, x.gm.toNat]
    decide (k a < k b)

/-- PTP_ANNOUNCE (R283): the best master of the slave ports is selected; STATIC uses none. -/
def execPtpAnnounce (a : PtpAnn) (s : State) : Host.Outcome State Fault Refusal :=
  if !s.ptpOn then .next s
  else
    have p := a.port.val
    if !(s.ptpGood p a.ok a.domain && bitAt s.slavePorts p) then .next (s.ptpBad p 11)
    else if s.staticPtp then .next s
    else
      have take := match s.tsu.best with
        | none => true
        | some b => (b.port == a.port && b.clock == a.clock) || annBetter a b
      if take then
        .next (({ s with tsu := { s.tsu with best := some a } }).setSlave p)
      else .next (s.ptpBad p 11)

/-- PTP_SYNC_SEND (R282): a one-step Sync on every GM port with SEC, NS and FRAC of the corrected send time. -/
def execPtpSyncSend (s : State) : Host.Outcome State Fault Refusal :=
  if !s.ptpOn || s.parked then .next s
  else .next ((List.range 6).foldl (fun s p =>
    if bitAt s.gmPorts p then
      have t := (s.txTime p).toNat
      s.out (.ptpSync p (t / 65536 / 1000000000) (t / 65536 % 1000000000) (t % 65536))
    else s) s)

/-- PTP_ANNOUNCE_SEND (R284). -/
def execPtpAnnounceSend (s : State) : Host.Outcome State Fault Refusal :=
  if !s.ptpOn || s.parked then .next s
  else
    have cls := if s.servo = stLocked then s.recLe recTime 22 1 else 248
    have src := if s.servo = stLocked then 0x40 else 0xA0
    .next ((List.range 6).foldl (fun s p =>
      if bitAt s.gmPorts p then s.out (.ptpAnnounce p (s.recLe recTime 21 1) 255 cls src) else s) s)

/-- PTP_DELAY_REQ_SEND (R285): the delay request of the profile's mechanism on the slave port. -/
def execPtpDelayReqSend (s : State) : Host.Outcome State Fault Refusal :=
  have p := s.slavePort
  if !s.ptpOn || decide (6 ≤ p) then .next s
  else
    have q := (s.tsu.reqSeq + 1) % 65536
    have s := { s with tsu := { s.tsu with reqSeq := q, req := some (q, s.txTime p), pd2 := none } }
    .next (s.out (if s.p2p then .ptpPdelayReq p q (-(s.asym p)) else .ptpDelayReq p q (-(s.asym p))))

/-- SYNC_LOSS (R285): no Sync for 3 intervals of 2^interval s moves LOCKED to HOLDOVER. -/
def execSyncLoss (s : State) : Host.Outcome State Fault Refusal :=
  if s.servo = stLocked then
    have iv := 400000000 / 2 ^ (-s.tsu.interval).toNat
    have s := s.advanceTo (s.tsu.lastSync + 3 * iv)
    have s := { s with tsu := { s.tsu with holdStart := s.now } }
    .next ((s.setServo stHoldover).send srcTsu .TIME_HOLDOVER 0)
  else .next s

/-- HOLDOVER_MAX (R288). -/
def execHoldoverMax (s : State) : Host.Outcome State Fault Refusal :=
  if s.servo = stHoldover then
    have s := s.advanceTo (s.tsu.holdStart + s.recLe recTime 36 4 * 400000)
    .next ((s.wf F.TSU_STATUS_FREE_RUNNING 1).send srcTsu .TIME_HOLDOVER (2 ^ 32))
  else .next s

/-- LOCK_TIMEOUT (R289), counted from reset alignment. -/
def execLockTimeout (s : State) : Host.Outcome State Fault Refusal :=
  if s.ptpOn && !s.tsu.locked && !s.flag F.TSU_STATUS_TIMEOUT then
    have s := s.advanceTo (s.recLe recTime 32 4 * 400000)
    .next ((s.wf F.TSU_STATUS_TIMEOUT 1).send srcTsu .TIME_NO_LOCK (s.servo * 2 ^ 32))
  else .next s

end Sys2Proof.Machine
end

