-- ==== Sys2Proof/Machine/Jexong.lean ====
section
/-! DEFINITION. The Jexong link (11, R294 to R302) and the failure set (12, R328 to R332). -/

namespace Sys2Proof.Machine
open Sys2Proof
set_option Elab.async false

def State.peer (s : State) (m : Nat) : Peer := (s.jx.peers[m]?).getD Peer.reset
def State.setPeer (s : State) (m : Nat) (f : Peer → Peer) : State := { s with jx := { s.jx with peers := s.jx.peers.modify m f } }

/-- Modules of the system other than this one. -/
def State.others (s : State) : List Nat := (List.range s.modules).filter (fun m => m != s.moduleId)

/-- PLAN_DIGEST (Table 11-5). -/
def State.planDigest (s : State) : List Byte := shake256 (s.recBytes recMapPlan 0) 32

/-- Send a Jexong payload with its external header, padded to 40 bytes (R295); 1.0 is the only version (R296). -/
def State.jxSend (s : State) (typ : Nat) (body : List Byte) : State :=
  have pl := (leBytes 1 typ ++ leBytes 1 s.moduleId ++ leBytes 2 0 ++ body ++ List.replicate 40 (0 : Byte)).take 40
  s.out (.jx (extRecord (s.recLe recJexong 4 2) 1 0 s.curBell 0 0 (if s.freeRunning then 32 else 0) 0 pl))

/-- Sender of a valid message of a type: CRC good, a module of the system, not this one (R295). -/
def State.jxFrom (s : State) (m : JxMsg) (typ : Nat) : Option Nat :=
  have k := leAt m.payload 1 1
  if decide (1 < s.modules) && decide (s.pstate ≠ .off) && !s.parked && m.ok && m.payload.length == 40 && leAt m.payload 0 1 == typ && decide (k < s.modules) && k != s.moduleId
  then some k else none

/-- REFUSE a peer and treat it as absent (R296). -/
def State.jxRefuse (s : State) (k code major : Nat) : State :=
  have s := (s.jxSend 6 (leBytes 1 code ++ leBytes 1 major)).bump F.JXL_EVENTS_REFUSED 1
  have s := s.setPeer k (fun p => { p with absent := true })
  s.send srcJx .JXL_VERSION (k * 2 ^ 32 + code * 2 ^ 8 + major)

/-- The agreed version, 1.0 in common with every HELLO held (R296). -/
def State.jxAgree (s : State) : State := (s.wf F.JXL_STATUS_MAJOR 1).wf F.JXL_STATUS_MINOR 0

/-- Runs no bell of the system and has none set, or is excluded from it: HELLO and READY go on (R301, R332; log 71). -/
def State.outside (s : State) : Bool := s.safety.excluded || (!s.bell.running && !s.bell.armed)

/-- JX_HELLO (R296). -/
def execJxHello (m : JxMsg) (s : State) : Host.Outcome State Fault Refusal :=
  match s.jxFrom m 1 with
  | none => .next s
  | some k =>
    have major := leAt m.payload 4 1
    have dig := m.payload.drop 8
    if major ≠ 1 then .next (s.jxRefuse k 1 major)
    else if dig ≠ s.planDigest then .next (s.jxRefuse k 2 major)
    else .next ((s.setPeer k (fun p => { p with helloMajor := some major, helloMinor := leAt m.payload 5 1, digest := dig, absent := false })).jxAgree)

/-- JX_HELLO_SEND (R296, R301): until every peer's HELLO is held, and while absent or excluded. -/
def execJxHelloSend (s : State) : Host.Outcome State Fault Refusal :=
  if s.modules ≤ 1 ∨ s.pstate = .off ∨ s.parked then .next s
  else if s.others.all (fun k => (s.peer k).helloMajor.isSome) && !(s.outside && s.jx.readySent.isSome) then .next s
  else .next (s.jxSend 1 (leBytes 1 1 ++ leBytes 1 0 ++ leBytes 2 0 ++ s.planDigest))

/-- JX_READY (R297). -/
def execJxReady (m : JxMsg) (s : State) : Host.Outcome State Fault Refusal :=
  match s.jxFrom m 2 with
  | none => .next s
  | some k =>
    if (s.peer k).absent then .next s
    else .next (s.setPeer k (fun p => { p with ready := true, readyLocked := leAt m.payload 6 1 == stLocked }))

/-- JX_READY_SEND (R297, R301, R476): T_READY has passed and the TSU is LOCKED or timed out. -/
def execJxReadySend (s : State) : Host.Outcome State Fault Refusal :=
  if decide (1 < s.modules) && s.pw.ready && decide (s.pstate ≠ .maint) && decide (s.pstate ≠ .halt) && s.outside && (s.servo == stLocked || s.flag F.TSU_STATUS_TIMEOUT) then
    have s := if s.rf F.JXL_STATUS_PHASE = 0 then s.wf F.JXL_STATUS_PHASE 1 else s
    have s := { s with jx := { s.jx with readySent := some (s.jx.readySent.getD s.now) } }
    .next (s.jxSend 2 (leBytes 1 1 ++ leBytes 1 0 ++ leBytes 1 s.servo ++ leBytes 1 0 ++ s.planDigest))
  else .next s

/-- Hold an ARM (R297, R299): members, first failure set, FIRST_BELL. -/
def State.holdArm (s : State) (members first go : Nat) : State :=
  have all := 2 ^ s.modules - 1
  have s := { s with jx := { s.jx with arm := some (members, first, go), failSet := all - members % (all + 1) } }
  have s := (s.wf F.JXL_STATUS_PHASE 2).wf F.JXL_STATUS_MEMBERS members
  (s.wf F.JXL_FIRST_LO_BELL (first % 2 ^ 32)).wf F.JXL_FIRST_HI_BELL (first / 2 ^ 32)

/-- Choose FIRST_BELL and MEMBERS and send ARM (R297). -/
def State.sendArm (s : State) : State :=
  have f := s.firstBellAt (s.timeUp + 50000000)
  have go := s.bellEdgeNs f - 1000000
  have members := (List.range s.modules).foldl (fun a m => if m = s.moduleId ∨ (s.peer m).ready then a + 2 ^ m else a) 0
  have s := s.others.foldl (fun s m => if (s.peer m).ready then s else s.send srcJx .JXL_READY_TIMEOUT (m * 2 ^ 32)) s
  have s := s.jxSend 3 (leBytes 1 members ++ leBytes 3 0 ++ leBytes 8 f ++ leBytes 6 (go / 1000000000) ++ leBytes 4 (go % 1000000000))
  have s := { s with jx := { s.jx with armSent := true } }
  s.holdArm members f go

def State.isMaster (s : State) : Bool := s.recLe recJexong 2 1 == s.moduleId
def State.canArm (s : State) : Bool :=
  decide (1 < s.modules) && s.jx.readySent.isSome && s.jx.arm.isNone && !s.bell.running && s.pw.first == 1

/-- ARM_SEND (R297): the master holds every READY. -/
def execArmSend (s : State) : Host.Outcome State Fault Refusal :=
  if s.canArm && s.isMaster && s.others.all (fun m => (s.peer m).ready) then .next s.sendArm else .next s

/-- READY_TIMEOUT (R297): the master arms with the ready modules. -/
def execReadyTimeout (s : State) : Host.Outcome State Fault Refusal :=
  if s.canArm && s.isMaster then
    .next ((s.advanceTo (s.jx.readySent.getD 0 + s.recLe recJexong 12 4 * 400000)).sendArm)
  else .next s

/-- ARM_FALLBACK (R302): no ARM for READY_TIMEOUT + 2 s; the lowest locked ready module arms in place of MASTER. -/
def execArmFallback (s : State) : Host.Outcome State Fault Refusal :=
  have lower := s.others.any (fun m => decide (m < s.moduleId) && (s.peer m).ready && (s.peer m).readyLocked)
  if s.canArm && !s.isMaster && s.servo == stLocked && !lower then
    .next ((s.advanceTo (s.jx.readySent.getD 0 + (s.recLe recJexong 12 4 + 2000) * 400000)).sendArm)
  else .next s

def State.cableNs (s : State) : Nat := s.recLe recJexong 8 4

/-- Does an ARM tuple name this module? -/
def State.armNames (s : State) (members : Nat) : Bool := bitAt members s.moduleId

/-- A member that is not free-running (R298; log 71). -/
def State.onTime (s : State) : Bool := !s.flag F.TSU_STATUS_FREE_RUNNING

/-- Set the first bell of the system; a module in MAINT or HALT starts none (R473, R556). -/
def State.setFirst (s : State) (n : Nat) : State := if s.pstate = .maint ∨ s.pstate = .halt then s else s.armBell n

/-- No GO, or an ARM too late (R298, R299): a module with a locked TSU and B_F ahead starts from its own time. -/
def State.noGo (s : State) (locked : Bool) (first : Nat) : State :=
  have s := s.send srcJx .JXL_NO_GO (first % 2 ^ 32)
  if locked ∧ s.timeNs < s.bellEdgeNs first then s.setFirst first
  else ({ s with jx := { s.jx with arm := none } }).wf F.JXL_STATUS_PHASE 1

/-- JX_ARM (R297, R299, R302). A module that runs bells, or that the ARM does not name, ignores it; one that has sent an ARM of its own
follows MASTER's or one of a lower module. -/
def execJxArm (m : JxMsg) (s : State) : Host.Outcome State Fault Refusal :=
  match s.jxFrom m 3 with
  | none => .next s
  | some k =>
    have members := leAt m.payload 4 1
    have own := s.jx.armSent && decide (k ≠ s.recLe recJexong 2 1) && (s.isMaster || decide (s.moduleId < k))
    have first := leAt m.payload 8 8
    have go := leAt m.payload 16 6 * 1000000000 + leAt m.payload 22 4
    if own || !s.armNames members || s.bell.running || s.flag F.JXL_STATUS_GO_SEEN || s.pw.first != 1 then .next s
    else if go + 100000 < s.timeUp then .next ((s.holdArm members first go).noGo (s.servo == stLocked) first)
    else .next (s.holdArm members first go)

/-- GO_DRIVE (R297): MASTER drives SYNC at GO by its TSU. -/
def execGoDrive (s : State) : Host.Outcome State Fault Refusal :=
  match s.jx.arm with
  | some (_, _, go) =>
    if s.isMaster && s.jx.armSent && !s.jx.driven then
      have s := s.advanceToNs go
      .next (({ s with jx := { s.jx with driven := true } }).out .syncGo)
    else .next s
  | none => .next s

/-- A GO edge that the module ignores (R299). -/
def State.strayGo (s : State) : State := s.send srcJx .JXL_STRAY_GO (if s.bell.running then s.bell.n % 2 ^ 32 else 0)

/-- GO_EDGE (R298, R299): the module arms `late` TIME edges after GO + CABLE_NS by its TSU. -/
def execGoEdge (late : Nat) (s : State) : Host.Outcome State Fault Refusal :=
  if s.modules ≤ 1 ∨ s.pstate = .off ∨ s.parked then .next s
  else match s.jx.arm with
  | none => .next s.strayGo
  | some (members, first, go) =>
    have t0 := go + s.cableNs
    have s := (s.advanceToNs t0).advance late
    if !s.armNames members || s.bell.running || s.flag F.JXL_STATUS_GO_SEEN || decide (go + 100000 < s.timeUp) then .next s.strayGo
    else
      have skew : Int := (s.timeNs : Int) - t0
      have s := (s.wf F.JXL_STATUS_GO_SEEN 1).wf F.JXL_GO_SKEW_SKEW (sat32 skew)
      if s.onTime then
        have s := if s.recLe recJexong 18 2 < skew.natAbs then s.send srcJx .JXL_SKEW (sat32 skew) else s
        .next (s.setFirst first)
      else
        have s := { s with tsu := s.tsu.ofUnits ((t0 + 5) * 4294967296) }
        .next (s.setFirst first)

/-- GO_TIMEOUT (R298): no GO by GO + 100 µs. -/
def execGoTimeout (s : State) : Host.Outcome State Fault Refusal :=
  match s.jx.arm with
  | some (members, first, go) =>
    if s.armNames members && !s.bell.running && !s.bell.armed && !s.flag F.JXL_STATUS_GO_SEEN then
      .next ((s.advanceToNs (go + 100000)).noGo s.onTime first)
    else .next s
  | none => .next s

/-- GO_LOOP_CHECK (R298): the master's own edge returned after so many ARITH cycles, or did not return within 1 µs. -/
def execGoLoopCheck (returned : Option (BitVec 16)) (s : State) : Host.Outcome State Fault Refusal :=
  if s.isMaster && s.jx.driven then
    match returned with
    | some c => if c.toNat ≤ 200 then .next (s.wf F.JXL_LOOP_CYCLES c.toNat) else .next (s.send srcJx .JXL_LINK 0)
    | none => .next (s.send srcJx .JXL_LINK 0)
  else .next s

/-- JX_HEARTBEAT (R300, R332): a PLAN that holds this module excludes it from the bell after the heartbeat's. -/
def execJxHeartbeat (m : JxMsg) (s : State) : Host.Outcome State Fault Refusal :=
  match s.jxFrom m 4 with
  | none => .next s
  | some k =>
    have bell := leAt m.payload 8 8
    have v := leAt m.payload 4 1 == 1
    have s := s.setPeer k (fun p => { p with hbBell := some bell, hbVerdict := v, hbPlan := leAt m.payload 5 1, lastGood := if v then some bell else p.lastGood })
    have s := s.wf (F.JXL_PEER_BELL_BELL k) (bell % 2 ^ 32)
    if bitAt (leAt m.payload 5 1) s.moduleId && s.bell.running && !s.safety.excluded then
      have s := { s with safety := { s.safety with excluded := true, exclFrom := bell + 1 } }
      .next (s.send srcSafety .SAFE_REQUEST 2)
    else .next s

/-- Failure set announced: the latest planned set, or the current one (R329). -/
def State.announced (s : State) : Nat :=
  match s.jx.switches.getLast? with
  | some (_, f) => f
  | none => s.jx.failSet

/-- Send HEARTBEAT for bell N with the verdict and the failure set (R300, R325, R326). -/
def State.sendHeartbeat (s : State) : State :=
  if s.modules ≤ 1 then s
  else
    have v := if s.bell.verdict && decide (s.pstate ≠ .safe) && decide (s.pstate ≠ .halt) then 1 else 0
    s.jxSend 4 (leBytes 1 v ++ leBytes 1 s.announced ++ leBytes 1 s.servo ++ leBytes 1 0 ++ leBytes 8 s.bell.n)

/-- HEARTBEAT_DEADLINE (R300, R329): at G_N + HB_GRACE judge the peers and form the failure set for bell N + 2. -/
def execHeartbeatDeadline (s : State) : Host.Outcome State Fault Refusal :=
  if s.modules ≤ 1 ∨ s.replay.isSome ∨ !s.bell.running ∨ !s.bell.gateDone ∨ s.bell.hbDone then .next s
  else
    have n := s.bell.n
    have s := s.advanceTo (s.bell.start + 2 * (s.healthAt + 200000) + s.recLe recJexong 16 2 * 400)
    have cur := s.announced
    have peers := s.others.filter (fun m => !bitAt cur m)
    have lost := peers.filter (fun m => !((s.peer m).hbBell == some n && (s.peer m).hbVerdict))
    have s := lost.foldl (fun s m => (s.bump F.JXL_EVENTS_LOST 1).send srcJx .JXL_PEER_LOST (m * 2 ^ 32 + n % 2 ^ 32)) s
    have mask := lost.foldl (fun a m => a + 2 ^ m) 0
    have s := s.wf F.JXL_STATUS_LOST mask
    have joined := (s.jx.joiners.filter (fun j => j.2 == n + 2)).map (·.1)
    have set1 := (List.range 4).foldl (fun a m => if (bitAt (cur ||| mask) m) && !joined.contains m then a + 2 ^ m else a) 0
    have s := { s with bell := { s.bell with hbDone := true } }
    if set1 = cur then .next s
    else
      have s := { s with jx := { s.jx with switches := s.jx.switches ++ [(n + 2, set1)] } }
      .next (s.send srcSafety .PLAN_SWITCH (set1 * 2 ^ 32 + (n + 2) % 2 ^ 32))

/-- Acting master: the lowest member not in the failure set; the configured MASTER while it is such a member (R302). -/
def State.actingMaster (s : State) : Option Nat :=
  have live := (List.range s.modules).filter (fun m => !bitAt s.jx.failSet m)
  have c := s.recLe recJexong 2 1
  if live.contains c then some c else live.head?

/-- JX_JOIN (R301, R329, R332). -/
def execJxJoin (m : JxMsg) (s : State) : Host.Outcome State Fault Refusal :=
  match s.jxFrom m 5 with
  | none => .next s
  | some k =>
    have j := leAt m.payload 4 1
    have b := leAt m.payload 8 8
    if j = s.moduleId then
      if s.servo = stLocked then
        have s := ({ s with jx := { s.jx with joinBell := some b } }).wf F.JXL_FIRST_LO_BELL (b % 2 ^ 32) |>.wf F.JXL_FIRST_HI_BELL (b / 2 ^ 32)
        -- the failure set of a joiner that runs no bell is that of the acting master's heartbeat without the joiner (R301, R329)
        if s.bell.running then .next s
        else
          have f := (s.peer k).hbPlan % 16
          have s := { s with jx := { s.jx with failSet := if bitAt f j then f - 2 ^ j else f } }
          .next (s.setFirst b)
      else .next s
    else if j < s.modules then .next { s with jx := { s.jx with joiners := s.jx.joiners ++ [(j, b)] } }
    else .next s

/-- JX_JOIN_SEND (R301, R302): the acting master joins the lowest locked absent module whose READY it holds, at least two bells ahead (log 13). -/
def execJxJoinSend (s : State) : Host.Outcome State Fault Refusal :=
  if s.bell.running && s.actingMaster == some s.moduleId && s.servo == stLocked then
    match s.others.find? (fun m => bitAt s.announced m && (s.peer m).ready && (s.peer m).readyLocked) with
    | none => .next s
    | some m =>
      have b := s.bell.n + 2 + Config.joinLead s.bell.n
      have s := s.jxSend 5 (leBytes 1 m ++ leBytes 3 0 ++ leBytes 8 b)
      have s := s.setPeer m (fun p => { p with ready := false })
      .next { s with jx := { s.jx with joiners := s.jx.joiners ++ [(m, b)] } }
  else .next s

/-- JX_REFUSE (R296). -/
def execJxRefuse (m : JxMsg) (s : State) : Host.Outcome State Fault Refusal :=
  match s.jxFrom m 6 with
  | none => .next s
  | some _ => .next (s.bump F.JXL_EVENTS_REFUSED 1)

end Sys2Proof.Machine
end

