-- ==== Sys2Proof/Machine/Sieve.lean ====
section
/-! DEFINITION. SIEVE: lidar points, ego motion and the voxel table (10, R252 to R263). -/

namespace Sys2Proof.Machine
open Sys2Proof
set_option Elab.async false

/-! ### Descriptors (Table 10-1) -/

def State.lidRec (s : State) (l : Nat) : Option (List Byte) :=
  have bs := s.recBytes recLidar 0
  ((List.range (recCount bs 128)).map (recElem bs 128)).find? (fun r => leAt r 0 1 == l)

/-- Descriptor a datagram matches by port, source address and destination port (R254). -/
def State.lidMatch (s : State) (port ip udp : Nat) : Option (List Byte) :=
  have bs := s.recBytes recLidar 0
  ((List.range (recCount bs 128)).map (recElem bs 128)).find? (fun r => leAt r 1 1 == port && leAt r 4 4 == ip && leAt r 8 2 == udp)

def lidFlag (r : List Byte) (i : Nat) : Bool := bitAt (leAt r 2 1) i

/-- A multi-byte packet field: little-endian unless BE (R253). -/
def lidField (r pkt : List Byte) (off n : Nat) : Nat :=
  have b := (pkt.drop off).take n
  if lidFlag r 0 then leNat b.reverse else leNat b

def State.lg (s : State) (l : Nat) : LidGen := (s.sieve.gens[l]?).getD LidGen.reset
def State.setLg (s : State) (l : Nat) (f : LidGen → LidGen) : State := { s with sieve := { s.sieve with gens := s.sieve.gens.modify l f } }

def State.window (s : State) : Nat := s.recLe recFusion 0 4

/-- Edge of the open generation's bell. -/
def State.genEdge (s : State) : Nat := s.bellEdgeNs s.sieve.gen

/-- SIEVE runs from T_READY in every state that runs sensors (R470, Table 17-6). -/
def State.sieveOn (s : State) : Bool := s.pw.ready && (decide (s.pstate ≠ .halt) && decide (s.pstate ≠ .off))

/-- Show the queue. -/
def State.sieveShow (s : State) : State :=
  (s.wf F.SVE_STATUS_QUEUE (min 2047 s.sieve.queue.length)).wf F.SVE_STATUS_BUSY (if s.sieve.queue.isEmpty then 0 else 1)

/-- Datagram time in ns, or none when its nanoseconds are not below 1,000,000,000 (R254, TS_KIND). -/
def dgTime (r pkt : List Byte) (now : Nat) : Option Nat :=
  have o := leAt r 18 2
  match leAt r 3 1 with
  | 0 => some (lidField r pkt o 8)
  | 1 => have ns := lidField r pkt (o + 4) 4; if ns < 1000000000 then some (lidField r pkt o 4 * 1000000000 + ns) else none
  | _ => some (now - leAt r 56 4)

/-- A coordinate to f32: XYZ_TYPE 0 s16, 1 s32, 2 f32 (Table 10-1). -/
def rawCoord (r : List Byte) (v : Nat) : Nat :=
  match leAt r 28 1 with
  | 0 => f32ofInt (toSigned 16 v)
  | 1 => f32ofInt (toSigned 32 v)
  | _ => v

def coordBytes (r : List Byte) : Nat := if leAt r 28 1 = 0 then 2 else 4

/-- clamp(round_even(v × 4096)) to an s32 word; a NaN has no stated result and is a free value (R255). -/
def State.toFix (s : State) (v : Nat) : Nat × State :=
  have y := f32mul v 0x45800000
  if f32isNan y then s.freeNat 32 else (ofSigned 32 (cvtInt y 0 (-2147483648) 2147483647).1, s)

/-- Drop a point, counted by reason. -/
inductive LidDrop where
  | stale | future | range | ovf
  deriving DecidableEq, Repr

def State.dropPt (s : State) (l : Nat) : LidDrop → State
  | .stale => s.bump (F.SVE_DROP_STALE l) 1
  | .future => s.bump (F.SVE_DROP_FUTURE l) 1
  | .range => s.bump (F.SVE_DROP_RANGE l) 1
  | .ovf => s.bump (F.SVE_DROP_OVF l) 1

/-- Is t outside the open generation's window (R255, R275)? Both ends are inside. -/
def State.outOfWindow (s : State) (t : Nat) : Option LidDrop :=
  if t + s.window < s.genEdge then some .stale else if s.genEdge < t then some .future else none

/-- Put a point with raw coordinates rx, ry, rz, intensity ri and time t in the queue, unless `out` says why it is dropped (R255, R262);
in replay SIEVE paces itself (R418). -/
def State.queuePoint (s : State) (r : List Byte) (rx ry rz ri t : Nat) (out : Option LidDrop) : State :=
  have l := leAt r 0 1
  match out with
  | some d => s.dropPt l d
  | none =>
    if leAt r 28 1 = 2 ∧ !(f32isFinite rx && f32isFinite ry && f32isFinite rz) then s.dropPt l .range
    else if lidFlag r 1 && rx == 0 && ry == 0 && rz == 0 then s
    else
      have sc := leAt r 48 4
      have sx := f32mul (rawCoord r rx) sc
      have sy := f32mul (rawCoord r ry) sc
      have sz := f32mul (rawCoord r rz) sc
      have row (k : Nat) : Nat :=
        f32add (f32add (f32add (f32mul (leAt r (64 + 12 * k) 4) sx) (f32mul (leAt r (68 + 12 * k) 4) sy)) (f32mul (leAt r (72 + 12 * k) 4) sz)) (leAt r (100 + 4 * k) 4)
      let (x, s) := s.toFix (row 0)
      let (y, s) := s.toFix (row 1)
      let (z, s) := s.toFix (row 2)
      if 4096 ≤ s.sieve.queue.length ∧ s.replay.isNone then
        have first := !(s.lg l).overrun
        have s := (s.dropPt l .ovf).setLg l (fun g => { g with overrun := true })
        if first then s.send (srcSieve l) .LID_OVERRUN (s.sieve.gen % 2 ^ 32) else s
      else
        have p : LidPt := { lidar := l, x := x, y := y, z := z, inten := min 255 (ri / 2 ^ leAt r 30 1), t := t }
        { s with sieve := { s.sieve with queue := s.sieve.queue ++ [p] } }

/-- Put one point of a datagram in the queue (R255). -/
def State.takePoint (s : State) (r pkt : List Byte) (t0 i : Nat) : State :=
  have o := leAt r 12 2 + i * leAt r 16 2
  have n := coordBytes r
  have rx := lidField r pkt (o + leAt r 32 2) n
  have ry := lidField r pkt (o + leAt r 34 2) n
  have rz := lidField r pkt (o + leAt r 36 2) n
  have ri := if leAt r 29 1 = 0 then lidField r pkt (o + leAt r 38 2) 1 else lidField r pkt (o + leAt r 38 2) 2
  have dt := match leAt r 31 1 with
    | 0 => 0
    | 1 => lidField r pkt (o + leAt r 40 2) 2
    | _ => lidField r pkt (o + leAt r 40 2) 4
  have t := t0 + dt * leAt r 52 4
  s.queuePoint r rx ry rz ri t (s.outOfWindow t)

/-- Note the datagram counter: a gap of g adds g lost datagrams (R254). -/
def State.dgSeq (s : State) (r pkt : List Byte) : State :=
  have l := leAt r 0 1
  have o := leAt r 20 2
  if o = 0xFFFF then s
  else
    have v := lidField r pkt o 2
    have g := match (s.sieve.seqs[l]?).getD none with
      | some p => (v + 65535 - p) % 65536
      | none => 0
    have s := { s with sieve := { s.sieve with seqs := s.sieve.seqs.set l (some v) } }
    (s.bump (F.SVE_BAD_LOST l) g).setLg l (fun x => { x with bad := x.bad + g })

/-- Take a lidar datagram with its ingress time (R254, R255). A datagram that matches no descriptor is ignored. -/
def State.lidarTake (s : State) (port srcIp dstUdp : Nat) (checksumOk : Bool) (payload : List Byte) (ingress : Nat) : State :=
  match s.lidMatch port srcIp dstUdp with
  | none => s
  | some r =>
    have l := leAt r 0 1
    have mo := leAt r 22 2
    have t0 := dgTime r payload ingress
    if payload.length ≠ leAt r 10 2 ∨ !checksumOk ∨ (mo ≠ 0xFFFF ∧ lidField r payload mo 4 ≠ leAt r 24 4) ∨ t0 = none then
      have s := (s.bump (F.SVE_BAD_BAD l) 1).setLg l (fun g => { g with bad := g.bad + 1 })
      s.send (srcSieve l) .LID_BAD_PKT (l * 2 ^ 37 + dstUdp)
    else
      have s := s.dgSeq r payload
      ((List.range (leAt r 14 2)).foldl (fun (s : State) i => s.takePoint r payload (t0.getD 0) i) s).sieveShow

/-- LIDAR_DATAGRAM (R254, R255): ignored before T_READY, on a port that is down and while a replay session holds the inputs (R416). -/
def execLidarDatagram (port : Fin 6) (srcIp : BitVec 32) (dstUdp : BitVec 16) (checksumOk : Bool) (payload : List Byte) (dt : Nat)
    (s : State) : Host.Outcome State Fault Refusal :=
  have s := s.advance dt
  if !s.sieveOn || s.replay.isSome || decide (4 ≤ port.val) || !s.flag (F.ETH_STATUS_LINK port.val) then .next s
  else .next (s.lidarTake port.val srcIp.toNat dstUdp.toNat checksumOk payload s.timeNs)

/-! ### Ego motion (R256, R257) -/

/-- Take an ego-motion message (R256). -/
def State.egoTake (s : State) (record : List Byte) : State :=
  have pl := record.drop 32
  have t := leAt pl 0 6 * 1000000000 + leAt pl 6 4
  have ok := leAt record 0 2 % 4096 == s.recLe recFusion 14 2 % 4096 && leAt record 2 1 == 1 && leAt record 20 4 == 40 && pl.length == 40 &&
    leAt record 28 4 == crc32c (record.take 28 ++ pl) && s.sieve.ego.all (fun m => decide (m.1 < t))
  if ok then
    have l := s.sieve.ego ++ [(t, pl)]
    have l := l.drop (l.length - 256)
    have s := { s with sieve := { s.sieve with ego := l } }
    (s.wf F.SVE_EGO_HELD l.length).wf F.SVE_EGO_NS_NS (t % 1000000000)
  else
    have b := s.curBell
    have n := (if s.sieve.egoBell = b then s.sieve.egoRej else 0) + 1
    have s := { s with sieve := { s.sieve with egoRej := n, egoBell := b } }
    (s.bump F.SVE_EGO_REJECT 1).send srcSieveAll .EGO_REJECT (satU 16 n)

/-- EGO_MESSAGE (R256). A datagram on another port or UDP port is not an ego message; a replay session holds the inputs (R416). -/
def execEgoMessage (port : Fin 6) (dstUdp : BitVec 16) (record : List Byte) (dt : Nat) (s : State) : Host.Outcome State Fault Refusal :=
  have s := s.advance dt
  if !s.sieveOn || s.replay.isSome || !bitAt (s.recLe recFusion 16 1) port.val || decide (dstUdp.toNat ≠ s.recLe recFusion 12 2) ||
    !s.flag (F.ETH_STATUS_LINK port.val) then .next s
  else .next (s.egoTake record)

/-- The ego message used for a point at time t, whether the selection is final, and its distance in ns; none with an empty ring. -/
def egoFor (ring : List (Nat × List Byte)) (t : Nat) : Option ((Nat × List Byte) × Bool × Nat) :=
  have later := ring.any (fun m => decide (t < m.1))
  match ring.reverse.find? (fun m => decide (m.1 ≤ t)) with
  | some m => some (m, later, t - m.1)
  | none => (ring.head?).map (fun m => (m, true, m.1 - t))

/-- The six f32 words of an ego-motion payload (R256). -/
def egoWords (pl : List Byte) : List Nat := (List.range 6).map (fun i => leAt pl (12 + 4 * i) 4)

/-! ### Voxels (R258 to R262) -/

/-- Base of the voxel table (R259). -/
def State.voxBase (s : State) : Nat := ((s.hbmRegion 4).map (fun r => r.1)).getD 0x460000000

/-- Home slot of a key (R261). -/
def voxHome (key : Nat) : Nat := (key * 0x9E3779B97F4A7C15 % 2 ^ 64) / 2 ^ 40

/-- An entry of Table 10-4. -/
structure Vox where
  bell : Nat
  key : Nat
  valid : Bool
  count : Nat
  sx : Nat
  sy : Nat
  sz : Nat
  si : Nat

def Vox.bytes (v : Vox) : List Byte :=
  leBytes 4 v.bell ++ leBytes 6 v.key ++ leBytes 1 (if v.valid then 1 else 0) ++ leBytes 1 0 ++ leBytes 4 v.count ++ leBytes 4 v.sx ++
    leBytes 4 v.sy ++ leBytes 4 v.sz ++ leBytes 4 v.si

def parseVox (b : List Byte) : Vox :=
  { bell := leAt b 0 4, key := leAt b 4 6, valid := bitAt (leAt b 10 1) 0, count := leAt b 12 4, sx := leAt b 16 4, sy := leAt b 20 4,
    sz := leAt b 24 4, si := leAt b 28 4 }

/-- Saturating sum of two entries of one key (R259). -/
def Vox.add (e c : Vox) : Vox :=
  { e with count := satU 32 (e.count + c.count), sx := satU 32 (e.sx + c.sx), sy := satU 32 (e.sy + c.sy), sz := satU 32 (e.sz + c.sz),
           si := satU 32 (e.si + c.si) }

/-- dist(s, h) of R261. -/
def voxDist (slot home : Nat) : Nat := (slot + 16777216 - home) % 16777216

/-- Note the dist of a write. -/
def State.voxWrite (s : State) (slot : Nat) (v : Vox) : State :=
  have s := s.put 6 (keyHbm (s.voxBase + 32 * slot)) v.bytes
  { s with sieve := { s.sieve with maxDist := max s.sieve.maxDist (voxDist slot (voxHome v.key)) } }

/-- The insert loop of R261. `bound` slots are visited at most. Lidar l's sample is void when a word it read is bad (R208). -/
def State.voxInsert (s : State) (l : Nat) (carry : Vox) (slot : Nat) : Nat → State
  | 0 => s
  | bound + 1 =>
    if 32 ≤ voxDist slot (voxHome carry.key) then
      have first := !s.sieve.overflow
      have s := { s with sieve := { s.sieve with overflow := true } }
      have s := s.dropPt (carry.key / 2 ^ 45 % 8) .ovf
      if first then s.send srcSieveAll .VOX_OVERFLOW (s.sieve.gen % 2 ^ 32) else s
    else
      let (b, ok, s) := s.fetch 6 (keyHbm (s.voxBase + 32 * slot)) 32
      have s := if ok then s else s.setLg l (fun g => { g with ue := true })
      have e := parseVox b
      have m := s.sieve.gen % 2 ^ 32
      have own := e.valid && e.bell == m
      have obstacle := e.valid && e.bell == (m + 2 ^ 32 - 1) % 2 ^ 32
      have next := (slot + 1) % 16777216
      if !own && !obstacle then
        have s := s.voxWrite slot carry
        { s with sieve := { s.sieve with occ := slot :: s.sieve.occ } }
      else if own && e.key == carry.key then s.voxWrite slot (e.add carry)
      else if own then
        have de := voxDist slot (voxHome e.key)
        have dc := voxDist slot (voxHome carry.key)
        if de < dc ∨ (dc = de ∧ carry.key < e.key) then (s.voxWrite slot carry).voxInsert l e next bound
        else s.voxInsert l carry next bound
      else s.voxInsert l carry next bound

/-- A record of Table 10-2 with its AGE against the open generation's edge. -/
def lidRecord (p : LidPt) (age : Nat) : List Byte :=
  leBytes 4 p.x ++ leBytes 4 p.y ++ leBytes 4 p.z ++ leBytes 1 p.inten ++ leBytes 1 p.lidar ++ leBytes 2 age

/-- Six free ego words for a point with an empty ring: the spec gives no motion for it. -/
def State.freeEgo (s : State) : List Nat × State :=
  (List.range 6).foldl (fun (a : List Nat × State) _ => let (v, s) := a.2.freeNat 32; (a.1 ++ [v], s)) ([], s)

/-- One compensated coordinate: p − ((v + c) × d), c the cross-product term (R258). -/
def compAxis (p v a b c e d : Nat) : Nat := f32sub p (f32mul (f32add v (f32sub (f32mul a b) (f32mul c e))) d)

/-- Compensate a queued point and insert it, unless `out` says why it is dropped (R257 to R261). -/
def State.insertPoint (s : State) (p : LidPt) (out : Option LidDrop) : State :=
  match out with
  | some d => (s.dropPt p.lidar d)
  | none =>
    have l := p.lidar
    have age := min 65535 ((s.genEdge - p.t) / 2000)
    have stale := s.recLe recFusion 20 4
    have sel := egoFor s.sieve.ego p.t
    -- in replay every selection is final (R418)
    let (w, nd, far, s) := match sel with
      | some (m, fin, d) => (egoWords m.2, !fin && s.replay.isNone, if stale < d then some d else none, s)
      | none => let (w, s) := s.freeEgo; (w, false, some (2 ^ 63), s)
    have first := !(s.lg l).ego
    have s := match far with
      | some d =>
        have s := s.setLg l (fun g => { g with ego := true })
        if first then s.send (srcSieve l) .EGO_STALE (l * 2 ^ 37 + satU 32 (d / 1000000)) else s
      | none => s
    have s := if nd then s.setLg l (fun g => { g with nd := true }) else s
    have e (i : Nat) : Nat := (w[i]?).getD 0
    have d := f32mul (f32ofInt (age * 2000)) 0x3089705F
    have ax (v : Nat) : Nat := f32mul (f32ofInt (toSigned 32 v)) 0x39800000
    have x := ax p.x
    have y := ax p.y
    have z := ax p.z
    let (xc, s) := s.toFix (compAxis x (e 0) (e 4) z (e 5) y d)
    let (yc, s) := s.toFix (compAxis y (e 1) (e 5) x (e 3) z d)
    let (zc, s) := s.toFix (compAxis z (e 2) (e 3) y (e 4) x d)
    have fu := s.recBytes recFusion 0
    have cell (v k : Nat) : Int × Nat :=
      have q := toSigned 32 v - toSigned 32 (leAt fu (24 + 4 * k) 4)
      have g : Int := max (leAt fu (36 + 2 * k) 2) 1
      (q / g, (q % g).toNat)
    have cx := cell xc 0
    have cy := cell yc 1
    have cz := cell zc 2
    have out (c : Int × Nat) (k : Nat) : Bool := decide (c.1 < 0) || decide ((leAt fu (42 + 2 * k) 2 : Int) ≤ c.1)
    if out cx 0 || out cy 1 || out cz 2 then (s.dropPt l .range)
    else
      have key := l * 2 ^ 45 + cz.1.toNat * 2 ^ 32 + cy.1.toNat * 2 ^ 16 + cx.1.toNat
      have v : Vox := { bell := s.sieve.gen % 2 ^ 32, key := key, valid := true, count := 1, sx := cx.2, sy := cy.2, sz := cz.2, si := p.inten }
      have s := s.setLg l (fun g => { g with recs := g.recs ++ [lidRecord p age], tMin := if g.recs.isEmpty then p.t else min g.tMin p.t })
      have s := match sel with
        | some (m, _, _) => if s.sieve.used.contains m then s else { s with sieve := { s.sieve with used := s.sieve.used ++ [m] } }
        | none => s
      (s.voxInsert l v (voxHome key) 16777216)

/-! ### Closing a generation (R261, R263) -/

/-- VOXEL_INSERT (R257, R258, R261): the front record of the queue. A record that outlived its generation is judged again (R275). -/
def execVoxelInsert (s : State) : Host.Outcome State Fault Refusal :=
  match s.sieve.queue with
  | [] => .next s
  | p :: rest =>
    if !s.sieveOn then .next s
    else
      have s := s.advanceTo s.sieve.clearTo
      have s := ({ s with sieve := { s.sieve with queue := rest } }.wf F.SVE_STATUS_CLEARING 0).sieveShow
      .next (s.insertPoint p (s.outOfWindow p.t))

/-- A lidar sample: presence of a record, cause (0 none), ND, capture ns, counter, records, digest, own entries (R263). -/
structure LidSample where
  some' : Bool
  cause : Nat
  nd : Bool
  capt : Nat
  counter : Nat
  count : Nat
  dig : List Byte

/-- The sample of lidar l in the closing generation; of two causes the lower code (R275). -/
def State.lidSample (s : State) (l : Nat) (r : List Byte) : LidSample :=
  have g := s.lg l
  have n := g.recs.length
  have cnt := (s.sieve.counters[l]?).getD 0
  have cause :=
    if n = 0 then 1
    else if g.ue || decide (leAt r 42 2 < g.bad) then 2
    else if n < leAt r 44 4 then 3
    else if g.ego then 4
    else if s.sieve.overflow then 5
    else if g.overrun then 6
    else 0
  have dig := shake256 (g.recs.flatMap id ++ leBytes 1 l ++ leBytes 2 cnt ++ leBytes 6 (g.tMin / 1000000000) ++ leBytes 4 (g.tMin % 1000000000) ++ leBytes 4 n) 32
  { some' := n != 0, cause := cause, nd := g.nd, capt := g.tMin, counter := cnt, count := n, dig := dig }

/-- Own entries of the closing generation in ascending (home, KEY) order (R261, R268). -/
def State.ownVoxels (s : State) : List Vox :=
  have es := s.sieve.occ.map (fun k => parseVox (s.rdN (keyHbm (s.voxBase + 32 * k)) 32))
  sortBy es (fun a b => decide (voxHome a.key < voxHome b.key) || (voxHome a.key == voxHome b.key && decide (a.key ≤ b.key)))

/-- The snapshot closes a generation and opens the one of bell `next` (R252, R261, Table 10-9). -/
def State.closeGen (s : State) (next : Nat) : State :=
  have s := ((s.wf F.SVE_VOX_ENTRIES s.sieve.occ.length).wf F.SVE_VOX_MAXDIST (min 31 s.sieve.maxDist)).wf F.SVE_VOX_OVF (if s.sieve.overflow then 1 else 0)
  have s := (List.range 8).foldl (fun (s : State) l =>
     match s.lidRec l with
     | none => s
     | some r =>
       have x := s.lidSample l r
       have s := (s.wf (F.SVE_POINTS_POINTS l) x.count).wf (F.SVE_SAMPLE_COUNTER l) x.counter
       have s := s.absorb 2 ((s.lg l).recs.flatten.length + 17)
       (s.wf (F.SVE_SAMPLE_CAUSE l) x.cause).wf (F.SVE_SAMPLE_ND l) (if x.nd then 1 else 0)) s
  have cs := (List.range 8).map (fun l => have c := (s.sieve.counters[l]?).getD 0; if (s.lg l).recs.isEmpty then c else (c + 1) % 65536)
  have s := { s with sieve := { s.sieve with gen := next, gens := List.replicate 8 LidGen.reset, counters := cs, occ := [], closed := s.sieve.occ, used := [],
                                             overflow := false, maxDist := 0, clearTo := s.now + 8000 } }
  (s.wf F.SVE_STATUS_CLEARING 1).wf F.SVE_GEN_BELL (next % 2 ^ 32)

/-- SIEVE at T_READY: nothing held, the open generation is that of the first bell (R470, R213). -/
def State.sieveStart (s : State) (first : Nat) : State :=
  have s := { s with sieve := { Sieve.reset with gen := first } }
  ((s.wf F.SVE_GEN_BELL (first % 2 ^ 32)).wf F.SVE_STATUS_CLEARING 0).sieveShow

/-- Nothing of the time before a late step is held; datagram counters, frame counters and ego rejects go on (R292). -/
def State.sieveDrop (s : State) (first : Nat) : State :=
  have old := s.sieve
  have s := s.sieveStart first
  { s with sieve := { s.sieve with counters := old.counters, seqs := old.seqs, egoRej := old.egoRej, egoBell := old.egoBell } }

end Sys2Proof.Machine
end

