-- ==== Sys2Proof/Machine/Ingest.lean ====
section
/-! DEFINITION. INGEST: the snapshot, the sample list, level streams and batches (10, R264 to R272; 09, R237). -/

namespace Sys2Proof.Machine
open Sys2Proof
set_option Elab.async false

/-! ### Selection (R265) -/

/-- What INGEST selected for a camera: set index and set, cause, and whether the set was selected before. -/
structure CamSel where
  set : Option (Nat × CamSet)
  cause : Nat
  reused : Bool

/-- The COMPLETE set with the latest capture time in the window, the higher SEQ on a tie (R265). -/
def pickSet (m : Cam) (lo hi : Nat) : Option (Nat × CamSet) :=
  (List.range 3).foldl (fun (b : Option (Nat × CamSet)) k =>
    have x := (m.sets[k]?).getD CamSet.reset
    if !x.complete || decide (x.capt < lo) || decide (hi < x.capt) then b
    else match b with
      | none => some (k, x)
      | some (_, y) => if y.capt < x.capt ∨ (y.capt = x.capt ∧ y.seq < x.seq) then some (k, x) else b) none

/-- Bytes of a camera's levels from output set k, with the CRC check of the set (R237). -/
def State.readSet (s : State) (r : List Byte) (k : Nat) : List (List Byte) × Bool × State :=
  match s.addrKey (leAt r 64 5 + k * leAt r 72 4) with
  | none => ([[], [], [], []], false, s)
  | some base =>
    have ls := (List.range 4).map (fun i => parseLevel (recElem (r.drop 80) 16 i))
    have lens := ls.map (fun l => if l.fmt = 0xFF then 0 else l.oh * l.rowBytes)
    have offs := levelOffsets (lens.map (fun n => List.replicate n (0 : Byte)))
    let (h, ok, s) := s.load false 0 base 64
    let (data, ok, s) := (offs.zip lens).foldl (fun (a : List (List Byte) × Bool × State) (x : Nat × Nat) =>
      let (b, o, s) := a.2.2.load false 0 (base + x.1) x.2
      (a.1 ++ [b], a.2.1 && o, s)) ([], ok, s)
    (data, ok && leAt h 60 4 == crc32c (h.take 60 ++ data.flatMap id), s)

/-- Select a camera's sample, hold its set, and read its levels (R19, R265). -/
def State.selectCam (s : State) (c : Nat) (r : List Byte) : CamSel × List (List Byte) × State :=
  have m := s.cam c
  have sel := if m.failed then none else pickSet m (s.bell.edge - s.window) s.bell.edge
  match sel with
  | none =>
    ({ set := none, cause := if s.flag (F.CSI_LINK_UP c) || s.replay.isSome then 1 else 7, reused := false }, [[], [], [], []],
      s.setCam c (fun m => { m with held := none }))
  | some (k, x) =>
    have s := s.setCam c (fun m => { m with held := some k, lastSel := some x.seq })
    let (data, ok, s) := s.readSet r k
    ({ set := some (k, x), cause := if x.void || !ok then 2 else 0, reused := m.lastSel == some x.seq }, data, s)

/-! ### The sample list (Table 10-6) -/

def listEntry (sensor flags cause counter capt count voxels : Nat) (dig : List Byte) : List Byte :=
  leBytes 1 sensor ++ leBytes 1 flags ++ leBytes 1 cause ++ leBytes 1 0 ++ leBytes 2 counter ++ leBytes 2 0 ++
    leBytes 6 (capt / 1000000000) ++ leBytes 4 (capt % 1000000000) ++ leBytes 4 count ++ leBytes 4 voxels ++ List.replicate 6 0 ++
    (if bitAt flags 0 then List.replicate 32 0 else dig)

def absentEntry (sensor : Nat) : List Byte := leBytes 1 sensor ++ List.replicate 63 0

def State.camEntry (s : State) (c : Nat) (r : List Byte) (x : CamSel) : List Byte :=
  have void := if x.cause = 0 then 0 else 1
  match x.set with
  | none => listEntry c (128 + void) x.cause 0 0 0 0 []
  | some (k, st) =>
    have fl := 128 + void + (if x.reused then 2 else 0) + (if bitAt st.flags 1 then 8 else 0) + (if bitAt st.flags 3 then 16 else 0) +
      (if bitAt st.flags 4 then 32 else 0)
    have dig := match s.addrKey (leAt r 64 5 + k * leAt r 72 4) with
      | some b => s.rdN (b + 18) 32
      | none => []
    listEntry c fl x.cause st.frame st.capt 0 0 dig

def lidEntry (l : Nat) (x : LidSample) (voxels : Nat) (free trunc : Bool) : List Byte :=
  have void := if x.cause = 0 then 0 else 1
  have fl := 128 + void + (if x.nd then 4 else 0) + (if free && x.some' then 32 else 0) + (if trunc then 64 else 0)
  listEntry (16 + l) fl x.cause (if x.some' then x.counter else 0) (if x.some' then x.capt else 0) x.count voxels x.dig

/-! ### Tiles -/

/-- A header that carries a sample's capture time and flags to mkHdr. -/
def sampleHdr (capt flags : Nat) : Hdr :=
  { stream := 0, major := 0, minor := 0, bell := 0, sec := capt / 1000000000, ns := capt % 1000000000, flags := flags, len := 0, idx := 0,
    age := 0, crc := 0 }

/-- Write tile i of a stream at every copy the stream table gives it. -/
def State.ingestTile (s : State) (stream i : Nat) (from' : List Hdr) (void : Bool) (pay : List Byte) : State :=
  let (ka, len) := s.streamTiles stream false
  let (kb, _) := s.streamTiles stream true
  have ds := match ka[i]?, kb[i]? with
    | some a, some b => if a = b then [TileDst.mem a] else [TileDst.mem a, TileDst.mem b]
    | some a, none => [TileDst.mem a]
    | none, _ => []
  if ds.isEmpty then s
  else
    have h := s.mkHdr stream i len from' 0 void
    have h := { h with flags := h.flags ||| (from'.foldl (fun f x => f ||| x.flags) 0) }
    s.writeTile 0 srcIngest none h (fitLen len pay) ds

/-- Rows of tile j of a level (R237). -/
def levelTile (l : Level) (bs : List Byte) (j : Nat) : List Byte :=
  (bs.drop (j * l.rows * l.rowBytes)).take (l.rows * l.rowBytes)

/-- Form the streams of a camera's levels; void tiles for a VOID sample (R237, R269). -/
def State.levelStreams (s : State) (r : List Byte) (x : CamSel) (data : List (List Byte)) : State :=
  have hs := match x.set with
    | some (_, st) => [sampleHdr st.capt (setFlags (setBits st.flags 2 2 0))]
    | none => []
  (List.range 4).foldl (fun (s : State) i =>
    have l := parseLevel (recElem (r.drop 80) 16 i)
    if l.fmt = 0xFF then s
    else
      have bs := (data[i]?).getD []
      (List.range (s.streamTiles l.stream false).1.length).foldl (fun (s : State) j =>
        s.ingestTile l.stream j (if x.cause = 0 then hs else []) (x.cause != 0) (levelTile l bs j)) s) s

/-! ### Perturbation (R271, R272) -/

def rot32 (v r : Nat) : Nat := (v * 2 ^ r + v / 2 ^ (32 - r)) % 2 ^ 32

/-- One round half of draw. -/
def drawStep (x : Nat × Nat × Nat × Nat) (r1 r2 : Nat) : Nat × Nat × Nat × Nat :=
  let (a, b, c, d) := x
  have a := (a + b) % 2 ^ 32
  have d := rot32 (d ^^^ a) r1
  have c := (c + d) % 2 ^ 32
  (a, rot32 (b ^^^ c) r2, c, d)

/-- draw of R271. -/
def draw (seed stream bell i : Nat) : Nat :=
  have x0 := ((seed % 2 ^ 32) ^^^ i, (seed / 2 ^ 32) ^^^ stream, bell % 2 ^ 32, 0x5F41C39B)
  have x := (List.range 8).foldl (fun (x : Nat × Nat × Nat × Nat) _ => drawStep (drawStep x 13 9) 11 5) x0
  x.1 ^^^ x.2.2.1

/-- Re-light one byte: u × g with offset o (R272). -/
def relight (int8 : Bool) (g o : Int) (b : Byte) : Byte :=
  have u : Int := if int8 then ((b.toNat + 128) % 256 : Nat) else (b.toNat : Nat)
  have v := clampI ((u * g + 128) / 256 + o) 0 255
  BitVec.ofNat 8 (if int8 then (v.toNat + 128) % 256 else v.toNat)

/-- A level image of slot k of a PERTURB batch (R272). -/
def perturb (l : Level) (b : List Byte) (seed stream bell k : Nat) (img : List Byte) : List Byte :=
  have d (i lim : Nat) : Int := ((draw seed stream bell (4 * k + i) % (2 * lim + 1) : Nat) : Int) - lim
  have dx0 := d 0 (leAt b 9 1)
  have dx := if l.fmt = 1 then dx0 / 2 * 2 else dx0
  have dy := d 1 (leAt b 10 1)
  have g := 256 + d 2 (leAt b 11 1)
  have o := d 3 (leAt b 12 1)
  have int8 := l.fmt == 3 || l.fmt == 4
  have unit := if l.fmt = 1 then 4 else if l.fmt = 0 ∨ l.fmt = 3 then 3 else 1
  have step := if l.fmt = 1 then 2 else 1
  have a := img.toArray
  have pad : Byte := BitVec.ofNat 8 (leAt b 8 1)
  (List.range l.oh).flatMap (fun (y : Nat) => (List.range (l.ow / step)).flatMap (fun (i : Nat) =>
    have sx : Int := (step * i : Nat) + dx
    have sy : Int := (y : Nat) + dy
    if sx < 0 ∨ (l.ow : Int) ≤ sx ∨ sy < 0 ∨ (l.oh : Int) ≤ sy then List.replicate unit pad
    else
      have at' := sy.toNat * l.rowBytes + sx.toNat / step * unit
      (List.range unit).map (fun (n : Nat) =>
        have v := a.getD (at' + n) 0
        if l.fmt = 1 ∧ n % 2 = 0 then v else relight int8 g o v)))

/-! ### Batches (R267 to R269) -/

def State.batches (s : State) : List (List Byte) := have bs := s.recBytes recBatch 0; (List.range (recCount bs 48)).map (recElem bs 48)

def batchSlotTiles (b : List Byte) : Nat := leAt b 6 2
def batchStream (b : List Byte) : Nat := leAt b 4 2 % 4096

/-- Entries of a lidar that the batches leave out, at most (R268). -/
def truncated (bs : List (List Byte)) (l n : Nat) : Nat :=
  bs.foldl (fun m b =>
    if leAt b 0 1 = 1 ∧ (List.range (leAt b 1 1)).any (fun k => leAt b (16 + k) 1 == l) then max m (n - batchSlotTiles b * 2048) else m) 0

/-- Form slot k of a camera batch. -/
def State.camSlot (s : State) (b : List Byte) (k : Nat) (x : CamSel) (r : List Byte) (data : List (List Byte)) : State :=
  have l := parseLevel (recElem (r.drop 80) 16 (leAt b 2 1))
  have img := (data[leAt b 2 1]?).getD []
  have img := if bitAt (leAt b 3 1) 0 then perturb l b (s.recLe recFusion 4 8) (batchStream b) s.curBell k img else img
  have hs := match x.set with
    | some (_, st) => [sampleHdr (if x.cause = 0 then st.capt else 0) (setFlags (setBits st.flags 2 2 0))]
    | none => []
  have len := (s.streamTiles (batchStream b) false).2
  have pad := List.replicate len (BitVec.ofNat 8 (leAt b 8 1))
  (List.range (batchSlotTiles b)).foldl (fun (s : State) j =>
    s.ingestTile (batchStream b) (k * batchSlotTiles b + j) hs false (if x.cause = 0 then levelTile l img j else pad)) s

/-- Form slot k of a lidar batch. -/
def State.lidSlot (s : State) (b : List Byte) (k : Nat) (x : LidSample) (vs : List Vox) (free : Bool) : State :=
  have pay := if x.cause = 0 then (vs.take (batchSlotTiles b * 2048)).flatMap Vox.bytes else []
  have hs := [sampleHdr (if x.cause = 0 then x.capt else 0) ((if x.nd then flNd else 0) + (if free && x.some' then flFree else 0))]
  (List.range (batchSlotTiles b)).foldl (fun (s : State) j =>
    s.ingestTile (batchStream b) (k * batchSlotTiles b + j) hs false ((pay.drop (j * 65536)).take 65536)) s

/-! ### The snapshot (R18, R265, R266) -/

/-- The snapshot of the running bell: selection, sample list, level streams and batches. -/
def State.snapshot (s : State) : State :=
  have free := s.freeRunning
  have bs := s.batches
  let (cams, s) := (List.range 16).foldl (fun (a : List (Option (List Byte × CamSel × List (List Byte))) × State) c =>
    match a.2.camRec c with
    | none => (a.1 ++ [none], a.2)
    | some r => let (x, d, s) := a.2.selectCam c r; (a.1 ++ [some (r, x, d)], s)) ([], s)
  have vox := s.ownVoxels
  have lids := (List.range 8).map (fun l => (s.lidRec l).map (fun r => (s.lidSample l r, vox.filter (fun v => v.key / 2 ^ 45 % 8 == l))))
  -- the side digest of R412
  have psets := cams.flatMap (fun x => match x with
     | some (_, x, _) => (match x.set with
       | some (_, st) => if x.cause = 0 then fitLen 64 st.pset else List.replicate 64 0
       | none => List.replicate 64 0)
     | none => List.replicate 64 0)
  have used := sortBy s.sieve.used (fun a b => decide (a.1 ≤ b.1))
  have s := { s with emit := { s.emit with side := shake256 (psets ++ used.flatMap (fun (m : Nat × List Byte) => m.2)) 32 } }
  have s := s.absorb 3 (1024 + 40 * used.length)
  have s := s.closeGen (s.curBell + 1)
  have s := (List.range 8).foldl (fun (s : State) l =>
     match (lids[l]?).getD none with
     | some (x, vs) =>
       have s := if x.cause = 0 then s else s.send (srcSieve l) .LID_SAMPLE_VOID (l * 2 ^ 37 + x.cause * 2 ^ 32 + s.curBell % 2 ^ 32)
       have t := truncated bs l (if x.cause = 0 then vs.length else 0)
       if t = 0 then s else s.send srcIngest .VOX_TRUNC (l * 2 ^ 37 + satU 37 t)
     | none => s) s
  have es := (List.range 16).map (fun c => match (cams[c]?).getD none with
       | some (r, x, _) => s.camEntry c r x
       | none => absentEntry c) ++
    (List.range 8).map (fun l => match (lids[l]?).getD none with
      | some (x, vs) => lidEntry l x vs.length free (truncated bs l (if x.cause = 0 then vs.length else 0) != 0)
      | none => absentEntry (16 + l))
  have s := es.foldl (fun (s : State) e =>
     have f := leAt e 1 1
     have s := if bitAt f 0 && bitAt f 7 then
         (s.addCard 2 (leAt e 0 1) 0 (leBytes 1 (leAt e 2 1) ++ leBytes 1 f ++ leBytes 2 (leAt e 4 2))).tally F.SVE_INGEST_VOID 1
       else s
     if bitAt f 1 then s.tally F.SVE_INGEST_REUSED 1 else s) s
  have s := { s with emit := { s.emit with entries := es.flatMap id } }
  have s := s.ingestTile (s.recLe recFusion 48 2 % 4096) 0 [] false (es.flatMap id)
  have s := cams.foldl (fun (s : State) x => match x with
     | some (r, x, d) => s.levelStreams r x d
     | none => s) s
  bs.foldl (fun (s : State) b =>
    (List.range (leAt b 1 1)).foldl (fun (s : State) k =>
      have src := leAt b (16 + k) 1
      if leAt b 0 1 = 0 then
        match (cams[src]?).getD none with
        | some (r, x, d) => s.camSlot b k x r d
        | none => s
      else
        match (lids[src]?).getD none with
        | some (x, vs) => s.lidSlot b k x vs free
        | none => s) s) s

/-- BATCH_READY_DEADLINE (R270): at READY, `late` names the first tile not written; it and the later ones are void tiles. -/
def execBatchReadyDeadline (batch : Fin 32) (late : Option (BitVec 12)) (s : State) : Host.Outcome State Fault Refusal :=
  match s.batches[batch.val]? with
  | none => .next s
  | some b =>
    if !s.bell.running || decide (s.pstate = .halt) then .next s
    else
      have s := s.advanceTo (s.bell.start + 2 * leAt b 32 4)
      match late with
      | none => .next s
      | some i =>
        have n := leAt b 1 1 * batchSlotTiles b
        if n ≤ i.toNat then .next s
        else
          have s := (List.range (n - i.toNat)).foldl (fun (s : State) j => s.ingestTile (batchStream b) (i.toNat + j) [] true []) s
          .next ((s.bump F.SVE_INGEST_LATE 1).send srcIngest .INGEST_LATE (batchStream b * 2 ^ 28 + i.toNat * 2 ^ 16 + 0x1000))

end Sys2Proof.Machine
end

