-- ==== Sys2Proof/Machine/Restart.lean ====
section
/-! DEFINITION. What a start keeps: stores, fuses, and the world outside (16, 17; R13, R465). -/

namespace Sys2Proof.Machine
open Sys2Proof
set_option Elab.async false

/-- Registers whose content is fused: life cycle and grade, key slots, anti-rollback, provisional ID, MAC (R423 to R429, R501, R507). -/
def fuseFlds : List Fld :=
  [F.SEC_STATUS_LC, F.SEC_STATUS_GRADE, F.SEC_KEYS_STATE0, F.SEC_KEYS_STATE1, F.SEC_KEYS_STATE2, F.SEC_KEYS_STATE3, F.SEC_ARB_COUNTER,
   F.I3C_PID_LO_PID, F.I3C_PID_HI_PID, F.ETH_MAC_LO_MAC, F.ETH_MAC_HI_MAC]

/-- Bytes of the boot and model stores: what OFF keeps of the memories. -/
def storeCells (m : List Host.Cell) : List Host.Cell := m.filter (fun p => decide (0x90000000000 ≤ p.1) && decide (p.1 < 0xB0000000000))

/-- The part at reset alignment: everything at its reset value but the stores, the fuses and the flags of the always-on domain; a
life-cycle state written since the last start is in force (R424). -/
def State.restart (s : State) : State :=
  have r : State := { State.reset with pending := s.pending, sent := s.sent, freeCount := s.freeCount, mem := storeCells s.mem }
  have r := { r with sec := { Sec.reset with keys := s.sec.keys, seed := s.sec.seed, half := s.sec.half, tampers := s.sec.tampers },
                     pw := { Pw.reset with clkLoss := s.pw.clkLoss } }
  have r := fuseFlds.foldl (fun (r : State) f => r.wf f (s.rf f)) r
  match s.sec.nextLc with
  | some lc => r.wf F.SEC_STATUS_LC lc
  | none => r

/-- Abnos is in OFF: no supply, every output off (Table 17-6). -/
def State.turnOff (s : State) : State := { s.restart with pstate := .off }

/-- Record every pending message at once: the collector takes one each 5.15 µs (R339), much less than a step of a start-up. -/
def State.settleN (s : State) : Nat → State
  | 0 => s
  | n + 1 => s.faultRecord.settleN n

def State.settle (s : State) : State := s.settleN s.coll.pend.length

end Sys2Proof.Machine
end

