-- ==== Sys2Proof/Machine/Security.lean ====
section
/-! DEFINITION. The security block and the phase checker (15, R407, R408, R422 to R436). -/

namespace Sys2Proof.Machine
open Sys2Proof
set_option Elab.async false

/-- PHASE_MISMATCH (R408): a divider counter is out of step; in every state except OFF and PARK. Clock as in Table 15-7. -/
def execPhaseMismatch (clock : Fin 6) (s : State) : Host.Outcome State Fault Refusal :=
  if s.pstate = .off ∨ s.parked then .next s
  else .next ((s.wf F.CLK_STATUS_PHASE_ERR 1).send srcShk .PHASE_ALIGN (clock.val * 2 ^ 36))

/-! ### Life cycle and keys -/

/-- JTAG is open by the life cycle alone (Table 15-3). -/
def lcOpen (lc : Nat) : Bool := lc == 1 || lc == 2 || lc == 4

/-- End a debug unlock (R423, R432, R475). -/
def State.endUnlock (s : State) : State :=
  have s := { s with sec := { s.sec with scope := 7 } }
  (s.wf F.SEC_STATUS_UNLOCKED 0).wf F.SEC_STATUS_JTAG (if lcOpen (s.rf F.SEC_STATUS_LC) then 1 else 0)

/-- A security command ends (R436). -/
def State.secDone (s : State) (code : Nat) : State :=
  ((s.wf F.SEC_RESULT_CODE code).wf F.SEC_RESULT_DONE 1).wf F.SEC_STATUS_BUSY 0

/-- A signing ends: reported to who asked for it (R430, R431, R510). -/
def State.signEnd (s : State) (code len : Nat) : State :=
  match s.sec.signing with
  | none => s
  | some (by', t0, _) =>
    have s := { s with sec := { s.sec with signing := none } }
    have s := (s.wf F.SHK_STATUS_SIGNING 0).wf F.SHK_SIGN_US_US ((s.now - t0) / 400)
    have s := s.send srcSec .ATTEST (code * 2 ^ 36)
    if by' = 0 then s.secDone code
    else
      match s.i3c.running with
      | some (op, tag, _, _) =>
        have s := { s with i3c := { s.i3c with running := none } }
        have s := (((s.wf F.I3C_RESP_CODE (if code = 0 then 0 else 4)).wf F.I3C_RESP_TAG tag).wf F.I3C_RESP_DONE 1).wf F.I3C_RESP_BUSY 0
        if op = 9 then s.wf (F.I3C_RET_RET 0) (if code = 0 then len else code) else s
      | none => s

/-- Wipe the locket (R194): a signing under way ends with code 5. -/
def State.wipeLocket (s : State) : State :=
  have s := s.zeroRange (keyLocket 0) (keyLocket 0x40000)
  have s := (s.wf F.SEC_STATUS_KEYS 0)
  s.signEnd 5 0

/-- State of key slot k: 0 empty, 1 programmed, 2 revoked. -/
def keyFld (k : Nat) : Fld :=
  if k = 0 then F.SEC_KEYS_STATE0 else if k = 1 then F.SEC_KEYS_STATE1 else if k = 2 then F.SEC_KEYS_STATE2 else F.SEC_KEYS_STATE3

def State.keyState (s : State) (k : Nat) : Nat := s.rf (keyFld k)

/-- The programmed and unrevoked slot among `slots` that a public key hashes to (R425, R426). -/
def State.keySlot (s : State) (pk : List Byte) (slots : List Nat) : Option Nat :=
  have h := shake256 pk 32
  slots.find? (fun k => s.keyState k == 1 && (s.sec.keys[k]?).getD [] == h)

/-- Image keys the life cycle accepts (Table 15-3). -/
def imageKeys (lc : Nat) : List Nat :=
  if lc = 1 then [0] else if lc = 2 then [0, 2, 3] else if lc = 3 then [2, 3] else if lc = 4 then [1] else []

/-- Key of a byte of the SEC command buffer: library from word SEC_BUF.WORD (R436). -/
def State.secBuf (s : State) (off : Nat) : Nat := keyLib (64 * s.rf F.SEC_BUF_WORD + off)

def State.idPub (s : State) : List Byte := (List.range 16).flatMap (fun i => leBytes 4 (s.rf (F.SEC_IDPUB_WORD i)))
def State.man (s : State) : List Byte := (List.range 8).flatMap (fun i => leBytes 4 (s.rf (F.SEC_MANIFEST_WORD i)))
def State.wdig (s : State) : List Byte := (List.range 8).flatMap (fun i => leBytes 4 (s.rf (F.SEC_WDIG_WORD i)))
def State.challenge (s : State) : List Byte := (List.range 8).flatMap (fun i => leBytes 4 (s.rf (F.SEC_CHALLENGE_WORD i)))

/-- SEC_CHALLENGE for the current attempt (R432). -/
def State.newChallenge (s : State) : State :=
  have c := shake256 (s.sec.chal ++ leBytes 4 (s.rf F.FLT_BOOTS_BOOTS) ++ leBytes 4 (s.rf F.SEC_ATTEMPT_ATTEMPT)) 32
  (List.range 8).foldl (fun s i => s.wf (F.SEC_CHALLENGE_WORD i) (leAt c (4 * i) 4)) s

/-- Submit the token in the command buffer: the code of the first check it fails, or 0, and the advanced attempt (R432). -/
def State.token (s : State) (typ : Nat) (slots : List Nat) : Nat × State :=
  have t := s.rdN (s.secBuf 0) 29936
  have pk := (t.drop 80).take 64
  have bootsOk := decide (leAt t 4 4 = s.rf F.FLT_BOOTS_BOOTS) && ((t.drop 8).take 32 == s.challenge) &&
    ((t.drop 40).take 32 == shake256 s.idPub 32)
  have code :=
    if !s.flag F.SEC_STATUS_KEYS ∨ s.flag F.OCM_STATUS_LOCKET_BAD then 5
    else if leAt t 0 1 ≠ 1 ∨ leAt t 1 1 ≠ typ then 7
    else if !bootsOk then 4
    else if (s.keySlot pk slots).isNone then 3
    else if Config.slhVerify pk (t.take 144) (t.drop 144) then 0 else 2
  have s := (s.wf F.SEC_ATTEMPT_ATTEMPT (s.rf F.SEC_ATTEMPT_ATTEMPT + 1)).newChallenge
  (code, if code = 2 then s.send srcSec .SIG_FAIL (2 * 2 ^ 36 + ((s.keySlot pk slots).getD 0) * 2 ^ 34) else s)

/-- ARG of the token in the command buffer. -/
def State.tokenArg (s : State) : Nat := (s.rd (s.secBuf 2)).toNat

/-- A command written to SEC_CMD: CP0 in machine mode only; code 6 while another runs (R436). -/
def State.secCmd (s : State) (req : Requester) (mmode : Bool) (f : State → State) : State :=
  s.cmdWrite req A.SEC_CMD (fun s =>
    if !cp0m req mmode then s.deny req A.SEC_CMD
    else if s.flag F.SEC_STATUS_BUSY then (s.wf F.SEC_RESULT_CODE 6).wf F.SEC_RESULT_DONE 1
    else f s)

/-! ### Attestation (R430, R431) -/

/-- Latest hallmark of a stream: its bell and digest; bell 0 and zeros before the first. -/
def State.latestHall (s : State) (stream : Nat) : Nat × List Byte :=
  ((s.sec.halls.find? (fun h => h.1 == stream)).map (fun h => h.2)).getD (0, List.replicate 32 0)

/-- Bytes of the report before the signature (Table 15-5). -/
def State.report (s : State) (nonce : List Byte) (streams : List Nat) : List Byte :=
  have flags := (if s.flag F.SEC_STATUS_UNLOCKED then 1 else 0) + (if s.freeRunning then 2 else 0) + (if s.pstate = .safe then 4 else 0) +
    (if s.replay.isSome then 8 else 0)
  leBytes 1 1 ++ leBytes 1 (s.rf F.SEC_STATUS_LC) ++ leBytes 1 flags ++ leBytes 1 (s.rf F.SEC_STATUS_GRADE) ++ leBytes 2 (s.rf F.CHIP_ID_STEP) ++
    leBytes 1 1 ++ leBytes 1 0 ++ leBytes 4 (s.rf F.FLT_BOOTS_BOOTS) ++ leBytes 1 (s.rf F.SEC_ARB_COUNTER) ++ leBytes 1 (s.rf F.SEC_ARB_SVN) ++
    leBytes 1 (s.rf F.BOOT_STATUS_SLOT) ++ leBytes 1 0 ++ leBytes 4 (s.rf F.BOOT_SEQ_LO_SEQ) ++ leBytes 4 (s.rf F.BOOT_SEQ_HI_SEQ) ++
    leBytes 4 (s.rf F.TST_CONTENT_CONTENT_ID) ++ leBytes 2 (satU 16 s.sec.tampers) ++ leBytes 2 0 ++ s.man ++ s.wdig ++ nonce ++
    leBytes 8 s.curBell ++ leBytes 6 s.tsu.sec ++ leBytes 4 s.tsu.ns ++ leBytes 1 streams.length ++ List.replicate 45 0 ++ s.idPub ++
    streams.flatMap (fun x => have h := s.latestHall x; leBytes 2 x ++ leBytes 6 0 ++ leBytes 8 h.1 ++ h.2)

/-- Start an attestation from a request of NONCE, COUNT and stream IDs; answers the code of a refusal (R431). -/
def State.attest (s : State) (by' : Nat) (rq : List Byte) : Nat × State :=
  have n := leAt rq 32 1
  have streams := (List.range n).map (fun i => leAt rq (36 + 2 * i) 2 % 4096)
  have code :=
    if s.sec.signing.isSome then 6
    else if !s.flag F.SEC_STATUS_KEYS ∨ s.flag F.OCM_STATUS_LOCKET_BAD then 5
    else if 8 < n ∨ streams.any (fun x => !bitAt (s.streamAttr x) 3) then 7 else 0
  if code = 0 then
    (0, { s with sec := { s.sec with signing := some (by', s.now, s.report (rq.take 32) streams) } }.wf F.SHK_STATUS_SIGNING 1)
  else (code, s.send srcSec .ATTEST (code * 2 ^ 36))

/-- SEC_ATTEST (R430, R431). -/
def execSecAttest (req : Requester) (mmode : Bool) (s : State) : Host.Outcome State Fault Refusal :=
  .next (s.secCmd req mmode (fun s =>
    let (code, s) := s.attest 0 (s.rdN (s.secBuf 0) 52)
    if code = 0 then s.wf F.SEC_STATUS_BUSY 1 else s.secDone code))

/-- Key of the I3C command buffer (R510): the OUTPUT record's, or the library's last 64 KiB before one is loaded. -/
def State.i3cBuf (s : State) (off : Nat) : Nat :=
  match s.image.find? (fun r => r.typ == recOutput) with
  | some r => ((s.addrKey (leAt r.bytes 44 5)).getD (keyLib 0x7FF0000)) + off
  | none => keyLib (0x7FF0000 + off)

/-- SIGNING_DONE (R421, R430): after `dt` TIME edges the signature is there and the report is written to the command buffer. -/
def execSigningDone (dt : Nat) (s : State) : Host.Outcome State Fault Refusal :=
  match s.sec.signing with
  | none => .next s
  | some (by', _, r) =>
    have s := s.advance dt
    have sk := s.rdN (keyLocket 0) 128
    have rep := r ++ fitLen 49856 (Config.slhSign sk r)
    have s := s.wrN (if by' = 0 then s.secBuf 0 else s.i3cBuf 0) rep
    .next (s.signEnd 0 rep.length)

/-! ### Debug unlock, life cycle, owner keys (R423 to R425, R432) -/

/-- UNLOCK (R432): in FIELD and MAINT, with a token of TYPE 1 signed by an owner key. -/
def execUnlock (req : Requester) (mmode : Bool) (s : State) : Host.Outcome State Fault Refusal :=
  .next (s.secCmd req mmode (fun s =>
    have arg := s.tokenArg
    have bad := decide (s.pstate ≠ .maint) || s.rf F.SEC_STATUS_LC != 3
    let (code, s) := s.token 1 [2, 3]
    have code := if bad then 1 else code
    have s := s.send srcSec .UNLOCK (code * 2 ^ 36 + s.rf F.SEC_ATTEMPT_ATTEMPT)
    have s := if code = 0 then
        { s with sec := { s.sec with scope := arg % 8 } }.wf F.SEC_STATUS_UNLOCKED 1 |>.wf F.SEC_STATUS_JTAG 1
      else s
    s.secDone code))

/-- Token keys of a transition (Table 15-4); none when it is not listed. -/
def transKeys (from' to' : Nat) : Option (List Nat) :=
  if from' = 1 ∧ (to' = 2 ∨ to' = 3) then some [0]
  else if from' = 2 ∧ to' = 3 then some [2, 3]
  else if from' = 2 ∧ to' = 4 then some [0, 2, 3]
  else if from' = 3 ∧ to' = 4 then some [2, 3] else none

/-- LC_TRANSITION (R423, R424): the unlock ends, the locket is wiped, the fuses are written; the new state counts from the next start. -/
def execLcTransition (req : Requester) (mmode : Bool) (s : State) : Host.Outcome State Fault Refusal :=
  .next (s.secCmd req mmode (fun s =>
    have lc := s.rf F.SEC_STATUS_LC
    have to' := s.tokenArg
    have ks := transKeys lc to'
    let (code, s) := s.token 2 (ks.getD [])
    have code :=
      if s.pstate ≠ .maint ∨ ks.isNone ∨ (to' = 3 ∧ s.rf F.SEC_STATUS_GRADE = 2) then 1
      else if to' = 3 ∧ s.keyState 2 ≠ 1 ∧ s.keyState 3 ≠ 1 then 3 else code
    have s := s.send srcSec .LC_EVENT (code * 2 ^ 36 + lc * 2 ^ 32 + to' % 16 * 2 ^ 28)
    have s := if code = 0 then
        have s := s.endUnlock.wipeLocket
        { s with sec := { s.sec with nextLc := some to', tampers := 0 } }
      else s
    s.secDone code))

/-- Program an owner slot from a public key. -/
def State.programKey (s : State) (k : Nat) (pk : List Byte) : State :=
  { s with sec := { s.sec with keys := s.sec.keys.set k (shake256 pk 32) } }.wf (keyFld k) 1

/-- OWNER_KEY (R425): DEVELOP programs an empty owner slot; FIELD needs a token of the other owner slot, which also revokes. -/
def execOwnerKey (req : Requester) (mmode : Bool) (s : State) : Host.Outcome State Fault Refusal :=
  .next (s.secCmd req mmode (fun s =>
    have lc := s.rf F.SEC_STATUS_LC
    if lc = 2 then
      match [2, 3].find? (fun k => s.keyState k == 0) with
      | some k => (s.programKey k (s.rdN (s.secBuf 0) 64)).secDone 0
      | none => s.secDone 3
    else if lc = 3 then
      have arg := s.tokenArg
      have k := arg % 4
      let (code, s) := s.token 3 [5 - k]
      if k < 2 then s.secDone 7
      else if code ≠ 0 then s.secDone code
      else if bitAt arg 2 then (if s.keyState k = 1 then (s.wf (keyFld k) 2).secDone 0 else s.secDone 3)
      else if s.keyState k = 0 then (s.programKey k (s.rdN (s.secBuf 29936) 64)).secDone 0 else s.secDone 3
    else s.secDone 1))

/-! ### Anti-rollback (R427, R428) -/

/-- Begin the next step: first the second fuse of a step that power loss cut, then steps up to the running SVN. -/
def State.arbNext (s : State) : State :=
  if !s.sec.half.isEmpty || decide (s.rf F.SEC_ARB_COUNTER < s.rf F.SEC_ARB_SVN) then
    { s with sec := { s.sec with arb := some (s.now + 800000) } }.wf F.SEC_STATUS_BUSY 1
  else s.secDone 0

/-- ADVANCE_ARB (R428). -/
def execAdvanceArb (req : Requester) (mmode : Bool) (s : State) : Host.Outcome State Fault Refusal :=
  .next (s.secCmd req mmode (fun s => if s.pstate = .maint then s.arbNext else s.secDone 1))

/-- One step is burnt: both of its fuses. -/
def State.arbBurn (s : State) : State :=
  have s := { s with sec := { s.sec with arb := none } }
  match s.sec.half with
  | _ :: r => { s with sec := { s.sec with half := r } }
  | [] => s.bump F.SEC_ARB_COUNTER 1

/-- ARB_STEP_DONE (R428): after its 2 ms the step is burnt and the next one starts. -/
def execArbStepDone (s : State) : Host.Outcome State Fault Refusal :=
  match s.sec.arb with
  | none => .next s
  | some t => .next (s.advanceTo t).arbBurn.arbNext

/-! ### Tamper, locket, factory (R193, R423, R433) -/

/-- TAMPER_TRIP (R433, R438): monitor 0 enclosure, 1 voltage, 2 clock. -/
def execTamperTrip (monitor : Fin 3) (s : State) : Host.Outcome State Fault Refusal :=
  if s.pstate = .off then .next s
  else
    have m := monitor.val
    have s := s.bump (if m = 0 then F.SEC_TAMPER_ENCLOSURE else if m = 1 then F.SEC_TAMPER_VGLITCH else F.SEC_TAMPER_CGLITCH) 1
    have s := { s with sec := { s.sec with enclosure := s.sec.enclosure || m == 0 } }
    .next (((s.wf F.SEC_STATUS_TAMPER 1).wipeLocket).send srcSec .TAMPER (m * 2 ^ 36))

/-- A read of SEC_LKT_DATA (R193, R436, R552): only CP0 in machine mode (and the debugger in its place, R373) reads words 0x4000 to
0x5FFF; the I3C window reads 0; anything else gets an error response and OCM_ACCESS. -/
def State.locketRead (s : State) (req : Requester) (mmode : Bool) : State :=
  if !s.regAnswers A.SEC_LKT_DATA then s.busError req
  else if req = .i3c then s.out (.bus req false (leBytes 4 0))
  else
    have w := s.rf F.SEC_LKT_ADDR_WORD
    if (cp0m req mmode || decide (req = .dbg)) && decide (0x4000 ≤ w) && decide (w ≤ 0x5FFF) then
      (s.out (.bus req false (s.rdN (keyLocket (4 * w)) 4))).wf F.SEC_LKT_ADDR_WORD (w + 1)
    else (s.ocmAccess req 3 4 (4 * w)).busError req

/-- LOCKET_DATA_READ (R193, R436, R552). -/
def execLocketDataRead (req : Requester) (mmode : Bool) (s : State) : Host.Outcome State Fault Refusal := .next (s.locketRead req mmode)


/-- FACTORY_JTAG_TRANSITION (R422, R423): the factory tester moves a BLANK device to FACTORY_TEST; the operands are the fuses it holds
from manufacture (grade, serial number, base MAC, seed, KEY0 and KEY1 digests). -/
def execFactoryJtagTransition (grade : Fin 3) (serial : BitVec 14) (mac : BitVec 48) (seed key0 key1 : List Byte) (s : State) :
    Host.Outcome State Fault Refusal :=
  if s.pstate = .off ∨ s.rf F.SEC_STATUS_LC ≠ 0 ∨ s.sec.nextLc.isSome then .next s
  else
    have s := s.wipeLocket
    have s := { s with sec := { s.sec with nextLc := some 1, seed := seed, keys := [key0, key1, [], []] } }
    have s := ((s.wf F.SEC_STATUS_GRADE grade.val).wf (keyFld 0) 1).wf (keyFld 1) 1
    have s := (s.wf F.I3C_PID_LO_PID (0x7264 * 2 ^ 16 + serial.toNat)).wf F.I3C_PID_HI_PID 0x973A
    .next ((s.wf F.ETH_MAC_LO_MAC (mac.toNat % 2 ^ 32)).wf F.ETH_MAC_HI_MAC (mac.toNat / 2 ^ 32))

end Sys2Proof.Machine
end

