-- ==== Sys2Proof/Machine/Image.lean ====
section
/-! DEFINITION. Stores, slots, manifest and slot checks of the configuration image (16, R439 to R450). -/

namespace Sys2Proof.Machine
open Sys2Proof
set_option Elab.async false

/-- Bytes of a boot part and of a model part (Table 16-1). -/
def bootPart : Nat := 0x3000000
def modelPart : Nat := 0x800000000

/-- Key of a byte of slot d's boot part or model part (R439). -/
def bootKey (d off : Nat) : Nat := keyBoot d off
def modelKey (d off : Nat) : Nat := keyModel (d * modelPart + off)

/-- ASCII "ABNOSSLT" and "ABNOSMAN" (Tables 16-2, 16-4). -/
def magicSlot : List Byte := [0x41, 0x42, 0x4E, 0x4F, 0x53, 0x53, 0x4C, 0x54]
def magicMan : List Byte := [0x41, 0x42, 0x4E, 0x4F, 0x53, 0x4D, 0x41, 0x4E]

def markW : Nat := 0x0000A5C3
def markC : Nat := 0x00003C5A
def erasedWord : Nat := 0xFFFFFFFF

/-- Slot state by its words (Table 16-3): 0 ERASED, 1 WRITING, 2 COMPLETE, 3 REJECTED, 4 INVALID. -/
def slotState (w c r : Nat) : Nat :=
  if r ≠ erasedWord then 3
  else if w = erasedWord ∧ c = erasedWord then 0
  else if w = markW ∧ c = erasedWord then 1
  else if w = markW ∧ c = markC then 2
  else 4

def State.slotSt (s : State) (d : Nat) : Nat :=
  slotState (s.rdLe (bootKey d 0x1000) 4) (s.rdLe (bootKey d 0x1004) 4) (s.rdLe (bootKey d 0x1008) 4)

/-- Program bytes: programming only clears bits (R441). -/
def State.program (s : State) (k : Nat) (bs : List Byte) : State :=
  s.wrN k (List.zipWith (fun (a b : Byte) => a &&& b) bs (s.rdN k bs.length))

/-- R is programmed when a load of the slot is refused (R441); its mark is not given, so every bit is cleared. -/
def State.rejectSlot (s : State) (d : Nat) : State := s.program (bootKey d 0x1008) (leBytes 4 0)

/-- Slot header (Table 16-2). -/
def State.slotHdr (s : State) (d : Nat) : List Byte := s.rdN (bootKey d 0) 64
def hdrSeq (h : List Byte) : Nat := leAt h 16 8
def hdrManLen (h : List Byte) : Nat := leAt h 28 4
def hdrSigOff (h : List Byte) : Nat := leAt h 32 4
/-- The manifest bytes of a slot (R442). -/
def State.manBytes (s : State) (d : Nat) : List Byte := s.rdN (bootKey d 0x2000) (hdrManLen (s.slotHdr d))

/-- A manifest entry (Table 16-5). -/
structure ManEnt where
  typ : Nat
  major : Nat
  flags : Nat
  idx : Nat
  off : Nat
  len : Nat
  elem : Nat
  count : Nat
  dest : Nat
  dig : List Byte
  deriving DecidableEq, Repr

def parseEnt (b : List Byte) : ManEnt :=
  { typ := leAt b 0 2, major := leAt b 2 1, flags := leAt b 4 1, idx := leAt b 6 2, off := leAt b 8 8, len := leAt b 16 8,
    elem := leAt b 24 4, count := leAt b 28 4, dest := leAt b 32 8 % 2 ^ 40, dig := (b.drop 48).take 32 }

def ManEnt.inModel (e : ManEnt) : Bool := bitAt e.flags 1
def ManEnt.mandatory (e : ManEnt) : Bool := bitAt e.flags 0

def manRecords (m : List Byte) : Nat := leAt m 10 2
def manSvn (m : List Byte) : Nat := leAt m 24 1
def manResident (m : List Byte) : Nat := leAt m 32 8
def manEntries (m : List Byte) : List ManEnt := (List.range (manRecords m)).map (fun i => parseEnt ((m.drop (64 + 80 * i)).take 80))

/-- Element size and part (true: model) of each known record type (Table 16-6). -/
def knownTypes : List (Nat × Nat × Bool) :=
  [(0x0001, 128, false), (0x0002, 1, false), (0x0003, 1, false), (0x0004, 1, false), (0x0010, 2320, false), (0x0011, 16, false),
   (0x0012, 32, false), (0x0013, 32, false), (0x0014, 1, false), (0x0015, 48, false), (0x0016, 128, false), (0x0017, 32, false),
   (0x0018, 16, false), (0x0020, 48, false), (0x0021, 1, false), (0x0022, 32, false)] ++
  [(0x0023, 64, false), (0x0024, 32, false), (0x0025, 16, false), (0x0026, 64, false), (0x0027, 8, false), (0x0028, 32, false),
   (0x0029, 16, false), (0x002A, 1, false), (0x0030, 64, false), (0x0031, 64, false), (0x0032, 1, true), (0x0040, 144, false)] ++
  [(0x0041, 1, false), (0x0042, 8, false), (0x0043, 64, false), (0x0044, 64, false), (0x0050, 128, false), (0x0051, 64, false),
   (0x0052, 48, false), (0x0060, 64, false), (0x0080, 1, true), (0x0081, 1, true), (0x0082, 393216, true)]

def knownElem (typ : Nat) : Option Nat := (knownTypes.find? (fun k => k.1 == typ)).map (fun k => k.2.1)

/-- Abnos reads this entry: its TYPE and MAJOR are known (R444). -/
def ManEnt.known (e : ManEnt) : Bool := (knownElem e.typ).isSome && e.major == 1

/-- An entry that makes the slot unusable by its version (R444). -/
def ManEnt.unusable (e : ManEnt) : Bool :=
  if e.known then decide (e.elem < (knownElem e.typ).getD 0) else e.mandatory

/-- First and end byte of a record in its part. -/
def ManEnt.lies (e : ManEnt) (boot0 : Nat) : Bool :=
  e.off % 64 == 0 && e.len == e.elem * e.count &&
    (if e.inModel then decide (e.off + e.len ≤ modelPart) else decide (boot0 ≤ e.off) && decide (e.off + e.len ≤ bootPart))

/-- Two records of one part overlap. -/
def ManEnt.clash (a b : ManEnt) : Bool := a.inModel == b.inModel && decide (a.off < b.off + b.len) && decide (b.off < a.off + a.len)

/-- Ascending (TYPE, INDEX) order without repeats. -/
def entsRise : List ManEnt → Bool
  | a :: b :: r => decide (a.typ * 65536 + a.idx < b.typ * 65536 + b.idx) && entsRise (b :: r)
  | _ => true

/-- No two entries of a list overlap. -/
def entsApart : List ManEnt → Bool
  | [] => true
  | a :: r => r.all (fun b => !a.clash b) && entsApart r

/-- Entries keep R443 and R444; the first that breaks them, for IMG_REJECT. -/
def entsBad (l : List ManEnt) (boot0 resident : Nat) : Option (Nat × Nat) :=
  match l.find? (fun e => e.unusable || !e.lies boot0) with
  | some e => some (e.typ, e.idx)
  | none =>
    if entsRise l && entsApart l && decide ((l.filter (fun e => e.inModel)).foldl (fun n e => n + e.len) 0 = resident) then none
    else some (0, 0)

/-- Key slots and signature: the key slot whose key the slot carries, and whether the signature is valid (R426). -/
def State.slotSig (s : State) (d : Nat) : Option Nat × Bool :=
  have h := s.slotHdr d
  have b := s.rdN (bootKey d (hdrSigOff h)) 29856
  have pk := b.take 64
  have k := s.keySlot pk (imageKeys (s.rf F.SEC_STATUS_LC))
  (k, k.isSome && Config.slhVerify pk (s.manBytes d) (b.drop 64))

/-- Ordering-code bit of GRADES for SEC_STATUS.GRADE. -/
def State.gradeOk (s : State) (m : List Byte) : Bool := bitAt (leAt m 26 1) (s.rf F.SEC_STATUS_GRADE)

/-- check_slot (R450) without the state test: 0, or the IMG_REJECT cause with TYPE and INDEX of the entry concerned. -/
def State.checkBody (s : State) (d : Nat) : Nat × Nat × Nat :=
  have h := s.slotHdr d
  have m := s.manBytes d
  if h.take 8 ≠ magicSlot ∨ leAt h 8 1 ≠ 1 ∨ leAt h 60 4 ≠ crc32c (h.take 60) then (2, 0, 0)
  else if m.take 8 ≠ magicMan ∨ leAt m 8 1 ≠ 1 ∨ leAt m 12 4 ≠ hdrManLen h ∨ leAt m 12 4 ≠ 64 + 80 * manRecords m ∨
      leAt m 25 1 ≠ 1 ∨ leAt m 28 2 ≠ 0x3042 then (5, 0, 0)
  else if leAt m 16 8 ≠ hdrSeq h then (5, 0, 0)
  else if !s.gradeOk m then (5, 0, 0)
  else match entsBad (manEntries m) (hdrSigOff h + 29856) (manResident m) with
    | some (t, i) => (5, t, i)
    | none =>
      if !(s.slotSig d).2 then (3, 0, 0)
      else if manSvn m < s.rf F.SEC_ARB_COUNTER then (4, 0, 0)
      else (0, 0, 0)

/-- check_slot (R450). -/
def State.checkSlot (s : State) (d : Nat) : Nat × Nat × Nat := if s.slotSt d ≠ 2 then (1, 0, 0) else s.checkBody d

/-- IMG_REJECT (Table 16-13). -/
def State.imgReject (s : State) (d cause typ idx : Nat) : State :=
  (s.send srcSec .IMG_REJECT (d * 2 ^ 36 + cause * 2 ^ 32 + typ * 2 ^ 16 + idx)).settle

/-- Report a slot that fails check_slot: SIG_FAIL or ROLLBACK of its cause (R426, R427), and IMG_REJECT unless it is ERASED (R450). -/
def State.reportSlot (s : State) (d : Nat) : State :=
  let (c, t, i) := s.checkSlot d
  have s := if c = 3 then (s.send srcSec .SIG_FAIL (d * 2 ^ 36 + ((s.slotSig d).1.getD 0) * 2 ^ 34)).settle
    else if c = 4 then (s.send srcSec .ROLLBACK (d * 2 ^ 36 + manSvn (s.manBytes d) % 128 * 2 ^ 7 + s.rf F.SEC_ARB_COUNTER)).settle
    else s
  if c ≠ 0 ∧ s.slotSt d ≠ 0 then s.imgReject d c t i else s

/-- Slots that pass check_slot, by SEQ descending, on equal SEQ slot A first (R450). -/
def State.slotList (s : State) : List Nat :=
  have l := [0, 1].filter (fun d => (s.checkSlot d).1 == 0)
  if l.length = 2 ∧ hdrSeq (s.slotHdr 0) < hdrSeq (s.slotHdr 1) then [1, 0] else l

/-- Bytes of a record in its part. -/
def State.entBytes (s : State) (d : Nat) (e : ManEnt) : List Byte := s.rdN (if e.inModel then modelKey d e.off else bootKey d e.off) e.len

/-- The record as Abnos reads it: the bytes it knows of each element (R444). -/
def cutElems (known elem count : Nat) (b : List Byte) : List Byte :=
  if known = elem then b else (List.range count).flatMap (fun i => (b.drop (i * elem)).take known)

def State.entRec (s : State) (d : Nat) (e : ManEnt) : ImgRec :=
  { typ := e.typ, idx := e.idx, dest := e.dest, bytes := cutElems ((knownElem e.typ).getD e.elem) e.elem e.count (s.entBytes d e) }

/-- First known record whose digest differs from its entry (R450). -/
def State.digestBad (s : State) (d : Nat) (l : List ManEnt) : Option (Nat × Nat) :=
  (l.find? (fun e => e.known && shake256 (s.entBytes d e) 32 != e.dig)).map (fun e => (e.typ, e.idx))

/-- Known records of a slot's manifest. -/
def State.slotEnts (s : State) (d : Nat) : List ManEnt := (manEntries (s.manBytes d)).filter (fun e => e.known)

/-- Records of given types only. -/
def State.slotRecs (s : State) (d : Nat) (types : List Nat) : List ImgRec :=
  ((s.slotEnts d).filter (fun e => types.contains e.typ)).map (s.entRec d)

end Sys2Proof.Machine
end

