-- ==== Sys2Proof/Machine/Rubric.lean ====
section
/-! DEFINITION. RUBRIC: plausibility rules and the proctor compare (12 R311 to R314; 14 R395, R396). -/

namespace Sys2Proof.Machine
open Sys2Proof
set_option Elab.async false

/-- A rubric record (Table 14-5). -/
structure RubRec where
  typ : Nat
  action : Nat
  stream : Nat
  recOff : Nat
  stride : Nat
  cntOff : Nat
  fieldOff : Nat
  ftype : Nat
  abs' : Bool
  recMax : Nat
  min' : F32
  max' : F32
  limit : Nat
  deriving DecidableEq, Repr

def parseRub (b : List Byte) : RubRec :=
  { typ := leAt b 0 1, action := leAt b 1 1, stream := leAt b 2 2 % 4096, recOff := leAt b 4 2, stride := leAt b 6 2, cntOff := leAt b 8 2,
    fieldOff := leAt b 10 2, ftype := leAt b 12 1, abs' := bitAt (leAt b 13 1) 0, recMax := leAt b 14 2, min' := leAt b 16 4,
    max' := leAt b 20 4, limit := leAt b 24 4 }

def State.rubRec (s : State) (r : Nat) : RubRec := parseRub (recElem (s.recBytes recRubric 0) 32 r)

/-- A field's value: an exact integer for s32 and u32, FP32 otherwise (R395). -/
inductive FieldV where
  | int (i : Int)
  | flt (x : F32)
  deriving DecidableEq, Repr

/-- An integer as an exact value. -/
def intFv (i : Int) : FVal := .fin (decide (i < 0)) i.natAbs 0

def FieldV.fv : FieldV → FVal
  | .int i => intFv i
  | .flt x => f32val x

def FieldV.absV : FieldV → FieldV
  | .int i => .int i.natAbs
  | .flt x => .flt (f32abs x)

/-- Read field type ft from its code; s16 and u16 widen to f32 exactly (R395). -/
def fieldOf (ft code : Nat) : FieldV :=
  if ft = 1 then .int (toSigned 32 code) else if ft = 2 then .int code
  else if ft = 3 then .flt (f32ofInt (toSigned 16 (code % 65536)))
  else if ft = 4 then .flt (f32ofInt ((code % 65536 : Nat) : Int)) else .flt code

def fieldSize (ft : Nat) : Nat := if 3 ≤ ft then 2 else 4

/-- Code of the field in record k. -/
def RubRec.code (r : RubRec) (pay : List Byte) (k : Nat) : Nat := leAt pay (r.recOff + k * r.stride + r.fieldOff) (fieldSize r.ftype)

/-- Field of record k, as a magnitude with ABS. -/
def RubRec.value (r : RubRec) (code : Nat) : FieldV := have v := fieldOf r.ftype code; if r.abs' then v.absV else v

/-- Above MAX or NaN. -/
def overMax (v : FieldV) (hi : F32) : Bool := decide (v.fv = .nan) || fvLt (f32val hi) v.fv

/-- Outside [MIN, MAX] or NaN. -/
def outside (v : FieldV) (lo hi : F32) : Bool := overMax v hi || fvLt v.fv (f32val lo)

/-- Magnitude of a difference: exact for integers, rounded in f32 otherwise (R395). -/
def diffV : FieldV → FieldV → FieldV
  | .int a, .int b => .int (b - a).natAbs
  | .flt a, .flt b => .flt (f32abs (f32sub b a))
  | _, v => v

/-- Violations of a failed rubric on a tile that is not void; 0 when it passes (Table 14-6). `nans` counts the NUM_NAN messages naming the
stream; `prev` is the code of field 0 in the previous released tile, when the check is not skipped. -/
def RubRec.check (r : RubRec) (pay : List Byte) (nans : Nat) (prev : Option Nat) : Nat :=
  have raw := if r.cntOff = 0xFFFF then r.recMax else leAt pay r.cntOff 4
  have n := min raw r.recMax
  have f (k : Nat) : FieldV := r.value (r.code pay k)
  have tol (v : Nat) : Nat := if r.limit < v then v else 0
  have one (b : Bool) : Nat := if b then 1 else 0
  if r.typ = 0 then tol ((List.range n).filter (fun k => outside (f k) r.min' r.max')).length
  else if r.typ = 1 then one (outside (.int raw) r.min' r.max')
  else if r.typ = 2 then tol ((List.range (n - 1)).filter (fun k => overMax (diffV (f k) (f (k + 1))) r.max')).length
  else if r.typ = 3 then
    match prev with
    | some c => one (overMax (diffV (r.value c) (f 0)) r.max')
    | none => 0
  else if r.typ = 4 then one (decide (n = 0) || outside (f (n - 1)) r.min' r.max')
  else if r.typ = 5 then tol nans else 0

/-- An STA to RUBRIC reads copy A and never sends VOID_UNEXPECTED (R38, R395). -/
def rubWord (w : Nat) : Nat := setBits (setBits w 117 117 0) 113 113 1

/-- Run one rubric. -/
def State.rubric (s : State) (n w st : Nat) (r : Nat) : State :=
  have rec' := s.rubRec r
  let (_, pay, void, s) := s.recvStream n (rubWord w) srcRubric st rec'.stream
  if void then s
  else
    have prev := if s.tst.skipCont then none else smFind s.tst.prevF r
    have s := if rec'.typ = 3 then
        have s := { s with tst := { s.tst with curF := smInsert s.tst.curF r (rec'.code pay 0) } }
        if prev.isNone then s.bump (F.TST_RUBRIC_SKIP r) 1 else s
      else s
    have v := rec'.check pay ((s.tst.nans.filter (· == rec'.stream)).length) prev
    if v = 0 then s
    else
      have s := (s.bump (F.TST_RUBRIC_FAIL r) 1).markResult rec'.stream 5 (rec'.action != 0)
      s.send srcRubric .RUBRIC_FAIL (rec'.stream * 2 ^ 28 + r % 256 * 2 ^ 20 + satU 20 v)

/-! ### Proctor compare (R311 to R313) -/

/-- A detection of a BEV tile: class, score, x, y (R128). -/
structure Det4 where
  cls : Nat
  score : F32
  x : F32
  y : F32
  deriving DecidableEq, Repr

/-- The detections of a tile; none for a malformed one, whose COUNT exceeds its records. -/
def detsOf (pay : List Byte) : Option (List Det4) :=
  have c := leAt pay 0 4
  if (pay.length - 16) / 48 < c then none
  else some ((List.range c).map (fun i =>
    have o := 16 + 48 * i
    { cls := leAt pay o 2, score := leAt pay (o + 4) 4, x := leAt pay (o + 8) 4, y := leAt pay (o + 12) 4 }))

/-- Best proctor object for a main object: its index and squared distance, ties to the lower index (R312). -/
def bestMatch (m : Det4) (ps : List Det4) (used : List Nat) (pMin : F32) (agn : Bool) : Option Nat × F32 :=
  (List.range ps.length).foldl (fun acc j =>
    match ps[j]? with
    | none => acc
    | some p =>
      if f32le pMin p.score && !used.contains j && (agn || p.cls == m.cls) then
        have dx := f32sub m.x p.x
        have dy := f32sub m.y p.y
        have d2 := f32add (f32mul dx dx) (f32mul dy dy)
        if f32lt d2 acc.2 then (some j, d2) else acc
      else acc) (none, 0x7F800000)

/-- The procedure of R312 on a record's parameters: mismatch, misses, ghosts. -/
def proctorCompare (r : List Byte) (ms ps : List Det4) : Bool × Nat × Nat :=
  have sMin : F32 := leAt r 4 4
  have pMin : F32 := leAt r 8 4
  have lim := f32mul (leAt r 12 4) (leAt r 12 4)
  have agn := bitAt (leAt r 20 1) 0
  let (used, misses) := ms.foldl (fun (acc : List Nat × Nat) m =>
    if f32le sMin m.score then
      match bestMatch m ps acc.1 pMin agn with
      | (some j, bd) => if f32le bd lim then (j :: acc.1, acc.2) else (acc.1, acc.2 + 1)
      | (none, _) => (acc.1, acc.2 + 1)
    else acc) ([], 0)
  have ghosts := ((List.range ps.length).filter (fun j => !used.contains j && ((ps[j]?).map (fun p => f32le pMin p.score)).getD false)).length
  (decide (leAt r 16 2 < misses) || decide (leAt r 18 2 < ghosts), misses, ghosts)

/-- Set CONTESTED in the headers of a stream's tiles, copy A (R313). -/
def State.contestTiles (s : State) (stream : Nat) : State :=
  let (ks, len) := s.streamTiles stream false
  ks.foldl (fun s k =>
    have h := parseHdr (s.rdN k 32)
    s.store k ({ h with flags := h.flags ||| flContested }.bytes (s.rdN (k + 32) len))) s

/-- The test requests of R313. -/
def State.contestRequests (s : State) (cores main proc : Nat) : State :=
  have s := ((List.range 64).filter (bitAt cores)).foldl (fun (s : State) n =>
     (s.request { kind := 0, target := s.phys n, detect := false }).request { kind := 1, target := s.phys n, detect := false }) s
  ((List.range 4).filter (fun u => s.tt.produced.contains (main, srcDetect u) || s.tt.produced.contains (proc, srcDetect u))).foldl
    (fun (s : State) u => s.request { kind := 2, target := u, detect := true }) s

/-- Run a proctor compare record (R312, R313). -/
def State.proctor (s : State) (n w st i : Nat) : State :=
  have r := recElem (s.recBytes recProctor 0) 32 i
  have main := leAt r 0 2 % 4096
  have proc := leAt r 2 2 % 4096
  let (_, mp, mv, s) := s.recvStream n (rubWord w) srcRubric st main
  let (_, pp, pv, s) := s.recvStream n (rubWord w) srcRubric st proc
  if mv then s
  else
    let (bad, misses, ghosts) :=
      if pv then (true, 0, 0)
      else match detsOf mp, detsOf pp with
        | some ms, some ps => proctorCompare r ms ps
        | _, _ => (true, 0, 0)
    if !bad then s
    else
      have s := (s.contestTiles main).markResult main 6 true
      have s := s.send srcRubric .PROCTOR_MISMATCH (main * 2 ^ 28 + satU 12 misses * 2 ^ 16 + satU 12 ghosts * 2 ^ 4)
      s.contestRequests (leAt r 24 8) main proc

/-- Records a detection stream's tile holds. -/
def State.detCap (s : State) (stream : Nat) : Nat :=
  let (ks, len) := s.streamTiles stream false
  (ks.length * len - 16) / 48

/-- Duration of a RUBRIC command (R396). -/
def State.rubricCycles (s : State) (w : Nat) : Nat :=
  have first := insArg w 39 24
  if bitAt w 15 then
    have r := recElem (s.recBytes recProctor 0) 32 first
    64 + ceilDiv (s.detCap (leAt r 0 2 % 4096) * s.detCap (leAt r 2 2 % 4096)) 16
  else 32 + (List.range (insArg w 23 16)).foldl (fun a k => a + (s.rubRec (first + k)).recMax + 8) 0

/-- Issue an STA to RUBRIC: a rubric run, or a proctor compare when ARGS[15] is set (R396). -/
def State.rubricOp (s : State) (n : Nat) (compare : Bool) : State :=
  match s.issueSta n 9 (fun w => bitAt w 15 == compare) with
  | (none, s) => s
  | (some (w, _, i), s) => s.startSta .rubric n w i (s.rubricCycles w) [] []

/-- RUBRIC_RUN (R395, R396). -/
def execRubricRun (core : Fin 64) (s : State) : Host.Outcome State Fault Refusal := .next (s.rubricOp core.val false)

/-- PROCTOR_COMPARE (R312, R396). -/
def execProctorCompare (core : Fin 64) (s : State) : Host.Outcome State Fault Refusal := .next (s.rubricOp core.val true)

/-- RUBRIC_COMPLETE (R396): the verdicts land after the fixed duration. -/
def execRubricComplete (s : State) : Host.Outcome State Fault Refusal :=
  match s.tt.jobs.find? (fun j => j.kind == .rubric) with
  | none => .next s
  | some j =>
    have s := s.advanceTo j.due
    have first := insArg j.instr 39 24
    have s := if bitAt j.instr 15 then s.proctor j.core j.instr j.unit first
      else (List.range (insArg j.instr 23 16)).foldl (fun s k => s.rubric j.core j.instr j.unit (first + k)) s
    .next (s.endJob j)

end Sys2Proof.Machine
end

