-- ==== Sys2Proof/Machine/Scales.lean ====
section
/-! DEFINITION. Scale adaptation (04, R108 to R114), core images and their reload (02, R55; 12, R330). -/

namespace Sys2Proof.Machine
open Sys2Proof
set_option Elab.async false

/-! ### Tracked tensors (Tables 4-5, 4-6) -/

def State.trackedOf (s : State) (plan : Nat) : List (List Byte) := have bs := s.recBytes recTracked plan; (List.range (recCount bs 32)).map (recElem bs 32)

/-- R of a format: the largest code, as f32. -/
def trackR (fmt : Nat) : F32 :=
  match fmt with
  | 0 => f32ofInt 127
  | 1 => f32ofInt 7
  | 2 => f32ofInt 448
  | _ => f32ofInt 57344

/-- K of a state word. -/
def State.trackK (s : State) (e : List Byte) : Int :=
  match s.addrKey (leAt e 12 5) with
  | some k => toSigned 8 (s.rdLe k 1)
  | none => 0

/-- Write K and LOW of a state word. -/
def State.setTrack (s : State) (e : List Byte) (k : Int) (low : Nat) : State :=
  match s.addrKey (leAt e 12 5) with
  | some a => s.store a (leBytes 1 (ofSigned 8 k) ++ leBytes 1 low ++ leBytes 2 0)
  | none => s

/-- The rule of R111: new K and LOW, and whether SCALE_LIMIT is raised. -/
def adapt (e : List Byte) (sat : Nat) (maxabs : F32) (k : Int) (low : Nat) : Int × Nat × Bool :=
  if leAt e 8 4 < sat then
    if k < toSigned 8 (leAt e 3 1) then (k + 1, 0, false) else (k, 0, true)
  else if f32lt maxabs (f32mul (trackR (leAt e 1 1)) 0x3E800000) then
    if low + 1 = 16 then ((if toSigned 8 (leAt e 2 1) < k then k - 1 else k), 0, false) else (k, low + 1, false)
  else (k, 0, false)

/-- Zero the statistics record of an entry. -/
def State.zeroStat (s : State) (e : List Byte) : State :=
  s.store (keyDesk (s.phys (leAt e 0 1 % 64)) (leAt e 4 4) + 32) (List.replicate 16 0)

/-- Phase 1 for entry i (R111, R112). -/
def State.adaptOne (s : State) (i : Nat) (e : List Byte) : State :=
  have p := s.phys (leAt e 0 1 % 64)
  have a := keyDesk p (leAt e 4 4)
  let (hb, ok1, s) := s.load false 0 a 32
  let (pb, ok2, s) := s.load false 0 (a + 32) 16
  have s := if (parseHdr hb).isVoid || !ok1 || !ok2 then s
    else
      match s.addrKey (leAt e 12 5) with
      | none => s
      | some k =>
        have k0 := toSigned 8 (s.rdLe k 1)
        let (k1, low, lim) := adapt e (leAt pb 0 4) (leAt pb 4 4) k0 (s.rdLe (k + 1) 1)
        have s := s.setTrack e k1 low
        have s := if lim then s.send (srcSeq p) .SCALE_LIMIT (i * 2 ^ 30) else s
        if k1 = k0 then s else s.addCard 3 0 i (leBytes 1 (ofSigned 8 k0) ++ leBytes 1 (ofSigned 8 k1))
  s.zeroStat e

/-- Phase 1 at H_N, run when every logical core has reached END; otherwise the records are zeroed at the next edge (R111). -/
def State.phase1 (s : State) (allEnded : Bool) : State :=
  have es := s.trackedOf s.ctxPlan
  if allEnded then
    (List.range es.length).foldl (fun (s : State) i => match es[i]? with
      | some e => if (s.seqOf (leAt e 0 1)).runs || s.flag (F.TT_STATUS_ENDED (s.phys (leAt e 0 1 % 64))) then s.adaptOne i e else s
      | none => s) s
  else { s with tst := { s.tst with zeroStats := true } }

/-- Zero every statistics record that a skipped phase 1 left. -/
def State.zeroSkipped (s : State) : State :=
  if s.tst.zeroStats then
    have s := (s.trackedOf s.ctxPlan).foldl (fun (s : State) e => s.zeroStat e) s
    { s with tst := { s.tst with zeroStats := false } }
  else s

/-- Two to the k as f32, k from −16 to 16. -/
def f32pow2 (k : Int) : F32 := (k + 127).toNat * 2 ^ 23

/-- One patch site on physical core p (R109): each word is base × 2^−k (DIR 0) or base × 2^k. -/
def State.patchSite (s : State) (p : Nat) (k : Int) (e : List Byte) : State :=
  have m := f32pow2 (if leAt e 1 1 = 0 then -k else k)
  have st := 4 * max (leAt e 12 1) 1
  (List.range (leAt e 2 2)).foldl (fun (s : State) w =>
    let (b, ok, s) := s.load false 0 (keyDesk p (leAt e 8 4 + st * w)) 4
    if ok then s.store (keyDesk p (leAt e 4 4 + st * w)) (leBytes 4 (f32mul (leNat b) m)) else s) s

/-- Phase 2 on logical core n's desk in physical core p (R111, R113, R114). -/
def State.patchCore (s : State) (n p plan : Nat) : State :=
  have sites := s.recBytes recPatch plan
  (s.trackedOf plan).foldl (fun (s : State) e =>
    have k := s.trackK e
    (List.range (leAt e 20 2)).foldl (fun (s : State) i =>
      have x := recElem sites 16 (leAt e 18 2 + i)
      if leAt x 0 1 = n ∧ x ≠ [] then s.patchSite p k x else s) s) s

/-- K and LOW of every tracked tensor start at 0 (R113, R471). -/
def State.resetScales (s : State) (plan : Nat) (which : Nat → Bool) : State :=
  (s.trackedOf plan).foldl (fun (s : State) e => if which (leAt e 0 1) then s.setTrack e 0 0 else s) s

/-- SCALE_PHASE2 (R111): at H_N + 50,000 cycles every sequencer whose core has reached END rewrites its patch sites. -/
def execScalePhase2 (s : State) : Host.Outcome State Fault Refusal :=
  if !s.bell.running || !s.bell.healthDone || s.bell.phase2Done || decide (s.pstate = .halt) then .next s
  else
    have s := s.advanceTo (s.bell.start + 2 * (s.healthAt + 50000))
    have s := { s with bell := { s.bell with phase2Done := true } }
    .next ((List.range 64).foldl (fun (s : State) n =>
      if s.flag (F.TT_STATUS_MAPPED (s.phys n)) && s.flag (F.TT_STATUS_ENDED (s.phys n)) then s.patchCore n (s.phys n) s.ctxPlan else s) s)

/-! ### Core images (R55, R330, R445) -/

def recDeskData : Nat := 0x0081
def recObImage : Nat := 0x0082

def State.recDest (s : State) (typ idx : Nat) : Nat :=
  match s.image.find? (fun r => r.typ == typ && r.idx == idx) with
  | some r => r.dest
  | none => 0

/-- Does the module run logical core n in a plan? -/
def State.runsCore (s : State) (plan n : Nat) : Bool := !(s.recBytes recDeskCtrl (plan * 64 + n)).isEmpty

/-- The images of logical core n in a plan. -/
def State.coreImages (s : State) (plan n : Nat) : List (List Byte) :=
  [s.recBytes recDeskCtrl (plan * 64 + n), s.recBytes recDeskData (plan * 64 + n), s.recBytes recObImage (plan * 64 + n)]

/-- Load logical core n's desk and operand-buffer images of a plan into physical core p, then run the patch pass (R55, R114). -/
def State.loadCore (s : State) (n p plan : Nat) : State :=
  have i := plan * 64 + n
  have s := s.store (keyDesk p 0) (s.recBytes recDeskCtrl i)
  have s := s.store (keyDesk p (s.recDest recDeskData i)) (s.recBytes recDeskData i)
  have ob := s.recBytes recObImage i
  have s := (List.range 8).foldl (fun (s : State) e => s.store (keyOb p e 0) ((ob.drop (e * 49152)).take 49152)) s
  have s := { s with resid := s.resid.filter (fun r => r.p != p) }
  s.patchCore n p plan

/-- Failure set whose plan runs in the next bell (R329). -/
def State.nextPlan (s : State) : Nat :=
  match s.jx.switches.find? (fun x => x.1 == s.curBell + 1) with
  | some (_, f) => f
  | none => s.jx.failSet

/-- REMAP_LOAD_DONE (R55, R114, R336): the load of the spare and its patch pass have ended. -/
def execRemapLoadDone (core : Fin 64) (s : State) : Host.Outcome State Fault Refusal :=
  have n := core.val
  match s.tt.remaps.find? (fun r => r.logical == n && !r.done) with
  | none => .next s
  | some r =>
    have s := s.loadCore n r.dst s.nextPlan
    have s := s.wf (F.CORE_STATE_LOADING r.dst) 0
    .next { s with tt := { s.tt with remaps := s.tt.remaps.map (fun x => if x.logical == n then { x with done := true } else x) } }

/-- PLAN_RELOAD (R330): in the bell before a plan switch, at H + 100,000 cycles, the cores whose images differ start to reload. -/
def execPlanReload (s : State) : Host.Outcome State Fault Refusal :=
  match s.jx.switches.find? (fun x => x.1 == s.bell.n + 1) with
  | none => .next s
  | some (_, f) =>
    if !s.bell.running || !s.bell.healthDone || s.bell.reloadDone then .next s
    else
      have s := s.advanceTo (s.bell.start + 2 * (s.healthAt + 100000))
      have cs := (List.range 64).filter (fun n => s.runsCore f n && decide (s.coreImages f n ≠ s.coreImages s.jx.failSet n))
      .next { s with bell := { s.bell with reloadDone := true }, jx := { s.jx with reload := cs.map (fun n => (n, f)) } }

/-- PLAN_RELOAD_DONE (R330): the images of a logical core for the new plan are in place and patched. A network new to this module
starts at the calibrated scales. -/
def execPlanReloadDone (core : Fin 64) (s : State) : Host.Outcome State Fault Refusal :=
  match s.jx.reload.find? (fun x => x.1 == core.val) with
  | none => .next s
  | some (n, f) =>
    have s := if s.runsCore s.jx.failSet n then s else s.resetScales f (· == n)
    have s := s.loadCore n (s.phys n) f
    .next { s with jx := { s.jx with reload := s.jx.reload.filter (fun x => x.1 != n) } }

end Sys2Proof.Machine
end

