-- ==== Sys2Proof/Machine/LoadLists.lean ====
section
/-! DEFINITION. Load-time conditions of timetables and their descriptor tables (R21, R41 to R59, R72, R80, R82, R106, R138, R170, R178,
R179, R201, R384, R389, R396, R448, R555). A check answers true when the slot must be refused. Every check reads the candidate's records
as State holds a loaded image. -/

namespace Sys2Proof.Machine
open Sys2Proof
set_option Elab.async false

/-- Every byte of the ranges is 0 (R11). -/
def zeros (b : List Byte) (rs : List (Nat × Nat)) : Bool := rs.all (fun r => leAt b r.1 r.2 == 0)

/-- The elements of a record. -/
def State.elems (s : State) (typ idx size : Nat) : List (List Byte) :=
  have b := s.recBytes typ idx
  (List.range (recCount b size)).map (recElem b size)

/-- A number lies in [lo, hi]. -/
def within (v lo hi : Nat) : Bool := decide (lo ≤ v) && decide (v ≤ hi)

/-- Indexes that records of a type carry. -/
def State.idxs (s : State) (typ : Nat) : List Nat := (s.image.filter (fun r => r.typ == typ)).map (·.idx)

/-- Plans the module runs: those with a desk image (R445). -/
def State.plans (s : State) : List Nat := ((s.idxs recDeskCtrl).map (· / 64)).eraseDups

/-- Two ranges (start, length) share a byte. -/
def meets (a b : Nat × Nat) : Bool := decide (0 < a.2) && decide (0 < b.2) && decide (a.1 < b.1 + b.2) && decide (b.1 < a.1 + a.2)

/-- A range of a list, lists of ranges. -/
def meetsAny (a b : List (Nat × Nat)) : Bool := a.any (fun x => b.any (meets x))

def sumBy {α : Type} (f : α → Nat) (l : List α) : Nat := (l.map f).foldl (· + ·) 0

/-! ### Station addresses (R31) -/

/-- A station address is invalid (R31). -/
def badStation (a : Nat) : Bool :=
  have k := stKind a
  have l := stLoc a
  if k = 1 ∨ k = 2 ∨ k = 7 ∨ k = 9 ∨ k = 10 then l != 0
  else if k = 3 then false
  else if k = 4 then l % 8 != 0
  else if k = 5 then decide (1 < l % 8)
  else if k = 6 then decide (7 < l)
  else if k = 8 then decide (3 < l)
  else if k = 11 then decide (31 < l)
  else true

/-- A TARGET field: a valid station of one of the kinds, PORT 0 (Table 2-1). -/
def targetOk (a : Nat) (kinds : List Nat) : Bool := !badStation a && kinds.contains (stKind a) && a % 8 == 0

/-! ### Bytes that the image's records place (R72, R445) -/

/-- A window of a record's bytes placed at `base`. -/
def placedAt (base : Nat) (bs : List Byte) (a n : Nat) : Option (List Byte) :=
  if base ≤ a ∧ a + n ≤ base + bs.length then some ((bs.drop (a - base)).take n) else none

/-- Bytes at a 40-bit address that come from the weights and constants of the image: a WEIGHTS record, or the DESK_DATA record of the
plan for a desk window. -/
def State.staticBytes (s : State) (plan a n : Nat) : Option (List Byte) :=
  if 0x1100000000 ≤ a ∧ a < 0x1140000000 then
    have i := plan * 64 + (a - 0x1100000000) / 0x1000000
    placedAt (s.recDest recDeskData i) (s.recBytes recDeskData i) ((a - 0x1100000000) % 0x1000000) n
  else ((s.image.filter (fun r => r.typ == 0x0080)).filterMap (fun r => placedAt r.dest r.bytes a n)).head?

/-- The storage of a stream's copy A holds weights or constants of the image in each plan that the module runs. -/
def State.imageStream (s : State) (e : List Byte) : Bool :=
  s.plans.any (fun p => (List.range (leAt e 12 2)).all (fun k => (s.staticBytes p (leAt e 24 5 + k * leAt e 40 4) (32 + leAt e 16 4)).isSome))

/-- A stream has a producer: a station port, or the image itself for a static stream (log 41). -/
def State.produced (s : State) (e : List Byte) : Bool := leAt e 2 2 != 0 || s.imageStream e

/-! ### One core's list (R40 to R44, R51, R59, R80) -/

/-- Words of a timetable in a desk image. -/
def ttWords (b : List Byte) : List Nat := (List.range (leAt b 4 4)).map (fun i => leAt b (leAt b 0 4 + 16 * i) 16)

/-- Flags an opcode may carry and must carry (Table 2-7): masks over [119:113]. -/
def flagsOk (w : Nat) : Bool :=
  have op := insOp w
  have f := insArg w 119 113
  have may : Nat := if op = 0xFF then 0
    else if op = 0x08 ∨ op = 0x09 then 0x40 + 0x20 + 0x10 + 0x01
    else if op = 0x10 ∨ op = 0x11 ∨ op = 0x20 then 0x20 + 0x10 + 0x01
    else if op = 0x18 then 0x40 + 0x20 + 0x10 + 0x01
    else if op = 0x28 then 0x20 + 0x10
    else if op = 0x30 then 0x20 + 0x08
    else if op = 0x31 then 0x20 + 0x04
    else if op = 0x38 then 0x20 + 0x02
    else 0x20
  have must : Nat := if op = 0x30 then 0x08 else if op = 0x31 then 0x04 else if op = 0x38 then 0x02 else 0
  (f &&& may) == f && (f &&& must) == must

/-- Reserved ARGS bits of an opcode are 0 and its station has the right kind (Table 2-6, R81, R396, R487, R554). -/
def argsOk (w : Nat) : Bool :=
  have op := insOp w
  have st := insArg w 55 40
  if op = 0x01 then insArg w 27 0 == 0 && insArg w 55 28 != 0
  else if op = 0x08 then insArg w 23 0 == 0 && targetOk st [5, 11]
  else if op = 0x09 then insArg w 27 0 == 0
  else if op = 0x10 ∨ op = 0x11 then insArg w 23 0 == 0 && targetOk st [3]
  else if op = 0x18 then insArg w 23 0 == 0 && targetOk st [4]
  else if op = 0x20 then
    have k := stKind st
    targetOk st [6, 7, 8, 9, 10] && (if k = 7 then true else if k = 9 then insArg w 14 0 == 0 && (bitAt w 15 || insArg w 23 16 != 0)
      else insArg w 23 0 == 0)
  else if op = 0x28 then insArg w 46 0 == 0
  else if op = 0x30 then insArg w 31 0 == 0 && targetOk st [3]
  else if op = 0x31 then insArg w 7 0 == 0 && (if bitAt w 27 then targetOk (insArg w 23 8) [6, 8] else insArg w 23 8 == 0)
  else if op = 0x38 then insArg w 47 0 == 0
  else if op = 0xFF then insArg w 55 0 == 0
  else false

/-- One word by itself: opcode, reserved bits, flags, TASK, PARTNER (R41, R42, R51, R59). -/
def wordOk (n w : Nat) : Bool :=
  have op := insOp w
  argsOk w && flagsOk w && !bitAt w 112 && insArg w 57 56 == 0 &&
    (if (insDual w).isSome then insPartner w != n else insPartner w == 0) &&
    (!(op == 0x30 || op == 0x31 || op == 0x38 || op == 0x28 || op == 0xFF) || insTask w == 0)

/-- ND and SAFE exclude each other, and a SAFE operation is DUAL (R51). -/
def safeOk (w : Nat) : Bool :=
  have op := insOp w
  !(insNd w && insSafe w) && (!(insSafe w && (op == 0x10 || op == 0x11 || op == 0x18 || op == 0x20)) || (insDual w).isSome)

/-- A MOVE is followed by its 0x09 word, and only there does one stand (R41); `prev` is the word before, if it is a MOVE. -/
def pairsOk (prev : Option Nat) : List Nat → Bool
  | [] => prev.isNone
  | v :: r => match prev with
    | some w => insOp v == 0x09 && insAt v == insAt w && insStream v == insStream w && insTask v == insTask w &&
        insArg v 119 113 == insArg w 119 113 && insPartner v == insPartner w && pairsOk none r
    | none => insOp v != 0x09 && pairsOk (if insOp v = 0x08 then some v else none) r

/-- AT never decreases; END stands last and only there. -/
def orderOk : List Nat → Bool
  | [] => false
  | [w] => insOp w == 0xFF
  | w :: v :: r => insOp w != 0xFF && decide (insAt w ≤ insAt v) && orderOk (v :: r)

/-- Tasks have one earlier TASK_BEGIN (R59). -/
def tasksOk (seen : List Nat) : List Nat → Bool
  | [] => true
  | w :: r =>
    have op := insOp w
    if op = 0x01 then !seen.contains (insTask w) && tasksOk (insTask w :: seen) r
    else if op = 0x08 ∨ op = 0x09 ∨ op = 0x10 ∨ op = 0x11 ∨ op = 0x18 ∨ op = 0x20 then seen.contains (insTask w) && tasksOk seen r
    else tasksOk seen r

/-- SWAPs of engine e of core n, in order. -/
def swapsOf (n e : Nat) (ws : List Nat) : List Nat := ws.filter (fun w => insOp w == 0x30 && stLoc (insArg w 55 40) == n * 8 + e)

def gapsOk : List Nat → Bool
  | a :: b :: r => decide (insAt a + 20000 ≤ insAt b) && gapsOk (b :: r)
  | _ => true

/-- SWAPs of one engine: at least 25, 20,000 cycles apart across bells too, STEP counting up (R53, R80). -/
def swapsOk (bellCycles : Nat) (l : List Nat) : Bool :=
  decide (25 ≤ l.length) && gapsOk l && (List.range l.length).all (fun i => insArg ((l[i]?).getD 0) 39 32 == i % 256) &&
    decide (insAt (l.getLastD 0) + 20000 ≤ bellCycles + insAt (l.headD 0))

/-- Cycles of RECESS windows that reserve a unit bit of a core (R54). -/
def recessSum (bit : Nat) (ws : List Nat) : Nat :=
  sumBy (fun w => insArg w 55 28) (ws.filter (fun w => insOp w == 0x31 && bitAt w bit))

/-- END's AT against R21 and R44. -/
def endOk (s : State) (ws : List Nat) : Bool :=
  have e := insAt (ws.getLastD 0)
  decide (e + 2000 ≤ s.bellPeriod / 5) && decide (e ≤ s.healthAt) &&
    ws.all (fun w => (insOp w != 0x31 || decide (insAt w + insArg w 55 28 ≤ e)) && (insOp w != 0x30 || decide (insAt w + 12 ≤ e)))

/-- The list of one core. -/
def State.badList (s : State) (n : Nat) (ws : List Nat) : Bool :=
  !(ws.all (fun w => wordOk n w && safeOk w) && pairsOk none ws && orderOk ws && tasksOk [] ws && endOk s ws &&
    [24, 25, 26].all (fun b => decide (40000 ≤ recessSum b ws)) &&
    (List.range 8).all (fun e => swapsOk (s.bellPeriod / 5) (swapsOf n e ws)))

/-! ### Desk tables and descriptors (R47, R178, R201, R448, R555, Table 2-9; R82) -/

/-- The five tables of a desk directory: offset and bytes. -/
def deskTables (b : List Byte) : List (Nat × Nat) :=
  [(leAt b 0 4, 16 * leAt b 4 4), (leAt b 8 4, 32 * leAt b 12 4), (leAt b 16 4, 64 * leAt b 20 4), (leAt b 24 4, 8 * leAt b 28 4),
   (leAt b 32 4, 16 * leAt b 36 4)]

def State.badDir (s : State) (idx : Nat) : Bool :=
  have b := s.recBytes recDeskCtrl idx
  have ts := deskTables b
  have data := (s.recDest recDeskData idx, (s.recBytes recDeskData idx).length)
  decide (b.length < 64) || !within (leAt b 4 4) 1 65536 || [12, 20, 28, 36].any (fun o => decide (65536 < leAt b o 4)) ||
    !zeros b [(40, 24)] || ts.any (fun t => t.1 % 32 != 0 || decide (0x200000 < t.1 + t.2) || meets t data || meets t (0, 64)) ||
    (List.range 5).any (fun i => (List.range i).any (fun j => meets ((ts[i]?).getD (0, 0)) ((ts[j]?).getD (0, 0))))

/-- Address and stride of memory kept in desk or library (R178), or HBM (R201). -/
def badPlace (a stride tiles size : Nat) : Bool :=
  a % 32 != 0 || (decide (1 < tiles) && (stride % 32 != 0 || (decide (0x600000000 ≤ a) && decide (stride < ceilDiv size 32 * 32))))

/-- Every tile lies in one stripe of the HMOVER's pseudo-channel (R201). -/
def badStripe (a stride tiles size pc : Nat) : Bool :=
  decide (a < 0x600000000) && (List.range tiles).any (fun k => have x := a + k * stride
    hbmPc x != pc || decide (x / 131072 ≠ (x + size - 1) / 131072))

/-- Tile k of an operand-buffer destination stays in the side in which it starts (R555). -/
def badSide (off size : Nat) : Bool := if off < 0x8000 then decide (0x8000 < off + size) else decide (0xC000 < off + size)

/-- The end of a range of tiles lies in the memory its start lies in. -/
def State.badEnd (s : State) (a stride tiles size : Nat) : Bool :=
  match s.addrKey a, s.addrKey (a + (tiles - 1) * stride + size - 1) with
  | some _, some _ => false
  | _, _ => true

/-- A transfer descriptor (Table 2-9, R178, R179 within one transfer, R555). -/
def State.badXd (s : State) (d : List Byte) : Bool :=
  have tiles := leAt d 16 2
  have size := leAt d 20 4
  have kind := leAt d 10 1
  have src := leAt d 0 5
  have dst := leAt d 5 5
  have pay := size - 32
  have step := if tiles = 1 then 0 else leAt d 28 4
  let off (k : Nat) : Nat := (if kind = 1 then dst else dst % 65536) + k * step
  !within tiles 1 4096 || !within size 32 65568 || decide (2 < kind) || decide (63 < leAt d 11 1) || (kind != 2 && leAt d 11 1 != 0) ||
    decide (4095 < leAt d 12 2) || decide (4095 < leAt d 14 2) || !zeros d [(18, 2)] || badPlace src (leAt d 24 4) tiles size ||
    s.badEnd src (if tiles = 1 then 0 else leAt d 24 4) tiles size ||
    (match s.streamElem (leAt d 12 2) with
     | some e => leAt e 16 4 != pay || !s.produced e
     | none => true) ||
    (if kind = 0 then badPlace dst (leAt d 28 4) tiles size || s.badEnd dst step tiles size
     else decide (2 ^ 19 ≤ dst) || (kind == 2 && decide (2 ^ 16 ≤ dst)) ||
       (List.range tiles).any (fun k => decide (2 ^ 19 ≤ off k) || (kind == 2 && decide (2 ^ 16 ≤ off k)) || badSide (off k % 65536) pay ||
         (List.range k).any (fun j => off j / 1024 == off k / 1024)))

/-- A MOVE with its deadline: R47, R201 for an HMOVER, and ND for a LATEST stream (R51). -/
def State.badMove (s : State) (b : List Byte) (w v : Nat) : Bool :=
  have i := insArg w 39 24
  have d := (b.drop (leAt b 8 4 + 32 * i)).take 32
  have st := insArg w 55 40
  have nominal := moveNominal st (leAt d 16 2) (leAt d 20 4)
  decide (leAt b 12 4 ≤ i) || s.badXd d || decide (insArg v 55 28 < insAt w + ceilDiv (nominal * (100 + s.recLe recHeader 4 1)) 100) ||
    insNd w != bitAt (s.streamAttr (leAt d 12 2)) 2 ||
    (stKind st == 11 && (badStripe (leAt d 0 5) (leAt d 24 4) (leAt d 16 2) (leAt d 20 4) (stLoc st) ||
      (leAt d 10 1 == 0 && badStripe (leAt d 5 5) (leAt d 28 4) (leAt d 16 2) (leAt d 20 4) (stLoc st))))

/-- Format codes of Table 3-3 and the pairs of Table 3-4. -/
def pairOk (l sx : Nat) : Bool :=
  have fp8 (f : Nat) : Bool := f == 2 || f == 3
  (decide (l ≤ 1) && decide (sx ≤ 1)) || ((sx == 8 || sx == 9 || sx == 0xA) && l == 0) || (sx == 9 && l == 1) || (fp8 l && fp8 sx) ||
    ((sx == 0xB || sx == 0xC) && fp8 l) || (l == 4 && sx == 4) || (l == 5 && sx == 5)

/-- L region of an operation in its side: start and length (Table 3-2, R76). -/
def Opd.lRegion (o : Opd) : Nat × Nat :=
  (o.lBase, if o.form = 0 then o.loads * o.strands * 8 * o.sb o.fl else if o.form = 1 then o.loads * 8 * o.sb o.fl
    else o.loads * o.strands * opWidth o.fl)

/-- Positions inside the image that Form T fetches (R68). -/
def Opd.fetched (o : Opd) : List Nat :=
  (List.range o.blocks).flatMap (fun b => (List.range o.pos).filterMap (fun p =>
    have x : Int := (b * o.xStep + p : Nat) - (o.padLo : Int)
    if 0 ≤ x ∧ x < (o.imgW : Int) then some x.toNat else none))

/-- Bytes of the packed streams of Form W and EW behind the offsets; a block counts with its shortest form (log 46). -/
def Opd.streamBytes (o : Opd) : Nat :=
  if o.form = 1 then o.blocks * o.pos * (if o.isBlk then ceilDiv (o.loads * o.k) 32 * (4 + blkC o.fs) else o.loads * o.sb o.fs)
  else o.blocks * o.loads * opWidth o.fs

/-- S region as one range: from the first to the last byte that the descriptor names. -/
def Opd.sSpan (o : Opd) : Nat × Nat :=
  if o.form = 0 then
    match o.fetched with
    | [] => (o.sBase, 0)
    | x :: xs => (o.sBase + xs.foldl min x * o.pStride,
        (xs.foldl max x - xs.foldl min x) * o.pStride + (o.loads - 1) * o.qStride + o.sb o.fs)
  else (o.sBase, 2 * o.strands + o.strands * o.streamBytes)

/-- A slice of n bytes every `step` bytes, `cnt` times from `a`, meets a range. -/
def stepMeets (a step cnt n : Nat) (r : Nat × Nat) : Bool :=
  if step = 0 ∨ r.1 < a + n then meets (a, n) r
  else have q := (r.1 - (a + n)) / step + 1
    decide (q < cnt) && meets (a + q * step, n) r

/-- The operation reads a byte of a range of its operand buffer. -/
def Opd.readsRange (o : Opd) (r : Nat × Nat) : Bool :=
  meets o.lRegion r ||
    (if o.form = 0 then o.fetched.any (fun x => stepMeets (o.sBase + x * o.pStride) o.qStride o.loads (o.sb o.fs) r) else meets o.sSpan r)

/-- Entries of the channel table that the drain reads. -/
def Opd.channels (o : Opd) : Nat :=
  if o.form = 0 then o.sg * 8 else if o.form = 1 then o.blocks * o.strands * o.pos else o.strands * 8

/-- An operation descriptor (Table 3-5, R72, R82). -/
def badOpd (d : List Byte) : Bool :=
  have f := leAt d 0 1
  have o := parseOpd d
  have groups := leAt d 4 1
  have mode := leAt d 6 1 % 4
  have fo := leAt d 3 1
  have sEnd := o.sSpan.1 + o.sSpan.2
  decide (2 < f) || !pairOk (leAt d 1 1) (leAt d 2 1) || (decide (8 ≤ leAt d 2 1) && f != 1) || decide (7 < fo) ||
    (f != 2 && decide (mode < 2) && fo != (if o.accInt then 7 else 6)) ||
    !within (leAt d 8 2) 1 96 || (if f = 0 then !within groups 1 4 || leAt d 8 2 % groups != 0 else groups != 1) ||
    (if f = 1 then leAt d 5 1 == 0 else leAt d 5 1 != 0xFF) || decide (7 < leAt d 6 1) ||
    (if f = 0 then !within (leAt d 10 2) 1 (7 + groups) else if f = 1 then !within (leAt d 10 2) 1 8 else leAt d 10 2 != 1) ||
    !within (leAt d 12 2) 1 4096 || !within (leAt d 14 2) 1 4096 || decide (0x7FFF < leAt d 16 2) || !within (leAt d 18 2) 0x8000 0xBFFF ||
    (f == 0 && (decide (15 < leAt d 26 1) || leAt d 28 2 == 0)) || !zeros d [(27, 1), (52, 12)] || (decide (leAt d 2 1 < 8) && leAt d 32 4 != 0) ||
    decide (4095 < leAt d 44 2) || (decide (mode < 2) && leAt d 48 4 != 0) || (leAt d 7 1 != 0 && decide (1 < fo)) ||
    decide (32768 < o.lRegion.1 + o.lRegion.2) || decide (0xC000 < sEnd) ||
    (f == 1 && decide (8 ≤ leAt d 2 1) && (decide (1024 < o.loads * o.k) || o.wide / 2 ^ ceilDiv (o.loads * o.k) 32 != 0)) ||
    decide (0x200000 < o.out + (o.blocks - 1) * o.outStride + 32 + fmtBytes o.outFmt o.elems) ||
    (decide (2 ≤ o.mode) && decide (0x200000 < o.chan + 8 * o.channels))

/-- MM or EW: its descriptor exists and has its form (R76). -/
def badOp (b : List Byte) (w : Nat) : Bool :=
  have i := insArg w 39 24
  have d := (b.drop (leAt b 16 4 + 64 * i)).take 64
  decide (leAt b 20 4 ≤ i) || badOpd d || (insOp w == 0x11) != (leAt d 0 1 == 2)

/-- A VPROG entry and the ops it names. -/
def vprogOf (b : List Byte) (w : Nat) : List Byte := (b.drop (leAt b 24 4 + 8 * insArg w 39 24)).take 8
def vopsOf (b : List Byte) (w : Nat) : List (List Byte) :=
  have e := vprogOf b w
  (List.range (leAt e 4 2)).map (fun k => (b.drop (leAt b 32 4 + 16 * (leAt e 0 4 + k))).take 16)

/-- VEC: its program exists, its ops are those of Table 3-6, and ND stands where it scatters (R51, R81). -/
def badVec (b : List Byte) (w : Nat) : Bool :=
  have e := vprogOf b w
  have ops := vopsOf b w
  decide (leAt b 28 4 ≤ insArg w 39 24) || !within (leAt e 4 2) 1 4096 || leAt e 6 2 != 0 || decide (leAt b 36 4 < leAt e 0 4 + leAt e 4 2) ||
    ops.any (fun v => ! [1, 2, 3, 4, 5, 6, 0x10, 0x11, 0x12, 0x13, 0x20, 0x21, 0x30, 0x38].contains (leAt v 0 1) || leAt v 3 1 != 0 ||
      decide (7 < leAt v 1 1) || decide (7 < leAt v 2 1)) ||
    insNd w != ops.any (fun v => leAt v 0 1 == 0x30)

/-- STA: what it indexes exists, and SLOT, HEAD and BLOCK stand on ATT_FETCH only (R126, R134, R161, R396, R487). -/
def State.badSta (s : State) (plan w : Nat) : Bool :=
  have i := insArg w 39 24
  have n := insArg w 23 16
  have cnt (typ size : Nat) : Nat := recCount (s.recBytes typ plan) size
  match stKind (insArg w 55 40) with
  | 6 => decide (cnt recCodec 32 ≤ i)
  | 7 => decide (cnt recAttend 16 ≤ i) || (leAt (recElem (s.recBytes recAttend plan) 16 i) 0 1 != 2 && insArg w 23 0 != 0)
  | 8 => decide (cnt recDetect 64 ≤ i)
  | 9 => if bitAt w 15 then decide (s.recLe recSafety 10 1 ≤ i) else decide (recCount (s.recBytes recRubric 0) 32 < i + n)
  | _ => decide (s.nOut ≤ i) || leAt (s.outElem i) 0 1 == 4 || leAt (s.outElem i) 0 1 == 5

/-- Words of a list with what they name. -/
def State.badWords (s : State) (plan : Nat) (b : List Byte) : List Nat → Bool
  | [] => false
  | w :: r =>
    (match insOp w with
     | 0x08 => s.badMove b w (r.headD 0)
     | 0x10 | 0x11 => badOp b w
     | 0x18 => badVec b w
     | 0x20 => s.badSta plan w
     | _ => false) || s.badWords plan b r

/-! ### A plan's instructions -/

/-- One timetable word of a plan, with the word after it and its core's DESK_CTRL record. -/
structure Ins where
  core : Nat
  w : Nat
  nx : Nat
  b : List Byte

def insList (core : Nat) (b : List Byte) : List Nat → List Ins
  | [] => []
  | w :: r => { core := core, w := w, nx := r.headD 0, b := b } :: insList core b r

def Ins.op (i : Ins) : Nat := insOp i.w
def Ins.at' (i : Ins) : Nat := insAt i.w
def Ins.st (i : Ins) : Nat := insArg i.w 55 40
def Ins.idx (i : Ins) : Nat := insArg i.w 39 24
/-- DEADLINE of a MOVE. -/
def Ins.dl (i : Ins) : Nat := insArg i.nx 55 28
def Ins.xd (i : Ins) : List Byte := (i.b.drop (leAt i.b 8 4 + 32 * i.idx)).take 32
def Ins.opd (i : Ins) : Opd := parseOpd ((i.b.drop (leAt i.b 16 4 + 64 * i.idx)).take 64)
def Ins.isMm (i : Ins) : Bool := i.op == 0x10 || i.op == 0x11
/-- Logical engine of an MM, EW or SWAP: core × 8 + engine. -/
def Ins.eng (i : Ins) : Nat := stLoc i.st

/-- A core of a plan with its instructions. -/
abbrev PCore := Nat × List Ins

/-- Cores of a plan. -/
def State.planCores (s : State) (plan : Nat) : List PCore :=
  ((List.range 64).filter (s.runsCore plan)).map (fun n => have b := s.recBytes recDeskCtrl (plan * 64 + n); (n, insList n b (ttWords b)))

/-- Every instruction of a plan. -/
def allIns (ls : List PCore) : List Ins := ls.flatMap (fun l => l.2)

/-- Place of an operand-buffer byte of a logical engine among destination ranges; memory addresses stand below. -/
def obPlace (eng off : Nat) : Nat := 2 ^ 44 + eng * 65536 + off

/-- Members of a multicast group of a plan (Table 16-10). -/
def State.planMcast (s : State) (plan g : Nat) : List Nat :=
  have m := leAt (recElem (s.recBytes recMcast plan) 64 g) 0 64
  (List.range 512).filter (fun i => bitAt m i)

/-- Destination ranges of tile k of a MOVE: whole 32-byte units in desk and library (R178), payload bytes in operand buffers. -/
def State.tileDsts (s : State) (plan core : Nat) (d : List Byte) (k : Nat) : List (Nat × Nat) :=
  have step := if leAt d 16 2 = 1 then 0 else leAt d 28 4
  have x := leAt d 5 5 + k * step
  have size := leAt d 20 4
  match leAt d 10 1 with
  | 0 => [(x, if 0x600000000 ≤ x then ceilDiv size 32 * 32 else size)]
  | 1 => [(obPlace (core * 8 + x / 65536) (x % 65536), size - 32)]
  | _ => (s.planMcast plan (leAt d 11 1)).map (fun m => (obPlace m (x % 65536), size - 32))

/-- A tile that a MOVE delivers: the MOVE, its number in the MOVE, its source address and its destination ranges. -/
structure MvTile where
  mv : Ins
  k : Nat
  src : Nat
  dsts : List (Nat × Nat)

def State.mvTiles (s : State) (plan : Nat) (i : Ins) : List MvTile :=
  have d := i.xd
  (List.range (leAt d 16 2)).map (fun k =>
    { mv := i, k := k, src := leAt d 0 5 + k * (if leAt d 16 2 = 1 then 0 else leAt d 24 4), dsts := s.tileDsts plan i.core d k })

/-- Tiles of every MOVE of a plan. -/
def State.planTiles (s : State) (plan : Nat) (all : List Ins) : List MvTile :=
  (all.filter (fun i => i.op == 0x08)).flatMap (s.mvTiles plan)

/-- An operand-buffer range of an engine, as offsets in its buffer. -/
def obRange (eng : Nat) (r : Nat × Nat) : Option (Nat × Nat) :=
  if obPlace eng 0 ≤ r.1 ∧ r.1 < obPlace eng 65536 then some (r.1 - obPlace eng 0, r.2) else none

/-- The MM or EW reads bytes that the tile writes. -/
def Ins.readsTile (i : Ins) (t : MvTile) : Bool :=
  i.isMm && t.dsts.any (fun r => match obRange i.eng r with
    | some x => i.opd.readsRange x
    | none => false)

/-! ### Lists against each other (R51 to R54, R59, R138, R170, R179, R389) -/

/-- DUAL instructions of a list toward a partner, cut at its DIGESTs: each DIGEST with the instructions of its region (R50). -/
def regionsOf (partner : Nat) : List Ins → List Ins → List (Ins × List Ins)
  | _, [] => []
  | acc, i :: r =>
    if insDual i.w = some partner then
      if i.op = 0x28 then (i, acc) :: regionsOf partner [] r else regionsOf partner (if i.op = 0x09 then acc else acc ++ [i]) r
    else regionsOf partner acc r

/-- Regions of core l with m and of m with l agree: AT, REGION, opposite RUN and one sequence of opcodes (R51, R59). -/
def regionsAgree (a b : List (Ins × List Ins)) : Bool :=
  decide (a.length = b.length) && (List.zip a b).all (fun x =>
    x.1.1.at' == x.2.1.at' && insArg x.1.1.w 55 48 == insArg x.2.1.w 55 48 && insArg x.1.1.w 47 47 != insArg x.2.1.w 47 47 &&
    decide (x.1.2.map Ins.op = x.2.2.map Ins.op))

/-- Instructions of a core of a plan, none where the plan has no such core. -/
def coreIns (ls : List PCore) (n : Nat) : List Ins := ((ls.find? (fun l => l.1 == n)).map (fun l => l.2)).getD []

/-- Partners that a core's DUAL instructions name. -/
def partnersOf (l : List Ins) : List Nat := (l.filterMap (fun i => insDual i.w)).eraseDups

/-- Dual-run conditions of one core (R51, R59). -/
def badDual (ls : List PCore) (l : PCore) : Bool :=
  (partnersOf l.2).any (fun m => !regionsAgree (regionsOf m [] l.2) (regionsOf l.1 [] (coreIns ls m)))

/-- DUAL instructions of one core with their partner's, in order. -/
def dualPairs (ls : List PCore) (l : PCore) : List (Ins × Ins) :=
  (partnersOf l.2).flatMap (fun m =>
    List.zip (l.2.filter (fun i => insDual i.w == some m)) ((coreIns ls m).filter (fun i => insDual i.w == some l.1)))

/-- A DUAL STA to DETECT or CODEC and its partner name different units of one kind (R138); of a SAFE STA to ATTEND and its partner the
classes have DUAL and the HALF bits differ (R170). -/
def State.badDualSta (s : State) (plan : Nat) (ls : List PCore) (l : PCore) : Bool :=
  have adesc (i : Ins) : List Byte := recElem (s.recBytes recAttend plan) 16 i.idx
  have dualClass (i : Ins) : Bool := (s.elems recCtxClass 0 64).any (fun e => leAt e 0 1 == leAt (adesc i) 1 1 && bitAt (leAt e 7 1) 2)
  (dualPairs ls l).any (fun x =>
    x.1.op == 0x20 && x.2.op == 0x20 &&
      (((stKind x.1.st == 6 || stKind x.1.st == 8) && (x.1.st == x.2.st || stKind x.1.st != stKind x.2.st)) ||
       (stKind x.1.st == 7 && insSafe x.1.w && (stKind x.2.st != 7 || !dualClass x.1 || !dualClass x.2 ||
          bitAt (leAt (adesc x.1) 3 1) 1 == bitAt (leAt (adesc x.2) 3 1) 1))))

/-- ATs of a core's BARRIERs for a group, in list order. -/
def barrierAts (l : List Ins) (g : Nat) : List Nat := (l.filter (fun i => i.op == 0x38 && insArg i.w 55 48 == g)).map Ins.at'

/-- Members of a BARRIER group hold its instances at the same ATs (R52, R59). -/
def State.badBarrier (s : State) (plan : Nat) (ls : List PCore) (l : PCore) : Bool :=
  (List.range 256).any (fun g =>
    have m := leAt (recElem (s.recBytes recBarrier plan) 8 g) 0 8
    bitAt m l.1 && ls.any (fun x => bitAt m x.1 && decide (barrierAts x.2 g ≠ barrierAts l.2 g)))

/-- Units a RECESS reserves, as station addresses (Table 2-6). -/
def Ins.reserved (i : Ins) : List Nat :=
  (if bitAt i.w 24 then [0x4000 + i.core * 64] else []) ++ (if bitAt i.w 25 then [0x5000 + i.core * 64] else []) ++
  (if bitAt i.w 26 then [0x5000 + i.core * 64 + 8] else []) ++ (if bitAt i.w 27 then [insArg i.w 23 8] else [])

/-- An instruction issues to a unit during a RECESS of the core that reserves it (R54, R59). -/
def badRecess (all : List Ins) (l : PCore) : Bool :=
  (l.2.filter (fun i => i.op == 0x31)).any (fun r => all.any (fun i =>
    (i.op == 0x08 || i.op == 0x18 || i.op == 0x20 || i.isMm) && r.reserved.contains i.st && decide (r.at' ≤ i.at') &&
      decide (i.at' < r.at' + insArg r.w 55 28)))

/-- A SWAP of the core during which an operation issues to or executes on its engine (R53, R83). -/
def badSwap (all : List Ins) (l : PCore) : Bool :=
  (l.2.filter (fun i => i.op == 0x30)).any (fun w => all.any (fun i =>
    i.isMm && i.eng == w.eng && decide (i.at' < w.at' + 12) && decide (w.at' < i.at' + max i.opd.duration 1)))

/-- Destination ranges of all tiles of a MOVE. -/
def State.mvDsts (s : State) (plan : Nat) (i : Ins) : List (Nat × Nat) := (s.mvTiles plan i).flatMap (fun t => t.dsts)

/-- MOVEs with overlapping windows write overlapping ranges (Table 2-11); a MOVE of the core against the later ones of the plan. -/
def State.badOverlap (s : State) (plan : Nat) (ls : List PCore) (l : PCore) : Bool :=
  have mine := l.2.filter (fun i => i.op == 0x08)
  let clash (a b : Ins) : Bool := decide (a.at' < b.dl) && decide (b.at' < a.dl) && meetsAny (s.mvDsts plan a) (s.mvDsts plan b)
  (List.range mine.length).any (fun k => (mine.drop (k + 1)).any (fun b => match mine[k]? with
    | some a => clash a b
    | none => false)) ||
  mine.any (fun a => ls.any (fun m => m.1 != l.1 && (m.2.filter (fun i => i.op == 0x08)).any (clash a)))

/-- The MOVE's DEADLINE is later than the AT of the first reader of the tiles it writes into operand buffers (Table 2-11). -/
def State.badReader (s : State) (plan : Nat) (all : List Ins) (l : PCore) : Bool :=
  (l.2.filter (fun i => i.op == 0x08)).any (fun m =>
    have ts := s.mvTiles plan m
    all.any (fun i => decide (m.at' ≤ i.at') && decide (i.at' < m.dl) && ts.any i.readsTile))

/-- Two tiles resident at the same time start within the same 1 KiB of an operand buffer (R179): the earlier one is read after the
later one's MOVE has issued, with no MOVE between that rewrites it (log 47). -/
def State.badResident (s : State) (plan : Nat) (all : List Ins) (l : PCore) : Bool :=
  have ts := s.planTiles plan all
  (ts.filter (fun t => t.mv.core == l.1)).any (fun x => x.dsts.any (fun r => decide (2 ^ 44 ≤ r.1) &&
    ts.any (fun y => decide (x.mv.at' ≤ y.mv.at') &&
      y.dsts.any (fun q => q.1 / 1024 == r.1 / 1024 && !meets q r) &&
      all.any (fun i => decide (y.mv.at' ≤ i.at') && i.readsTile { x with dsts := [r] } &&
        !ts.any (fun z => decide (x.mv.at' < z.mv.at') && decide (z.mv.at' ≤ i.at') && z.dsts.any (meets r))))))

/-! ### Streams that instructions read and write (R51) -/

def descOf (s : State) (typ plan size : Nat) (i : Ins) : List Byte := recElem (s.recBytes typ plan) size i.idx

/-- Streams of the tiles that a VECTOR program names at the word places `offs` of its ops. -/
def State.vecStreams (s : State) (i : Ins) (offs : List Byte → List Nat) : List Nat :=
  (vopsOf i.b i.w).flatMap (fun v => (offs v).filterMap (fun o => (s.tileAt (deskAddr i.core (32 * leAt v o 2))).map (fun x => x.1)))

/-- Streams an instruction reads. -/
def State.insReads (s : State) (plan : Nat) (i : Ins) : List Nat :=
  match i.op with
  | 0x08 => [leAt i.xd 12 2]
  | 0x18 => s.vecStreams i (fun v => ([4, 6, 8] : List Nat).take (vopInputs (leAt v 0 1)))
  | 0x20 =>
    (match stKind i.st with
     | 6 => [leAt (descOf s recCodec plan 32 i) 10 2]
     | 7 => if leAt (descOf s recAttend plan 16 i) 0 1 = 2 then [] else [leAt (descOf s recAttend plan 16 i) 4 2]
     | 8 => [4, 6, 8].map (fun o => leAt (descOf s recDetect plan 64 i) o 2)
     | 9 => if bitAt i.w 15 then [0, 2].map (fun o => leAt (recElem (s.recBytes recProctor 0) 32 i.idx) o 2)
        else (List.range (insArg i.w 23 16)).map (fun k => leAt (recElem (s.recBytes recRubric 0) 32 (i.idx + k)) 2 2)
     | _ => [4, 6, 8].map (fun o => leAt (s.outElem i.idx) o 2)).filter (fun x => x != 0)
  | _ => []

/-- Streams an instruction writes. -/
def State.insWrites (s : State) (plan : Nat) (i : Ins) : List Nat :=
  match i.op with
  | 0x08 => [leAt i.xd 12 2]
  | 0x10 | 0x11 => [i.opd.stream]
  | 0x18 => s.vecStreams i (fun _ => [10])
  | 0x20 =>
    (match stKind i.st with
     | 6 => [leAt (descOf s recCodec plan 32 i) 12 2]
     | 7 => [6, 8, 10].map (fun o => leAt (descOf s recAttend plan 16 i) o 2)
     | 8 => [leAt (descOf s recDetect plan 64 i) 10 2]
     | _ => []).filter (fun x => x != 0)
  | _ => []

/-- A stream written in a dual-run region of the core is read by an instruction outside the region after its first write there and
before DIGEST AT + 64 (R51; log 48). -/
def State.badEarly (s : State) (plan : Nat) (all : List Ins) (l : PCore) : Bool :=
  (partnersOf l.2).any (fun m => (regionsOf m [] l.2).any (fun x =>
    have w := x.2.flatMap (fun i => (s.insWrites plan i).map (fun t => (t, i.at')))
    all.any (fun i =>
      !((i.core == l.1 && insDual i.w == some m) || (i.core == m && insDual i.w == some l.1)) && decide (i.at' < x.1.at' + 64) &&
        (s.insReads plan i).any (fun t => w.any (fun y => y.1 == t && decide (y.2 ≤ i.at'))))))

/-- Address ranges of the tiles that an MM or EW reads through its MOVEs, and of those it writes (R388, R389). -/
def heldRanges (ts : List MvTile) (i : Ins) : List (Nat × Nat) :=
  have o := i.opd
  (ts.filter (fun t => decide (t.mv.at' ≤ i.at') && i.readsTile t &&
      !ts.any (fun z => decide (t.mv.at' < z.mv.at') && decide (z.mv.at' ≤ i.at') && meetsAny t.dsts z.dsts))).map
    (fun t => (t.src, leAt t.mv.xd 20 4)) ++
  (List.range o.blocks).map (fun b => (deskAddr i.core (o.out + b * o.outStride), 32 + fmtBytes o.outFmt o.elems))

/-- A MOVE, or the drain of an instruction outside the record, writes a tile that R389 holds until DIGEST AT + 64 + 40,000 (log 48). -/
def State.badHold (s : State) (plan : Nat) (all : List Ins) (l : PCore) : Bool :=
  have ts := s.planTiles plan all
  (partnersOf l.2).any (fun m => (regionsOf m [] l.2).any (fun x =>
    have rec' := (x.2.filter Ins.isMm).take 256
    have held := rec'.map (fun i => (i.at', heldRanges ts i))
    all.any (fun w =>
      decide (w.at' < x.1.at' + 64 + 40000) && !(w.core == l.1 && rec'.any (fun i => i.w == w.w)) &&
        (have dst : List (Nat × Nat) := if w.op = 0x08 then s.mvDsts plan w
          else if w.isMm then (List.range w.opd.blocks).map (fun b =>
            (deskAddr w.core (w.opd.out + b * w.opd.outStride), 32 + fmtBytes w.opd.outFmt w.opd.elems)) else []
         held.any (fun h => decide (h.1 < w.at') && meetsAny h.2 dst)))))

/-! ### Static block streams (R72, R100, R106) -/

/-- BF16 codes: neither infinity nor NaN. -/
def bf16Finite (v : Nat) : Bool := decide (v / 128 % 256 ≠ 255)

/-- Positions of a FACET block's ESC codes. -/
def escAt (fmt : Nat) (bs : List Byte) : List Nat :=
  (List.range 32).filter (fun i => elemCode (if fmt = 8 then 0 else 1) (bs.drop 4) i == (if fmt = 8 then 0x80 else 8))

/-- A FACET block breaks R106; `wide` is its column's WIDE_MAP bit. -/
def facetBad (fmt : Nat) (bs : List Byte) (wide : Bool) : Bool :=
  have h := leAt bs 0 4
  have n := bits h 29 27
  have c := blkC fmt
  have side := (List.range n).map (fun k => leAt bs (4 + c + 4 * k) 4)
  have pos := side.map (fun e => bits e 20 16)
  have sc := bits h 15 0
  bits h 26 16 != 0 ||
    (match bits h 31 30 with
     | 0 => bitAt sc 15 || sc == 0 || !bf16Finite sc || decide (4 < n) ||
         !f32isFinite (f32mul (f32ofInt (if fmt = 8 then 127 else 7)) (widen 4 sc)) ||
         decide (pos ≠ escAt fmt bs) || side.any (fun e => bits e 31 21 != 0 || !bf16Finite (bits e 15 0))
     | 1 => sc != 0 || n != 0 || !f32isFinite (leAt bs 4 4) || (List.range c).any (fun i => leAt bs (8 + i) 1 != 0)
     | 2 => sc != 0 || n != 0 || !wide || (List.range 32).any (fun i => !bf16Finite (leAt bs (4 + 2 * i) 2))
     | _ => true)

/-- A block of a static stream breaks R100 or R106. -/
def blockBad (fmt : Nat) (bs : List Byte) (wide : Bool) : Bool :=
  if fmt = 8 ∨ fmt = 9 then facetBad fmt bs wide else leAt bs 0 1 == 0xFF

/-- The next n blocks from an offset of an operand buffer: some break, counting the column from `col` of `cols`. -/
def blocksBad (fmt wide cols : Nat) (ob : List Byte) : Nat → Nat → Nat → Bool
  | 0, _, _ => false
  | n + 1, off, col =>
    have bs := (ob.drop off).take 68
    blockBad fmt bs (bitAt wide col) || blocksBad fmt wide cols ob n (off + (parseBlk fmt bs).len) (if col + 1 < cols then col + 1 else 0)

/-- Operand buffer of an engine with the tiles that MOVEs delivered before an operation: its bytes, and the ranges that hold no weights
or constants of the image. -/
def State.obBefore (s : State) (plan : Nat) (ts : List MvTile) (i : Ins) : List Byte × List (Nat × Nat) :=
  have img := ((s.recBytes recObImage (plan * 64 + i.eng / 8)).drop (i.eng % 8 * 49152)).take 49152
  have mine := sortBy (ts.filter (fun t => decide (t.mv.at' < i.at') && t.dsts.any (fun r => (obRange i.eng r).isSome)))
    (fun a b => decide (a.mv.at' ≤ b.mv.at'))
  mine.foldl (fun acc t => (t.dsts.filterMap (obRange i.eng)).foldl (fun (acc : List Byte × List (Nat × Nat)) r =>
    match s.staticBytes plan (t.src + 32) r.2 with
    | some bs => (acc.1.take r.1 ++ bs ++ acc.1.drop (r.1 + r.2), acc.2.filter (fun q => !(decide (r.1 ≤ q.1) && decide (q.1 + q.2 ≤ r.1 + r.2))))
    | none => (acc.1, acc.2 ++ [r])) acc) (img, [])

/-- An MM with a block format reads a stream that is not static (R72), or a block that breaks R100 or R106. -/
def State.badBlocks (s : State) (plan : Nat) (ts : List MvTile) (i : Ins) : Bool :=
  have o := i.opd
  i.op == 0x10 && o.form == 1 && o.isBlk &&
    (let (ob, dirty) := s.obBefore plan ts i
     dirty.any (meets o.sSpan) ||
       (List.range o.strands).any (fun k => have st := o.sBase + leAt ob (o.sBase + 2 * k) 2
         blocksBad o.fs o.wide o.cols ob (o.blocks * o.pos * o.cols) st 0))

/-! ### Test windows, rubrics and statistics (R54, R110, R384, R396) -/

/-- RECESS windows of a chip unit, from every core: (start, length). -/
def chipWins (all : List Ins) (st : Nat) : List (Nat × Nat) :=
  (all.filter (fun i => i.op == 0x31 && bitAt i.w 27 && insArg i.w 23 8 == st)).map (fun i => (i.at', insArg i.w 55 28))

/-- Each CODEC and DETECT unit is covered, by windows that do not overlap (R54, R384). -/
def chipCovered (all : List Ins) : Bool :=
  ((List.range 8).map (fun i => 0x6000 + 8 * i) ++ (List.range 4).map (fun i => 0x8000 + 8 * i)).all (fun (st : Nat) =>
    have w : List (Nat × Nat) := chipWins all st
    decide (10000 ≤ sumBy (fun (x : Nat × Nat) => x.2) w) &&
      (List.range w.length).all (fun i => (List.range i).all (fun j => !meets ((w[i]?).getD (0, 0)) ((w[j]?).getD (0, 0)))))

/-- Base segments fit their windows (R384): kind u of unit, its windows. -/
def State.segsFit (s : State) (u : Nat) (wins : List Nat) : Bool :=
  have segs := ((List.range (s.segTable u).2).filter (fun i => !(s.segment u i).1)).map (fun (i : Nat) => (s.segment u i).2)
  have short := wins.foldl min (wins.headD 0)
  segs.all (fun c => decide (c ≤ short)) && decide (segs.foldl (· + ·) 0 ≤ wins.foldl (· + ·) 0)

/-- Base segments of a core's VECTOR and movers. -/
def State.coreTestsFit (s : State) (l : PCore) : Bool :=
  [(1, 24), (2, 25), (3, 26)].all (fun x =>
    s.segsFit x.1 ((l.2.filter (fun i => i.op == 0x31 && bitAt i.w x.2)).map (fun i => insArg i.w 55 28)))

/-- Base segments of the chip's units. -/
def State.chipTestsFit (s : State) (all : List Ins) : Bool :=
  (List.range 8).all (fun i => s.segsFit 4 ((chipWins all (0x6000 + 8 * i)).map (fun (x : Nat × Nat) => x.2))) &&
  (List.range 4).all (fun i => s.segsFit 5 ((chipWins all (0x8000 + 8 * i)).map (fun (x : Nat × Nat) => x.2)))

/-- Cycles of an STA to RUBRIC that runs rubrics (R396). -/
def State.rubricRun (s : State) (i : Ins) : Nat :=
  32 + sumBy (fun k => leAt (recElem (s.recBytes recRubric 0) 32 (i.idx + k)) 14 2 + 8) (List.range (insArg i.w 23 16))

/-- A rubric of a stream that an STA to EMIT of the core releases has not completed at its AT (R396). -/
def State.badRelease (s : State) (all : List Ins) (l : PCore) : Bool :=
  (l.2.filter (fun i => i.op == 0x20 && stKind i.st == 10)).any (fun e =>
    have srcs := ([4, 6, 8].map (fun o => leAt (s.outElem e.idx) o 2)).filter (fun x => x != 0)
    (List.range (recCount (s.recBytes recRubric 0) 32)).any (fun r =>
      srcs.contains (leAt (recElem (s.recBytes recRubric 0) 32 r) 2 2) &&
        (have runs := all.filter (fun i => i.op == 0x20 && stKind i.st == 9 && !bitAt i.w 15 && decide (i.idx ≤ r) &&
            decide (r < i.idx + insArg i.w 23 16))
         runs.isEmpty || runs.any (fun i => decide (e.at' < i.at' + s.rubricRun i)))))

/-- A MOVE of the core reads a batch stream before its READY (R267). -/
def State.badBatchRead (s : State) (l : PCore) : Bool :=
  l.2.any (fun i => i.op == 0x08 && (s.elems recBatch 0 48).any (fun e => leAt e 4 2 == leAt i.xd 12 2 && decide (i.at' < leAt e 32 4)))

/-- The plan writes the statistics tile of a tracked tensor by a STATS op (R110). -/
def statsWritten (all : List Ins) (core off : Nat) : Bool :=
  all.any (fun i => i.op == 0x18 && i.core == core && (vopsOf i.b i.w).any (fun v => leAt v 0 1 == 0x38 && 32 * leAt v 10 2 == off))

/-! ### One core, one plan -/

/-- A desk image by itself: directory, list, descriptors. -/
def State.badDesk (s : State) (idx : Nat) : Bool :=
  have b := s.recBytes recDeskCtrl idx
  s.badDir idx || (have ws := ttWords b; s.badList (idx % 64) ws || s.badWords (idx / 64) b ws)

/-- A core's list against the lists of its plan. -/
def State.badCross (s : State) (plan : Nat) (ls : List PCore) (all : List Ins) (l : PCore) : Bool :=
  badDual ls l || s.badDualSta plan ls l || s.badBarrier plan ls l || badRecess all l || badSwap all l || s.badOverlap plan ls l ||
    s.badReader plan all l || s.badResident plan all l || s.badEarly plan all l || s.badHold plan all l || !s.coreTestsFit l ||
    s.badRelease all l || s.badBatchRead l || (have ts := s.planTiles plan all; l.2.any (s.badBlocks plan ts))

/-- DESK_CTRL records of a plan that a condition concerns; a condition of the chip's units concerns the plan's first. -/
def State.badDesks (s : State) (plan : Nat) : List Nat :=
  have ls := s.planCores plan
  have own := (ls.map (fun l => plan * 64 + l.1)).filter s.badDesk
  if !own.isEmpty then own
  else
    have all := allIns ls
    (ls.filter (s.badCross plan ls all)).map (fun l => plan * 64 + l.1) ++
      (if chipCovered all && s.chipTestsFit all then [] else [plan * 64 + (ls.map (fun l => l.1)).headD 0])

end Sys2Proof.Machine
end

