-- ==== Sys2Proof/Machine/LoadCheck.lean ====
section
/-! DEFINITION. Load-time conditions of the image's records (R11, R21, R59 and the home rules). A check answers true when the slot must be
refused. Every check reads the candidate's records as State holds a loaded image. -/

namespace Sys2Proof.Machine
open Sys2Proof
set_option Elab.async false

/-! ### Streams (Table 16-8, R31, R39, R56, R411) -/

def inDesk (a : Nat) : Bool := decide (0x1100000000 ≤ a) && decide (a < 0x1140000000)

def State.badStream (s : State) (e : List Byte) : Bool :=
  have a := leAt e 24 5
  have b := leAt e 32 5
  have at' := leAt e 22 1
  have pay := leAt e 16 4
  decide (4095 < leAt e 0 2) || (leAt e 2 2 != 0 && badStation (leAt e 2 2)) ||
    ([4, 6, 8, 10].any (fun o => leAt e o 2 != 0) && !s.produced e) || [4, 6, 8, 10].any (fun o => leAt e o 2 != 0 && badStation (leAt e o 2)) ||
    !within (leAt e 12 2) 1 4096 || !within pay 1 65536 || !zeros e [(14, 2), (23, 1), (29, 3), (37, 3), (44, 4)] ||
    leAt e 40 4 % 32 != 0 || (!bitAt at' 1 && b != 0) || (decide (1 ≤ at' / 16) && (inDesk a || inDesk b)) ||
    (s.addrKey a).isNone

def State.badStreams (s : State) : Bool :=
  have es := s.elems recStream 0 48
  have ids := es.map (fun e => leAt e 0 2)
  es.any s.badStream || !(decide (ids = sortBy ids (fun a b => decide (a ≤ b)))) || decide (ids.eraseDups.length ≠ ids.length) || decide (4096 < es.length) ||
    decide (64 < (es.filter (fun e => bitAt (leAt e 22 1) 3)).length)

/-! ### Header, safety, time, fault, Jexong, map (Tables 16-7, 12-3, 11-1, 13-4, 11-4, R202) -/

def State.geomWords (s : State) : List Nat :=
  [A.CHIP_GEOM_CORE, A.CHIP_GEOM_OB, A.CHIP_GEOM_DESK, A.CHIP_GEOM_LIB, A.CHIP_GEOM_LIBW, A.CHIP_GEOM_LOCKET].map
    (fun a => (s.reg a).toNat)

/-- Library byte ranges of a write window. -/
def winRange (b : List Byte) (i : Nat) : Nat × Nat :=
  (0x1000000000 + 64 * leAt b (64 + 8 * i) 4, 64 * leAt b (68 + 8 * i) 4)

/-- Storage of every stream: its tiles with their strides, both copies. -/
def State.streamSpans (s : State) : List (Nat × Nat) :=
  (s.elems recStream 0 48).flatMap (fun e =>
    have n := (leAt e 12 2 - 1) * leAt e 40 4 + 32 + leAt e 16 4
    [(leAt e 24 5, n)] ++ (if bitAt (leAt e 22 1) 1 then [(leAt e 32 5, n)] else []))

def State.badHeader (s : State) : Bool :=
  have b := s.recBytes recHeader 0
  have ws := (List.range 8).map (winRange b)
  have att := if (s.recBytes recAttGlobal 0).isEmpty then []
    else [(s.recLe recAttGlobal 12 5, 32768), (s.pxBase, 0x508000), (s.libPool, s.libFrames * 32768)]
  decide (s.bellPeriod / 5 < s.healthAt + 200000) || !within (leAt b 4 1) 10 100 || !zeros b [(5, 3)] ||
    ((List.range 6).map (fun i => leAt b (8 + 4 * i) 4)) != s.geomWords ||
    ws.all (fun w => w.2 == 0) || ws.any (fun w => decide (0x1008000000 < w.1 + w.2)) ||
    ws.any (fun w => (s.streamSpans ++ att).any (meets w)) ||
    (List.range 8).any (fun i => decide (2 ^ 21 ≤ leAt b (64 + 8 * i) 4) || decide (2 ^ 22 ≤ leAt b (68 + 8 * i) 4))

def State.badSafety (s : State) : Bool :=
  have b := s.recBytes recSafety 0
  have gap := leAt b 6 2
  !within (leAt b 0 4) 1000 1000000 || !within (leAt b 4 1) 1 15 || !within (leAt b 5 1) 2 64 || (gap != 0 && !within gap 100 3000) ||
    (gap != 0 && decide (gap * 1000000 < 3 * s.bellPeriod)) || decide (4095 < leAt b 8 2) || decide (4 < leAt b 10 1) ||
    !zeros b [(11, 5)] || leAt b 10 1 != recCount (s.recBytes recProctor 0) 32 ||
    (gap != 0 && !((List.range s.nOut).any (fun o => have e := s.outElem o; leAt e 0 1 == 2 &&
      (leAt e 4 2 == leAt b 8 2 || leAt e 6 2 == leAt b 8 2))))

def badTime (b : List Byte) : Bool :=
  have lg := toSigned 8 (leAt b 19 1)
  !within (leAt b 10 4) 10000000 100000000 || decide (1000000000 ≤ leAt b 6 4) || decide (63 < leAt b 14 1) || decide (63 < leAt b 15 1) ||
    (leAt b 14 1 &&& leAt b 15 1) != 0 || decide (3 < leAt b 16 1) || (leAt b 16 1 == 0 && leAt b 17 1 != 0) || decide (127 < leAt b 18 1) ||
    decide (lg < -7) || decide (0 < lg) || decide (1 < leAt b 20 1) || !within (leAt b 23 1) 1 200 || decide (leAt b 24 2 < 100) ||
    !zeros b [(30, 2), (40, 8), (120, 8)]

/-- Reserved source IDs of Table 13-2: not a source this model sends from. -/
def srcKnown (x : Nat) : Bool :=
  (decide (x ≤ 0x83F) && decide (x % 32 ≤ 16)) || within x 0x840 0x85F || within x 0x860 0x88F || within x 0x890 0x893 ||
  within x 0x898 0x8A1 || within x 0x8A8 0x8AF || within x 0x8B0 0x8B3 || x == 0x8B8 || within x 0x8C0 0x8C6 || within x 0x8D0 0x8D3 ||
  within x 0x8E0 0x8E1 || within x 0x8F0 0x8F3 || within x 0x900 0x902 || within x 0x908 0x90D || x == 0x910 ||
  within x 0xA00 0xA3F || within x 0xA40 0xA7F || within x 0xA80 0xABF

def badFault (b : List Byte) : Bool :=
  (List.range 256).any (fun k => have v := leAt b k 1; decide (5 < v % 8) || decide (5 < v / 16 % 8) || bitAt v 3 || bitAt v 7) ||
  (List.range 2048).any (fun j => have v := leAt b (256 + j) 1
    [(v % 16, 2 * j), (v / 16, 2 * j + 1)].any (fun x => x.1 == 6 || decide (7 < x.1) || (x.1 != 7 && !srcKnown x.2))) ||
  decide (2 < leAt b 2304 1) || decide (3 < leAt b 2305 1)

def badJexong (b : List Byte) : Bool :=
  have m := leAt b 1 1
  !within m 1 4 || decide (m ≤ leAt b 0 1) || !zeros b [(20, 12)] ||
    (decide (1 < m) && (decide (m ≤ leAt b 2 1) || !within (leAt b 3 1) 1 3 || decide (4095 < leAt b 4 2) ||
      !within (leAt b 16 2) 100 5000))

def mapRange (e : List Byte) : Nat × Nat := (leAt e 4 4, leAt e 8 4)
def State.badHbmMap (s : State) : Bool :=
  have es := (s.elems recHbmMap 0 16).filter (fun e => leAt e 0 1 != 0)
  have ks := (es.map (fun e => leAt e 0 1)).filter (· != 5)
  es.any (fun e => decide (7 < leAt e 0 1) || decide (3 < leAt e 1 1) || !zeros e [(2, 2), (12, 4)] || leAt e 8 4 == 0 ||
    decide (6144 < leAt e 4 4 + leAt e 8 4) || (leAt e 0 1 == 1 && decide (2048 < leAt e 8 4)) ||
    (leAt e 0 1 == 2 && leAt e 8 4 != 2048) || (leAt e 0 1 == 4 && leAt e 8 4 != 128)) ||
  decide (ks.eraseDups.length ≠ ks.length) ||
  (List.range es.length).any (fun i => (List.range i).any (fun j => meets (mapRange ((es[i]?).getD [])) (mapRange ((es[j]?).getD []))))

/-! ### Station tables (R120, R126, R134, R138, R143) -/

/-- Output size of a window axis (R120). -/
def winOut (n lo hi dil k st : Nat) : Int := ((n : Int) + lo + hi - dil * (k - 1) - 1) / (st : Int) + 1

def badWindow (e : List Byte) : Bool :=
  have oh := winOut (leAt e 2 2) (leAt e 14 1) (leAt e 15 1) (leAt e 12 1) (leAt e 8 1) (leAt e 10 1)
  have ow := winOut (leAt e 4 2) (leAt e 16 1) (leAt e 17 1) (leAt e 13 1) (leAt e 9 1) (leAt e 11 1)
  decide (2 < leAt e 0 1) || (leAt e 0 1 != 0 && leAt e 1 1 != 0) || decide (63 < leAt e 1 1) || leAt e 2 2 == 0 || leAt e 4 2 == 0 ||
    leAt e 6 2 == 0 || !within (leAt e 8 1) 1 63 || !within (leAt e 9 1) 1 63 || !within (leAt e 10 1) 1 64 ||
    !within (leAt e 11 1) 1 64 || leAt e 12 1 == 0 || leAt e 13 1 == 0 || !within (leAt e 26 2) 1 4096 || !zeros e [(28, 4)] ||
    decide (oh ≤ 0) || decide (ow ≤ 0) || decide (oh ≠ (leAt e 18 2 : Int)) || decide (ow ≠ (leAt e 20 2 : Int))

def State.payOf (s : State) (stream : Nat) : Nat := ((s.streamElem stream).map (fun e => leAt e 16 4)).getD 0

/-- Payload bytes of all tiles of a stream. -/
def State.totalPay (s : State) (stream : Nat) : Nat :=
  ((s.streamElem stream).map (fun e => leAt e 12 2 * leAt e 16 4)).getD 0

/-- Pooling kinds: the window record, the format of Table 5-4, and streams that hold both maps. -/
def State.badPool (s : State) (plan : Nat) (e : List Byte) : Bool :=
  have k := leAt e 0 1
  have f := leAt e 1 1
  have w := recElem (s.recBytes recWindow plan) 32 (leAt e 16 2)
  decide (recCount (s.recBytes recWindow plan) 32 ≤ leAt e 16 2) || leAt w 0 1 != 2 - k || !([0, 4, 5, 6].contains f || (k == 0 && f == 2)) ||
    leAt e 6 2 != 0 || leAt e 8 2 != 0 || decide (s.totalPay (leAt e 4 2) < fmtBytes f (leAt w 2 2 * leAt w 4 2 * leAt w 6 2)) ||
    decide (s.totalPay (leAt e 10 2) < fmtBytes f (leAt w 18 2 * leAt w 20 2 * leAt w 6 2))

/-- Decode kinds: formats, N_IN, and streams that hold the heatmap, the head, the AUX map or anchors and the candidates (R129, R130). -/
def State.badDecode (s : State) (e : List Byte) : Bool :=
  have k := leAt e 0 1
  have f := leAt e 1 1
  have n := leAt e 20 4
  have cells := leAt e 52 2 * leAt e 54 2 * leAt e 18 2
  (f != 4 && f != 6) || n != cells * leAt e 2 1 || !within (leAt e 18 2) 1 16 || !within (leAt e 52 2) 1 4096 ||
    !within (leAt e 54 2) 1 4096 || (decide (3 ≤ k) && leAt e 18 2 != 1) || decide (s.totalPay (leAt e 4 2) < fmtBytes f n) ||
    decide (s.totalPay (leAt e 6 2) < fmtBytes f (cells * (if k = 4 then 8 else 4))) ||
    decide (s.totalPay (leAt e 8 2) < (if k = 2 then cells * 16 else fmtBytes f n)) ||
    decide (s.payOf (leAt e 10 2) < 16 + 48 * leAt e 12 2)

/-- A DETECT descriptor (R126); a field that its kind does not use is free (log 50). -/
def State.badDetect (s : State) (plan : Nat) (e : List Byte) : Bool :=
  have k := leAt e 0 1
  have cand := leAt e 12 2
  decide (6 < k) || leAt e 2 1 == 0 || decide (3 < leAt e 3 1) || !zeros e [(56, 8)] ||
    (decide (2 ≤ k) && (!within cand 1 1024 || !within (leAt e 14 2) 1 cand)) || (decide (k < 2) && s.badPool plan e) ||
    (within k 2 4 && s.badDecode e) ||
    (decide (5 ≤ k) && (leAt e 6 2 != 0 || leAt e 8 2 != 0 || decide (s.totalPay (leAt e 4 2) < 16 + 48 * cand) ||
      decide (s.payOf (leAt e 10 2) < 16 + 48 * leAt e 14 2)))

def badCodec (e : List Byte) : Bool :=
  have n := leAt e 4 2 * leAt e 6 2 * leAt e 8 2
  have b := leAt e 2 1
  !within (leAt e 0 1) 1 2 || leAt e 1 1 != 0 || !([2, 3, 4, 5, 6, 8].contains b) || !within (leAt e 14 2) 1 4096 ||
    !zeros e [(3, 1), (16, 16)] || n == 0 || decide (65536 < n) || decide (65536 < 16 + ceilDiv n 64 * (2 + 8 * b))

def badClass (e : List Byte) : Bool :=
  have k := parseClass e
  have bks := (List.range 4).map (fun i => (leAt e (32 + 4 * i) 2, leAt e (34 + 4 * i) 2))
  have used := bks.takeWhile (fun b => b.2 != 0)
  have blk := leAt e 12 2
  have lens := used.map (·.1)
  decide (15 < leAt e 0 1) || !within (leAt e 1 1) 8 9 || leAt e 2 1 != 4 || decide (1 < leAt e 3 1) || !within (leAt e 4 1) 1 64 ||
    !within (leAt e 5 1) 1 8 || !within (leAt e 6 1) 1 8 || decide (7 < leAt e 7 1) || !within (leAt e 8 2) 32 256 || leAt e 8 2 % 32 != 0 ||
    !([16, 32, 64, 128].contains (leAt e 10 2)) || blk == 0 || blk % leAt e 10 2 != 0 || !within (leAt e 14 2) 1 4096 ||
    !within (leAt e 18 2) 1 1024 || decide (1024 < leAt e 16 2 + leAt e 18 2) || decide (leAt e 24 4 < leAt e 20 4) || !zeros e [(53, 11)] ||
    decide (32768 < 64 + 8 * k.tpp + k.tpp * leAt e 5 1 * 2 * (leAt e 8 2 / 32) * k.slotLen) || decide (32768 < blk * leAt e 8 2 * 2) ||
    decide (512 < blk) || (bks.drop used.length).any (fun b => b.2 != 0) || lens.any (fun l => l % blk != 0 || decide (512 < l / blk)) ||
    decide (lens ≠ sortBy lens.eraseDups (fun a b => decide (a ≤ b))) || decide (lens.getLastD 0 < leAt e 14 2 * leAt e 10 2) ||
    (bitAt (leAt e 7 1) 2 && leAt e 18 2 % 2 != 0)

def State.badClasses (s : State) : Bool :=
  have es := s.elems recCtxClass 0 64
  have sum (h : Nat) : Nat := ((es.filter (fun e => leAt e 3 1 == h)).map (fun e => leAt e 20 4)).foldl (· + ·) 0
  es.any badClass || (!es.isEmpty && (s.recBytes recAttGlobal 0).isEmpty) || decide (262144 < sum 0) || decide (s.libFrames < sum 1)

/-- An ATTEND descriptor's reserved fields and OP (R161). -/
def badAdesc (e : List Byte) : Bool := decide (3 < leAt e 0 1) || decide (3 < leAt e 3 1) || leAt e 14 2 != 0

/-- Reserved bytes of ATTEND_GLOBAL and of a PREFIX head (Table 16-10). -/
def badAttGlobal (b : List Byte) : Bool := !zeros b [(5, 3), (10, 2), (17, 3), (25, 3), (36, 28)]
def badPrefix (b : List Byte) : Bool := !zeros b [(1, 1), (4, 12)]

/-! ### Sensors (R221, R237, R253, R267) -/

/-- Frames per bell of a camera (R231). -/
def State.framesPerBell (s : State) (e : List Byte) : Nat :=
  if camFlag e 0 then leAt e 27 1 else ceilDiv (s.recLe recIsp (26 + 2 * leAt e 0 1) 2 * s.bellPeriod) 100000000000

/-- Level entry i of a camera record. -/
def levelOf (e : List Byte) (i : Nat) : Level := parseLevel ((e.drop (80 + 16 * i)).take 16)

/-- A pyramid level entry (Table 9-6, R237): its source stands before it, and its tiles have rows (log 51). -/
def badLevel (e : List Byte) (i : Nat) : Bool :=
  have l := levelOf e i
  have src := if l.src = 0 then (camWidth e, camLines e) else ((levelOf e (l.src - 1)).ow, (levelOf e (l.src - 1)).oh)
  l.fmt != 0xFF && (decide (4 < l.fmt) || decide (i < l.src) || (l.src != 0 && (levelOf e (l.src - 1)).fmt == 0xFF) || !within l.fx 1 4 ||
    !within l.fy 1 4 || l.w == 0 || l.h == 0 || l.w % max l.fx 1 != 0 || l.h % max l.fy 1 != 0 || decide (src.1 < l.x0 + l.w) ||
    decide (src.2 < l.y0 + l.h) || l.rows == 0 || decide (65536 < l.rows * l.rowBytes))

/-- The output sets lie in the library or in one feature-map region (Table 9-2). -/
def State.setsPlaced (s : State) (a n : Nat) : Bool :=
  (decide (0x1000000000 ≤ a) && decide (a + n ≤ 0x1008000000)) ||
  (s.elems recHbmMap 0 16).any (fun e => leAt e 0 1 == 5 && decide (leAt e 4 4 * 0x400000 ≤ a) &&
    decide (a + n ≤ (leAt e 4 4 + leAt e 8 4) * 0x400000))

def State.badCamera (s : State) (e : List Byte) : Bool :=
  have w := camWidth e
  have l := camLines e
  have lb := planeBytes e 0
  have trig := camFlag e 0
  have ps := s.recBytes recPsetInit (leAt e 0 1)
  decide (15 < leAt e 0 1) || decide (3 < leAt e 1 1) || !within (leAt e 2 1) 1 5 || decide (31 < leAt e 3 1) || !within (leAt e 4 1) 1 3 ||
    decide (3 < leAt e 5 1) || lb == 0 || (camHasEmb e && decide (3 < leAt e 7 1)) ||
    (List.range (leAt e 4 1)).any (fun k => decide (3 < leAt e (8 + k) 1)) || decide (5 < leAt e 11 1) || !within w 64 4096 || w % 4 != 0 ||
    !within l 48 4096 || decide (16 < leAt e 16 2) || decide (3840 < leAt e 18 2) || !within (leAt e 26 1) 1 8 || !within (leAt e 27 1) 1 4 ||
    (!trig && leAt e 36 4 != 0) || !within (leAt e 45 1) 1 4 || decide (127 < leAt e 46 1) || decide (16 < leAt e 47 1) ||
    decide (16 < leAt e 56 1) || !zeros e [(57, 7), (69, 3), (76, 4)] || decide (8294400 < w * l) ||
    decide (33554432 < 65536 + leAt e 4 1 * l * up64 lb) || decide (61440 < leAt e 16 2 * up64 (leAt e 18 2)) ||
    (camFlag e 1 && (decide (leAt e 16 2 ≤ leAt e 44 1) || decide (leAt e 18 2 ≤ leAt e 42 2 + leAt e 45 1))) ||
    (decide (1 < leAt e 4 1) && decide (leAt ps 32 3 ≤ leAt ps 28 3)) || (List.range 4).any (badLevel e) ||
    !s.setsPlaced (leAt e 64 5) (3 * leAt e 72 4) || ps.isEmpty || (s.recBytes recCamInit (leAt e 0 1)).isEmpty ||
    (List.range 4).any (fun k => (s.recBytes recCamTable (leAt e 0 1 * 4 + k)).isEmpty)

/-- Initial parameter set, initialisation script and ISP record: reserved fields and ranges (Tables 9-8, 16-10). -/
def badPset (b : List Byte) : Bool := !zeros b [(26, 2), (31, 1), (35, 1), (39, 1), (59, 5)] || decide (1 < leAt b 58 1)
def badCamInit (e : List Byte) : Bool := decide (2 < leAt e 0 1) || !within (leAt e 1 1) 1 4
def badIsp (b : List Byte) : Bool := !zeros b [(5, 3), (58, 6)]

/-- At most 4 cameras and 85 % of BELL_PERIOD per pipeline, in PIX cycles of 5/3 ns (R230, R231). -/
def State.badPipe (s : State) (es : List (List Byte)) (p : Nat) : Bool :=
  have mine := es.filter (fun e => leAt e 1 1 == p)
  decide (4 < mine.length) ||
    decide (51 * s.bellPeriod < 100 * sumBy (fun e => tProc (camWidth e) (camLines e) * s.framesPerBell e) mine)

/-- The cameras' bytes per second exceed 12 GB/s (R221): both sides times 100 × BELL_PERIOD. -/
def State.badCamRate (s : State) (es : List (List Byte)) : Bool :=
  decide (12000000000 * 100 * s.bellPeriod < sumBy (fun e =>
    leAt e 4 1 * camLines e * planeBytes e 0 * (if camFlag e 0 then leAt e 27 1 * 100000000000
      else s.recLe recIsp (26 + 2 * leAt e 0 1) 2 * s.bellPeriod)) es)

/-- Output-set ranges of a camera. -/
def setsOf (e : List Byte) : Nat × Nat := (leAt e 64 5, 3 * leAt e 72 4)

def State.badCameras (s : State) : Bool :=
  have es := s.elems recCamera 0 144
  have ids := es.map (fun e => leAt e 0 1)
  es.any s.badCamera || (List.range 4).any (s.badPipe es) || s.badCamRate es || decide (ids.eraseDups.length ≠ ids.length) || (!es.isEmpty && (s.recBytes recIsp 0).isEmpty) ||
    (List.range es.length).any (fun i => (List.range i).any (fun j => meets (setsOf ((es[i]?).getD [])) (setsOf ((es[j]?).getD []))))

def State.badLidar (e : List Byte) : Bool :=
  have ts := leAt e 3 1
  have st := leAt e 16 2
  have xb := if leAt e 28 1 = 0 then 2 else 4
  have pl := leAt e 10 2
  decide (7 < leAt e 0 1) || decide (3 < leAt e 1 1) || decide (3 < leAt e 2 1) || decide (2 < ts) || !within pl 64 8972 ||
    !within (leAt e 14 2) 1 4096 || decide (2 < leAt e 28 1) || decide (1 < leAt e 29 1) || decide (15 < leAt e 30 1) ||
    decide (2 < leAt e 31 1) || !zeros e [(112, 16)] || decide (pl < leAt e 12 2 + leAt e 14 2 * st) ||
    [32, 34, 36].any (fun o => decide (st < leAt e o 2 + xb)) || decide (st < leAt e 38 2 + 1 + leAt e 29 1) ||
    (leAt e 31 1 != 0 && decide (st < leAt e 40 2 + 2 * leAt e 31 1)) || (decide (ts ≤ 1) && decide (pl < leAt e 18 2 + 8)) ||
    (leAt e 20 2 != 0xFFFF && decide (pl < leAt e 20 2 + 2)) || (leAt e 22 2 != 0xFFFF && decide (pl < leAt e 22 2 + 4))

def State.badLidars (s : State) : Bool :=
  have es := s.elems recLidar 0 128
  have keys := es.map (fun e => (leAt e 1 1, leAt e 4 4, leAt e 8 2))
  es.any State.badLidar || decide (keys.eraseDups.length ≠ keys.length) || decide (40000000 < (es.map (fun e => leAt e 60 4)).foldl (· + ·) 0)

def State.badFusion (s : State) : Bool :=
  have b := s.recBytes recFusion 0
  !within (leAt b 0 4) 1000000 131070000 || decide (4095 < leAt b 14 2) || decide (63 < leAt b 16 1) || !zeros b [(17, 3), (50, 14)] ||
    [36, 38, 40, 42, 44].any (fun o => leAt b o 2 == 0) || !within (leAt b 46 2) 1 8191

def State.badBatch (s : State) (e : List Byte) : Bool :=
  have slots := leAt e 1 1
  have cam := leAt e 0 1 == 0
  decide (1 < leAt e 0 1) || !within slots 1 16 || decide (3 < leAt e 2 1) || decide (1 < leAt e 3 1) || (!cam && leAt e 3 1 != 0) ||
    decide (4095 < leAt e 4 2) || !within (leAt e 6 2) 1 256 || decide (15 < leAt e 9 1) || decide (15 < leAt e 10 1) || decide (64 < leAt e 11 1) ||
    decide (32 < leAt e 12 1) || !zeros e [(13, 3), (36, 12)] || decide (4096 < slots * leAt e 6 2) ||
    (List.range 16).any (fun i => have x := leAt e (16 + i) 1
      if i < slots then (if cam then (s.camRec x).isNone else !(s.elems recLidar 0 128).any (fun l => leAt l 0 1 == x)) else x != 0xFF) ||
    (cam && (List.range slots).any (fun i => match s.camRec (leAt e (16 + i) 1) with
      | some r => have lv := (r.drop (80 + 16 * leAt e 2 1)).take 16
        leAt e 6 2 != ceilDiv (leAt lv 10 2 / max (leAt lv 2 1) 1) (max (leAt lv 14 2) 1)
      | none => true))

/-! ### Test records and outputs (R395, R397, R398, R486, R493, R494) -/

def State.badRubric (s : State) (e : List Byte) : Bool :=
  have pay := s.payOf (leAt e 2 2 % 4096)
  have last := leAt e 4 2 + (leAt e 14 2 - 1) * leAt e 6 2 + leAt e 10 2 + fieldSize (leAt e 12 1)
  decide (5 < leAt e 0 1) || decide (1 < leAt e 1 1) || decide (4095 < leAt e 2 2) || decide (4 < leAt e 12 1) || decide (1 < leAt e 13 1) ||
    !within (leAt e 14 2) 1 4096 || !zeros e [(28, 4)] || (leAt e 8 2 != 0xFFFF && decide (pay < leAt e 8 2 + 4)) ||
    decide (pay < last)

/-- An object lies in the weights region or the system region (R397). -/
def State.inStored (s : State) (a n : Nat) : Bool :=
  (s.elems recHbmMap 0 16).any (fun e => (leAt e 0 1 == 1 || leAt e 0 1 == 7) && decide (leAt e 4 4 * 0x400000 ≤ a) &&
    decide (a + n ≤ (leAt e 4 4 + leAt e 8 4) * 0x400000))

def State.badDigests (s : State) : Bool :=
  have es := s.elems recDigest 0 48
  have total := sumBy (fun e => leAt e 8 4) es
  es.any (fun e => !zeros e [(5, 3)] || decide (2 ^ 26 < leAt e 8 4) || !s.inStored (leAt e 0 5) (leAt e 8 4)) ||
    decide (7500000000 < ceilDiv total s.digestStep * s.bellPeriod)

/-- A proctor compare record's reserved bits (Table 12-4). -/
def badProctor (e : List Byte) : Bool :=
  decide (4095 < leAt e 0 2) || decide (4095 < leAt e 2 2) || decide (1 < leAt e 20 1) || !zeros e [(21, 3)]

/-- The next n groups of a strand program: a pair of Table 3-4, LOADS, POS and reserved bytes (R381). -/
def badGroups (c : List Byte) : Nat → Nat → Bool
  | 0, _ => false
  | n + 1, off =>
    have fl := leAt c off 1
    have fs := leAt c (off + 1) 1
    have loads := leAt c (off + 2) 2
    have pos := leAt c (off + 4) 1
    !pairOk fl fs || !within loads 1 64 || !within pos 1 8 || leAt c (off + 5) 3 != 0 ||
      badGroups c n (off + 12 + 8 * loads * (pairOpd fl fs).sb fl + pos * loads * (pairOpd fl fs).sb fs)

/-- Both strand programs fit 16,384 cycles (R381). -/
def State.badPrograms (s : State) : Bool :=
  [false, true].any (fun x => decide (16384 < s.programCycles x)) ||
  [8, 12].any (fun o => have off := leAt s.content o 4; badGroups s.content (leAt s.content off 2) (off + 2))

def badContent (b : List Byte) : Bool :=
  leAt b 0 1 != 1 || !zeros b [(1, 3), (48, 12)] || (List.range 4).any (fun i => !within (leAt b (32 + 4 * i) 4) 1 4096) ||
    leAt b 60 4 != crc32c (b.take 60 ++ leBytes 4 0 ++ b.drop 64)

/-- Largest record of an output in bytes, header included (R487, R492 to R496). -/
def State.recMax (s : State) (o : Nat) : Nat :=
  have e := s.outElem o
  have k := leAt e 0 1
  if k = 0 then 32 + 16 + 64 * leAt e 18 2
  else if k = 1 then 32 + 32 + leAt e 16 2 * leAt e 18 2 * leAt e 36 1
  else if k = 2 then 32 + 32 + 32 * leAt e 16 2 + 2560
  else if k = 3 then 32 + 64 + 512 * 16
  else if k = 4 then 32 + 48 else 0

/-- The stream names EMIT as a consumer. -/
def State.toEmit (s : State) (stream : Nat) : Bool :=
  ((s.streamElem stream).map (fun e => [4, 6, 8, 10].any (fun o => stKind (leAt e o 2) == 10))).getD false

def State.badOut (s : State) (o : Nat) : Bool :=
  have e := s.outElem o
  have k := leAt e 0 1
  have srcs := (if k ≤ 2 then [leAt e 4 2] else []) ++ (if k ≤ 2 ∧ leAt e 6 2 ≠ 0 then [leAt e 6 2] else []) ++
    (if k ≤ 2 ∧ leAt e 8 2 ≠ 0 then [leAt e 8 2] else [])
  have vid := k == 5
  decide (5 < k) || leAt e 1 1 != 0 || decide (4095 < leAt e 2 2) || !zeros e [(40, 24)] || srcs.any (fun x => !s.toEmit x) ||
    decide (4194336 < s.recMax o) ||
    (List.range 2).any (fun i => have c := leAt e (10 + i) 1; bits c 6 5 != 0 || (bitAt c 7 && leAt (s.recBytes recOutput 0) (28 + c % 4) 1 == 0)) ||
    (k == 1 && (s.totalPay (leAt e 4 2) != leAt e 16 2 * leAt e 18 2 * leAt e 36 1 || !within (leAt e 36 1) 1 8 || decide (1 < leAt e 37 1))) ||
    (k == 2 && (s.totalPay (leAt e 4 2) != 32 * leAt e 16 2 || s.totalPay (leAt e 6 2) != 2560 || !within (leAt e 16 2) 1 80)) ||
    (vid && (match s.camRec (leAt e 4 1 % 16) with
      | some r => decide (1 < leAt r (80 + 16 * (leAt e 4 1 / 16 % 4) + 3) 1)
      | none => true))

def State.badDest (s : State) (d : Nat) : Bool :=
  have e := s.destElem d
  have p := leAt e 0 1
  decide (5 < p) || leAt e 1 1 != 0 || leAt e 2 2 % 4 != 0 || !within (leAt e 2 2) 256 (if 4 ≤ p then 1456 else 8956) ||
    leAt (s.recBytes recOutput 0) (4 + 4 * p) 4 == 0 || !zeros e [(16, 48)]

/-- Frame bytes per bell of a video output and of a camera's tap (R240, R499). -/
def State.videoBytes (s : State) (e : List Byte) : Nat :=
  match s.camRec (leAt e 4 1 % 16) with
  | some r => have l := levelOf r (leAt e 4 1 / 16 % 4); l.rowBytes * l.oh * s.framesPerBell r
  | none => 0

def State.tapBytes (s : State) (c : Nat) : Nat :=
  match s.camRec c with
  | none => 0
  | some r =>
    have px := camWidth r * camLines r
    s.framesPerBell r * (match leAt r 11 1 with
      | 1 => camExps r * camLines r * planeBytes r 0
      | 2 => camExps r * px * 3
      | 3 | 4 => px * 3
      | 5 => have l := levelOf r 0; l.ow * l.oh * (if l.fmt = 1 then 2 else 3)
      | _ => 0)

/-- Gear rate of an output link in bits per ns. -/
def gearRate (g : Nat) : Nat := match g with
  | 1 => 2
  | 2 => 4
  | 3 => 8
  | 4 => 12
  | 5 => 16
  | _ => 0

/-- A link carries more than 90 % of its gear rate × BELL_PERIOD (R486). -/
def State.badLink (s : State) (l : Nat) : Bool :=
  have on (c : Nat) : Bool := bitAt c 7 && c % 4 == l
  have outs := sumBy (fun o => have e := s.outElem o
    ([10, 11].filter (fun i => on (leAt e i 1))).length * (if leAt e 0 1 = 5 then s.videoBytes e else s.recMax o)) (List.range s.nOut)
  have taps := sumBy (fun c => if on (leAt s.tapElem c 1) then s.tapBytes c else 0) (List.range 16)
  decide (9 * gearRate (s.recLe recOutput (28 + l) 1) * s.bellPeriod < 80 * (outs + taps))

def State.badOutputs (s : State) : Bool :=
  have b := s.recBytes recOutput 0
  have os := List.range s.nOut
  have ids := os.map (fun o => leAt (s.outElem o) 2 2)
  have kinds := os.map (fun o => leAt (s.outElem o) 0 1)
  have routes := (os.filter (fun o => leAt (s.outElem o) 0 1 == 5)).flatMap (fun o =>
       [leAt (s.outElem o) 10 1, leAt (s.outElem o) 11 1]) ++ (List.range 16).map (fun c => leAt s.tapElem c 1)
  have vcs := (routes.filter (fun c => bitAt c 7)).map (· % 32)
  !within s.nOut 1 64 || decide (32 < s.nDest) || b.length != 64 * (s.nOut + s.nDest + 2) || os.any s.badOut ||
    (List.range s.nDest).any s.badDest || decide (ids.eraseDups.length ≠ ids.length) ||
    decide (1 < (kinds.filter (· == 3)).length) || decide (1 < (kinds.filter (· == 4)).length) ||
    ((s.elems recStream 0 48).any (fun e => bitAt (leAt e 22 1) 3) && !kinds.contains 4) || decide (vcs.eraseDups.length ≠ vcs.length) ||
    (List.range 4).any (fun l => decide (5 < leAt b (28 + l) 1) || s.badLink l) ||
    (List.range 16).any (fun c => have x := leAt s.tapElem c 1; bits x 6 5 != 0 || (bitAt x 7 && leAt b (28 + x % 4) 1 == 0)) ||
    !zeros s.tapElem [(16, 48)] || decide (leAt b 40 4 < 2 * (os.map s.recMax).foldl (· + ·) 0) ||
    !zeros b [(37, 3), (49, 1), (52, 12)]

/-! ### Scales (R110) and the map plan (R328, R449) -/

/-- Bytes of a core's desk as a plan's records load it (R445). -/
def State.deskInit (s : State) (plan n off len : Nat) : List Byte :=
  have i := plan * 64 + n
  ((placedAt 0 (s.recBytes recDeskCtrl i) off len).orElse (fun _ => placedAt (s.recDest recDeskData i) (s.recBytes recDeskData i) off len)).getD []

/-- A patched word is not normal for some k from K_MIN to K_MAX (R110). -/
def State.badPatched (s : State) (plan : Nat) (lo hi : Int) (e : List Byte) : Bool :=
  (List.range (leAt e 2 2)).any (fun j =>
    have x : Int := bits (leAt (s.deskInit plan (leAt e 0 1) (leAt e 8 4 + 4 * leAt e 12 1 * j) 4) 0 4) 30 23
    decide (x = 0) || decide (x = 255) || decide (x + (if leAt e 1 1 = 0 then -hi else lo) < 1) ||
      decide (254 < x + (if leAt e 1 1 = 0 then -lo else hi)))

/-- Tracked tensors and patch sites of a plan (Tables 4-5, 4-6, R110). -/
def State.badTracked (s : State) (plan : Nat) : Bool :=
  have es := s.trackedOf plan
  have ps := s.elems recPatch plan 16
  have all := if es.isEmpty then [] else allIns (s.planCores plan)
  es.any (fun e =>
    have lo := toSigned 8 (leAt e 2 1)
    have hi := toSigned 8 (leAt e 3 1)
    decide (63 < leAt e 0 1) || decide (3 < leAt e 1 1) || decide (lo < -16) || decide (0 < lo) ||
      decide (16 < hi) || decide (hi < 0) || !within (leAt e 20 2) 1 16 || !zeros e [(17, 1), (22, 10)] ||
      decide (ps.length < leAt e 18 2 + leAt e 20 2) || !statsWritten all (leAt e 0 1) (leAt e 4 4) ||
      ((ps.drop (leAt e 18 2)).take (leAt e 20 2)).any (s.badPatched plan lo hi)) ||
  ps.any (fun e => decide (63 < leAt e 0 1) || decide (1 < leAt e 1 1) || !within (leAt e 2 2) 1 4096 ||
    !within (leAt e 12 1) 1 2 || !zeros e [(13, 3)]) ||
  (List.range 64).any (fun n =>
    have mine := ps.filter (fun e => leAt e 0 1 == n)
    decide (1024 < sumBy (fun e => leAt e 2 2) mine) || decide (50000 < 32 * (es.filter (fun e => leAt e 0 1 == n)).length) ||
      decide (50000 < sumBy (fun e => 32 + 2 * leAt e 2 2) mine))

/-- Entry of a failure set in MAP_PLAN: offset, and where its IMG_DIG table lies (R449). -/
def planEntry (b : List Byte) (i : Nat) : Nat × Nat :=
  have ext := leAt b 2 2
  have pad (n : Nat) : Nat := ceilDiv n 16 * 16
  have o := 16 + pad (2 * ext) + i * (16 + pad ext + 128)
  (o, o + 16 + pad ext)

/-- Record types whose INDEX carries a plan, with the plan of an index. -/
def planOf (typ idx : Nat) : Option Nat :=
  if typ = recDeskCtrl ∨ typ = recDeskData ∨ typ = recObImage then some (idx / 64)
  else if 0x0022 ≤ typ ∧ typ ≤ 0x0029 then some idx else none

/-- IMG_DIG of this module for a plan: over the DIGEST fields of its records of that plan (Table 16-10). -/
def imgDig (ents : List ManEnt) (plan : Nat) : List Byte :=
  shake256 ((ents.filter (fun e => planOf e.typ e.idx == some plan)).flatMap (fun e => e.dig)) 32

def State.badMapPlan (s : State) (ents : List ManEnt) : Bool :=
  have b := s.recBytes recMapPlan 0
  have m := leAt b 0 1
  have ext := leAt b 2 2
  m != s.modules || leAt b 1 1 != 2 ^ m - 1 || !within ext 1 128 || !zeros b [(4, 12)] ||
    (List.range (leAt b 1 1)).any (fun i =>
      let (o, d) := planEntry b i
      have f := leAt b o 1
      have own := (b.drop (d + 32 * s.moduleId)).take 32
      f != i || (List.range ext).any (fun x => decide (m ≤ leAt b (o + 16 + x) 1) || bitAt f (leAt b (o + 16 + x) 1)) ||
        (if bitAt f s.moduleId then own != List.replicate 32 0 else own != imgDig ents f))

/-! ### All conditions -/

/-- Required record types, with what makes a conditional one required (Table 16-6). -/
def State.missing (s : State) : Option (Nat × Nat) :=
  have has (t i : Nat) : Bool := s.image.any (fun r => r.typ == t && r.idx == i)
  have need := [0x0001, 0x0002, 0x0003, 0x0010, 0x0011, 0x0014, 0x0015, 0x0016, 0x0017, 0x0018, 0x0020, 0x002A, 0x0051, 0x0060].map (·, 0)
  have cond := (if bitAt (s.recLe recFault 2305 1) 1 then [(0x0004, 0)] else []) ++
    (if 0 < s.recLe recSafety 10 1 then [(recProctor, 0)] else []) ++
    s.plans.flatMap (fun p => [(recMcast, p), (recBarrier, p)] ++ (if (s.idxs recTracked).contains p then [(recPatch, p)] else [])) ++
    (s.idxs recDeskCtrl).map (fun i => (recObImage, i))
  (need ++ cond).find? (fun k => !has k.1 k.2)

/-- Elements that records of a type hold, at least and at most (Table 16-6). -/
def countOf : List (Nat × Nat × Nat) :=
  [(0x0001, 1, 1), (0x0002, 0, 0x800000), (0x0003, 0, 0x800000), (0x0004, 0, 0x800000), (0x0010, 1, 1), (0x0011, 1, 1), (0x0012, 1, 4),
   (0x0013, 1, 256), (0x0014, 0, 0x400000), (0x0015, 1, 4096), (0x0016, 1, 1), (0x0017, 1, 1), (0x0018, 1, 16), (0x0020, 1, 4096),
   (0x0021, 0, 0x100000), (0x0022, 1, 4096), (0x0023, 1, 1024), (0x0024, 1, 1024), (0x0025, 1, 1024), (0x0026, 64, 64)] ++
  [(0x0027, 256, 256), (0x0028, 1, 1024), (0x0029, 1, 16384), (0x002A, 0, 0x2000), (0x0030, 1, 1), (0x0031, 1, 16), (0x0040, 1, 16),
   (0x0042, 1, 4096), (0x0043, 1, 1), (0x0044, 1, 1), (0x0050, 1, 8), (0x0051, 1, 1), (0x0052, 1, 32), (0x0081, 0, 0x200000), (0x0082, 1, 1)]

/-- A record with more or fewer elements than Table 16-6 gives, or with a reserved field set that no other check reads (R11). -/
def State.badRecord (s : State) (r : ImgRec) : Bool :=
  have n := recCount r.bytes ((knownElem r.typ).getD 1)
  countOf.any (fun c => c.1 == r.typ && !within n c.2.1 c.2.2) ||
    (r.typ == recAttend && (s.elems recAttend r.idx 16).any badAdesc) || (r.typ == recAttGlobal && badAttGlobal r.bytes) ||
    (r.typ == recPrefix && badPrefix r.bytes) || (r.typ == recPsetInit && badPset r.bytes) ||
    (r.typ == recCamInit && (s.elems recCamInit r.idx 8).any badCamInit) || (r.typ == recIsp && badIsp r.bytes) ||
    (r.typ == recProctor && (s.elems recProctor 0 32).any badProctor)

/-- The records that failing load-time conditions concern, as TYPE and INDEX. -/
def State.conditions (s : State) (ents : List ManEnt) : List (Nat × Nat) :=
  have ps := s.plans
  have one := [(badTime (s.recBytes recTime 0), (recTime, 0)), (badJexong (s.recBytes recJexong 0), (recJexong, 0)),
     (badFault (s.recBytes recFault 0), (recFault, 0)), (badContent (s.recBytes recContent 0) || s.badPrograms, (recContent, 0)),
     (s.badHbmMap, (recHbmMap, 0)), (s.badStreams, (recStream, 0)), (s.badHeader, (recHeader, 0)), (s.badOutputs, (recOutput, 0)),
     (s.badSafety, (recSafety, 0)), (s.badClasses, (recCtxClass, 0)), (s.badCameras, (recCamera, 0)), (s.badLidars, (recLidar, 0)),
     (s.badFusion, (recFusion, 0))]
  have two := [((s.elems recBatch 0 48).any s.badBatch, (recBatch, 0)), ((s.elems recRubric 0 32).any s.badRubric, (recRubric, 0)),
     (s.badDigests, (recDigest, 0)), (s.badMapPlan ents, (recMapPlan, 0))]
  have per := ps.flatMap (fun p => [((s.elems recWindow p 32).any badWindow, (recWindow, p)),
     ((s.elems recDetect p 64).any (s.badDetect p), (recDetect, p)), ((s.elems recCodec p 32).any badCodec, (recCodec, p)),
     (s.badTracked p, (recTracked, p))])
  ((one ++ two ++ per).filter (fun x => x.1)).map (fun x => x.2) ++ (s.image.filter s.badRecord).map (fun r => (r.typ, r.idx)) ++
    ps.flatMap (fun p => (s.badDesks p).map (fun i => (recDeskCtrl, i)))

/-- The lowest (TYPE, INDEX) among the records that failing load-time conditions concern (log 45). -/
def State.condition (s : State) (ents : List ManEnt) : Option (Nat × Nat) :=
  (s.conditions ents).foldl (fun (b : Option (Nat × Nat)) x => match b with
    | none => some x
    | some y => if x.1 * 65536 + x.2 < y.1 * 65536 + y.2 then some x else b) none

end Sys2Proof.Machine
end

