-- ==== Sys2Proof/Machine/Supply.lean ====
section
/-! DEFINITION. Supply and thermal supervision, power-over-coax (09, R247; 19, R524 to R542). -/

namespace Sys2Proof.Machine
open Sys2Proof
set_option Elab.async false

/-- Are the supervisors powered? -/
def State.powered (s : State) : Bool := decide (s.pstate ≠ .off)

def State.setPoc (s : State) (c : Nat) (on : Bool) : State :=
  have v := if on then 1 else 0
  (s.wf ⟨A.PWR_POC, c, c⟩ v).wf (F.CSI_LINK_POC_ON c) v

/-- Every power-over-coax port switches off. -/
def State.pocOff (s : State) : State := (List.range 16).foldl (fun (s : State) c => s.setPoc c false) s

/-- POWER_LIMIT and POWER_WARN (Table 19-10). -/
def State.powerLimit (s : State) (cause v : Nat) : State := s.send srcPower .POWER_LIMIT (cause * 2 ^ 36 + v % 2 ^ 16)
def State.powerWarn (s : State) (cause v : Nat) : State := s.send srcPower .POWER_WARN (cause * 2 ^ 36 + v % 2 ^ 16)

/-- The limit cases of the input: the message, the ports, and the undervoltage sequence (R526, R479). -/
def State.inputLimit (s : State) (cause vin : Nat) : State :=
  if !s.powered || s.pw.under.isSome then s
  else
    have s := (s.powerLimit cause vin).pocOff
    ({ s with pw := { s.pw with under := some s.now } }).wf F.PWR_FLAGS_UV 1

/-- UNDERVOLTAGE (R526): the input below 16.5 V for 50 µs. -/
def execUndervoltage (vin : BitVec 16) (s : State) : Host.Outcome State Fault Refusal := .next (s.inputLimit 0 vin.toNat)

/-- OVERVOLTAGE (R526): the input above 60 V for 50 µs. -/
def execOvervoltage (vin : BitVec 16) (s : State) : Host.Outcome State Fault Refusal := .next (s.inputLimit 1 vin.toNat)

/-- HOLD_UP_END (R479, R526): the hold-up time of 10 ms ends and Abnos is in OFF. A return of the input does not stop it (Table 19-12). -/
def execHoldUpEnd (s : State) : Host.Outcome State Fault Refusal :=
  match s.pw.under with
  | none => .next s
  | some t => .next ((s.advanceTo (t + 4000000)).turnOff)

/-- INPUT_WARNING (R526): outside 18 V to 58 V for 10 ms. -/
def execInputWarning (vin : BitVec 16) (s : State) : Host.Outcome State Fault Refusal :=
  if !s.powered || s.flag F.PWR_FLAGS_VIN_WARN then .next s
  else .next ((s.wf F.PWR_FLAGS_VIN_WARN 1).powerWarn 0 vin.toNat)

/-- INPUT_WARNING_CLEAR (R526): the condition has ended. -/
def execInputWarningClear (vin : BitVec 16) (s : State) : Host.Outcome State Fault Refusal :=
  if !s.powered then .next s else .next ((s.wf F.PWR_FLAGS_VIN_WARN 0).wf F.PWR_SUPPLY_VIN vin.toNat)

/-- RAIL_FAULT (R540): an internal rail left its window for 5 µs. -/
def execRailFault (rail : BitVec 16) (s : State) : Host.Outcome State Fault Refusal :=
  if !s.powered then .next s else .next (s.powerLimit 4 rail.toNat)

/-- A reading against its limits (R532): the flag, and the messages as the reading crosses a level. `warn` and `limit` say whether
the reading is at a level, `clear` whether it is 5 °C inside, `was` whether the reading before was at the limit. -/
def State.judgeTemp (s : State) (f : Fld) (cause code : Nat) (warn limit clear was : Bool) : State :=
  have s := if limit && !was then s.powerLimit cause code else s
  if warn && !s.flag f then (s.wf f 1).powerWarn cause code
  else if clear then s.wf f 0 else s

/-- DIE_TEMP_SAMPLE (R532, R541): each 1 ms, the highest die sensor and the measured supply fields. -/
def execDieTempSample (die : BitVec 8) (vin iin pin poc : BitVec 16) (mw : List (BitVec 16)) (s : State) :
    Host.Outcome State Fault Refusal :=
  if !s.powered then .next s
  else
    have c := die.toInt
    have was := decide (115 ≤ toSigned 8 (s.rf F.PWR_TEMP_DIE))
    have s := ((s.wf F.PWR_SUPPLY_VIN vin.toNat).wf F.PWR_SUPPLY_IIN iin.toNat).wf F.PWR_POWER_PIN pin.toNat
    have s := s.wf F.PWR_POWER_POC poc.toNat
    have s := (List.range 16).foldl (fun (s : State) i => match mw[i]? with
       | some w => s.wf (F.PWR_POC_MW_MW i) w.toNat
       | none => s) s
    have s := s.wf F.PWR_TEMP_DIE die.toNat
    have s := if toSigned 8 (s.rf F.PWR_TEMP_DIE_MAX) < c then s.wf F.PWR_TEMP_DIE_MAX die.toNat else s
    .next (s.judgeTemp F.PWR_FLAGS_DIE_WARN 2 die.toNat (decide (105 ≤ c)) (decide (115 ≤ c)) (decide (c ≤ 100)) was)

/-- Coolant limits of the ordering code (Table 19-7): upper and lower warning, upper limit. -/
def coolLimits (grade : Nat) : Int × Int × Int := if grade = 1 then (58, -28, 63) else (68, -43, 73)

/-- COOLANT_TEMP_SAMPLE (R532): each 100 ms. -/
def execCoolantTempSample (inlet : BitVec 8) (s : State) : Host.Outcome State Fault Refusal :=
  if !s.powered then .next s
  else
    have c := inlet.toInt
    let (hi, lo, lim) := coolLimits (s.rf F.SEC_STATUS_GRADE)
    have was := decide (lim < toSigned 8 (s.rf F.PWR_TEMP_COOLANT))
    have s := s.wf F.PWR_TEMP_COOLANT inlet.toNat
    .next (s.judgeTemp F.PWR_FLAGS_COOL_WARN 3 inlet.toNat (decide (hi < c) || decide (c < lo)) (decide (lim < c))
      (decide (c ≤ hi - 5) && decide (lo + 5 ≤ c)) was)

/-- POC_TRIP (R247, R528): the port switches off and CAM_POC is sent; a second trip within 10 s of the first keeps it off. -/
def execPocTrip (camera : Fin 16) (s : State) : Host.Outcome State Fault Refusal :=
  have c := camera.val
  if !s.flag (F.CSI_LINK_POC_ON c) then .next s
  else
    have m := (s.cams[c]?).getD Cam.reset
    have again := match m.pocTrip with
      | some t => decide (s.now ≤ t + 4000000000)
      | none => false
    have s := ((s.setPoc c false).wf (F.CSI_LINK_POC_TRIP c) 1).send (srcCam c) .CAM_POC (c * 2 ^ 36)
    if again then
      .next (({ s with cams := s.cams.modify c (fun m => { m with pocDead := true }) }).wf ⟨A.PWR_POC, 16 + c, 16 + c⟩ 1)
    else .next { s with cams := s.cams.modify c (fun m => { m with pocTrip := some s.now }) }

/-- POC_RESTORE (R247): the port is restored once, 1 s after its first trip. -/
def execPocRestore (camera : Fin 16) (s : State) : Host.Outcome State Fault Refusal :=
  have c := camera.val
  have m := (s.cams[c]?).getD Cam.reset
  match m.pocTrip with
  | some t =>
    if !s.powered || s.pw.under.isSome || m.pocDead || s.flag (F.CSI_LINK_POC_ON c) || s.parked then .next s
    else .next ((s.advanceTo (t + 400000000)).setPoc c true)
  | none => .next s

end Sys2Proof.Machine
end

