-- ==== Sys2Proof/Machine/Boot.lean ====
section
/-! DEFINITION. Reset, start-up and the image load (16, R450, R451; 17, R461 to R470). -/

namespace Sys2Proof.Machine
open Sys2Proof
set_option Elab.async false

/-- µs a step took, and the steps shown (R467). -/
def State.stepDone (s : State) (env : StartEnv) (i : Nat) : State :=
  have us := (env.us[i - 1]?).getD 0
  have s := (s.advance (us * 400)).wf (F.BOOT_T_US (i - 1)) us
  (s.wf F.BOOT_STATUS_STEP i).wf F.PWR_STATE_STEP (i + 1)

/-- Go on with the start while the state is BOOT. -/
def State.inBoot (s : State) (f : State → State) : State := if s.pstate = .boot then f s else s

/-- BOOT ends in HALT with a cause of Table 17-5. -/
def State.bootHalt (s : State) (cause src : Nat) (k : Kind) : State :=
  (s.settle.wf F.BOOT_STATUS_CAUSE cause).enterHalt src k.code

/-- Steps 1 and 2: supply and reset alignment (R464). -/
def State.boot12 (s : State) (env : StartEnv) : State :=
  have us1 := (env.us[0]?).getD 0
  have us2 := (env.us[1]?).getD 0
  have s := ((s.wf (F.BOOT_T_US 0) us1).wf (F.BOOT_T_US 1) us2).wf F.BOOT_STATUS_STEP 2
  have s := ((s.wf F.CLK_STATUS_REF_OK 1).wf F.CLK_STATUS_PLL_LOCK 1).wf F.CLK_STATUS_REPEATS env.repeats.val
  have s := s.wf F.PWR_STATE_STEP 3
  have s := if env.repeats.val = 0 then s else s.wf F.CLK_STATUS_PHASE_ERR 1
  match env.phase with
  | some c => ((s.wf F.CLK_STATUS_PHASE_ERR 1).send srcShk .PHASE_ALIGN (c.val * 2 ^ 36)).bootHalt 5 srcShk .PHASE_ALIGN
  | none => s.wf F.CLK_STATUS_ALIGNED 1

/-- The identity key (R429): seed, life cycle and generation give the key pair. -/
def State.deriveKey (s : State) : State :=
  have m := shake256 (s.sec.seed ++ [0x41, 0x42, 0x4E, 0x4F, 0x53, 0x2D, 0x49, 0x44] ++ leBytes 1 (s.rf F.SEC_STATUS_LC) ++ leBytes 1 1) 96
  let (pk, sk) := Config.slhKeygen m
  have s := (List.range 16).foldl (fun (s : State) i => s.wf (F.SEC_IDPUB_WORD i) (leAt pk (4 * i) 4)) s
  (s.wrN (keyLocket 0) sk).wf F.SEC_STATUS_KEYS 1

/-- The gradebook header and the boot count (R350, R452). -/
def State.countBoot (s : State) : State :=
  have cs := [s.rdN (keyBoot 0 0x3000000) 20, s.rdN (keyBoot 0 0x3001000) 20].filter gbValid
  have best := cs.foldl (fun (m : Nat × Nat) c => if m.1 ≤ leAt c 8 4 then (leAt c 8 4, leAt c 12 4) else m) (0, 0)
  have k := s.gbCopy
  have s := { s with coll := { s.coll with nvmIndex := best.2 % 16384 } }
  (s.wrN (keyBoot 0 k) (gbHeader (best.1 + 1) best.2)).wf F.FLT_BOOTS_BOOTS (best.1 + 1)

/-- Step 3: boot ROM (R424, R429, R434, R350, R463). In BLANK it waits for the factory tester. -/
def State.boot3 (s : State) (env : StartEnv) : State :=
  if s.rf F.SEC_STATUS_LC = 0 then s.wf F.SEC_STATUS_JTAG 0
  else
    have s := s.wf F.SEC_STATUS_JTAG (if lcOpen (s.rf F.SEC_STATUS_LC) then 1 else 0)
    have s := s.wipeLocket
    have s := { s with sec := { s.sec with enclosure := env.enclosure, chal := freeBytes s.freeCount 32 }, freeCount := s.freeCount + 32 }
    have s := if env.enclosure then s else s.deriveKey
    have s := s.countBoot.newChallenge
    have s := match s.pw.clkLoss with
      | some c => (({ s with pw := { s.pw with clkLoss := none } }).send srcPower .CLK_LOSS (c * 2 ^ 36)).settle
      | none => s
    s.stepDone env 3

/-- The TIME and JEXONG records are in force: the TSU counts from BELL_EPOCH (R279), ports take their latencies, the provisional ID its module. -/
def State.takeTime (s : State) (recs : List ImgRec) : State :=
  have had := !(s.recBytes recTime 0).isEmpty
  have s := { s with image := recs }
  if (s.recBytes recTime 0).isEmpty then s
  else
    have b := s.recBytes recTime 0
    have s := if had then s else { s with tsu := s.tsu.ofUnits (s.tsu.units + s.epochNs * 4294967296) }
    have s := (List.range 6).foldl (fun (s : State) n =>
       ((s.wf (F.TSU_PORT_IN_INGRESS n) (leAt b (48 + 12 * n) 4)).wf (F.TSU_PORT_EG_EGRESS n) (leAt b (52 + 12 * n) 4)).wf
         (F.TSU_PORT_ASYM_ASYM n) (leAt b (56 + 12 * n) 4)) s
    have s := (List.range 6).foldl (fun (s : State) n => if bitAt s.gmPorts n then s.wf (F.TSU_PORT_STAT_ROLE n) 2 else s) s
    have s := s.wf ⟨A.I3C_PID_LO, 15, 14⟩ s.moduleId
    (s.wf F.JXL_STATUS_MODULE s.moduleId).wf F.JXL_STATUS_MASTER (if s.isMaster ∧ 1 < s.modules then 1 else 0)

/-- Step 4: check_slot for both slots and the selected slot's TIME and JEXONG records (R450, R467). -/
def State.boot4 (s : State) (env : StartEnv) : State :=
  have s := (s.reportSlot 0).reportSlot 1
  have ok (d : Nat) : Nat := if (s.checkSlot d).1 = 0 then 1 else 0
  have s := (s.wf F.BOOT_SLOTS_STATE_A (s.slotSt 0)).wf F.BOOT_SLOTS_CHECK_A (ok 0)
  have s := (s.wf F.BOOT_SLOTS_STATE_B (s.slotSt 1)).wf F.BOOT_SLOTS_CHECK_B (ok 1)
  have s := match s.slotList with
    | d :: _ =>
      have es := (s.slotEnts d).filter (fun (e : ManEnt) => e.typ == recTime || e.typ == recJexong)
      if (s.digestBad d es).isSome then s else s.takeTime (es.map (s.entRec d))
    | [] => s
  s.stepDone env 4

/-- The HBM repair list of the stores: the first copy whose CRC is valid (Table 16-11). -/
def State.repairList (s : State) : List (Nat × Nat) :=
  have cs := [s.rdN (keyBoot 0 0x3503000) 516, s.rdN (keyBoot 1 0x3503000) 516].filter (fun b => leAt b 512 4 == crc32c (b.take 512))
  have b := cs.headD []
  (((List.range 128).map (fun i => leAt b (4 * i) 4)).filter (fun w => bitAt w 31)).map (fun w => (bits w 24 20, w))

/-- Step 5: repair, training and zero fill (R213). -/
def State.boot5 (s : State) (env : StartEnv) : State :=
  have l := s.repairList
  have s := ({ s with memc := { s.memc with repair := l } }).wf F.MEM_REPAIR_REPAIRED l.length
  have bad := (List.range 32).foldl (fun m i => if env.hbmBad.any (fun x => x.val == i) then m + 2 ^ i else m) 0
  have s := s.wf F.MEM_TRAIN_PASS (2 ^ 32 - 1 - bad)
  if bad ≠ 0 then (s.send (srcHbm 0) .HBM_TRAIN bad).bootHalt 3 (srcHbm 0) .HBM_TRAIN
  else (((s.zeroRange 0 0x600000000).wf F.MEM_STATUS_TRAINED 1).wf F.MEM_STATUS_INIT_DONE 1).stepDone env 5

/-- The FLT registers of the fault record (R344, R360, R371). -/
def State.loadFault (s : State) : State :=
  have b := s.recBytes recFault 0
  have s := (List.range 256).foldl (fun (s : State) k =>
     (s.wf (F.FLT_KSEV_CORE k) (leAt b k 1 % 8)).wf (F.FLT_KSEV_CHIP k) (leAt b k 1 / 16 % 8)) s
  have s := (List.range 512).foldl (fun (s : State) w => s.setReg (A.FLT_SEV w) (BitVec.ofNat 32 (leAt b (256 + 4 * w) 4))) s
  have fl := leAt b 2305 1
  have s := (s.wf F.FLT_ALIVE_FREQ (leAt b 2304 1)).wf F.FLT_STATUS_SAFE_REQ_USED (fl % 2)
  ({ s with coll := { s.coll with loaded := true } }).wf F.LKS_STATUS_SPLIT (fl / 2 % 2)

/-- The FAULT and TEST_CONTENT records of the first slot of the list that holds them good; a slot that does not is refused (R468). -/
def State.rollRecords (s : State) : List Nat → State
  | [] => s
  | d :: r =>
    have es := (s.slotEnts d).filter (fun (e : ManEnt) => e.typ == recFault || e.typ == recContent)
    have s2 := { s with image := s.image ++ es.map (s.entRec d) }
    match s.digestBad d es with
    | some (t, i) => ((s.imgReject d 6 t i).rejectSlot d).rollRecords r
    | none =>
      if es.length < 2 then ((s.imgReject d 7 (if es.any (fun (e : ManEnt) => e.typ == recFault) then recContent else recFault) 0).rejectSlot d).rollRecords r
      else if badFault (s2.recBytes recFault 0) then ((s.imgReject d 7 recFault 0).rejectSlot d).rollRecords r
      else if badContent (s2.recBytes recContent 0) then ((s.imgReject d 7 recContent 0).rejectSlot d).rollRecords r
      else s2.loadFault

/-- Comparator tests (R369): results in LKS_ROLL, ROLL_COMPARE for each that fails. Lanes as TEST_LANE_ROUND numbers them. -/
def State.rollCompare (s : State) (env : StartEnv) : State :=
  have bad (l : Nat) : Bool := env.lanesBad.any (fun x => x.val == l) && !(l == 1 && s.flag F.LKS_STATUS_SPLIT)
  have s := [(0, 0), (1, 1), (4, 2), (2, 3), (3, 4)].foldl (fun (s : State) (x : Nat × Nat) =>
     s.wf ⟨A.LKS_ROLL, x.2, x.2⟩ (if bad x.1 then 0 else 1)) s
  have s := (List.range 66).foldl (fun (s : State) p =>
     s.wf ⟨A.LKS_ROLL_SEQ (p / 32), p % 32, p % 32⟩ (if bad (5 + p) then 0 else 1)) s
  have s := ((List.range 71).filter bad).foldl (fun (s : State) l => (s.send (laneSrc l) .ROLL_COMPARE (laneAddr l)).settle) s
  if (List.range 5).any bad then s.bootHalt 4 srcColl .ROLL_COMPARE else s

/-- The retirement map: the copy with a valid CRC and more valid entries (R394). -/
def State.loadRetired (s : State) : State :=
  have count (b : List Byte) : Nat := ((List.range 528).map (fun i => have w := leAt b (4 * i) 4
     (bits w 7 7) + (bits w 15 15) + (bits w 23 23))).foldl (· + ·) 0
  have cs := [s.rdN (keyBoot 0 0x3502000) 2116, s.rdN (keyBoot 1 0x3502000) 2116].filter (fun b => leAt b 2112 4 == crc32c (b.take 2112))
  have best := cs.foldl (fun (m : List Byte) b => if m.isEmpty || decide (count m < count b) then b else m) []
  if best.isEmpty then s
  else (List.range 528).foldl (fun (s : State) i =>
    have w := leAt best (4 * i) 4
    if w = 0 then s else
      have ret := ((List.range 3).filter (fun j => bitAt w (8 * j + 7))).map (fun j => bits w (8 * j + 6) (8 * j))
      (s.setEng (i / 8) (i % 8) { s.eng (i / 8) (i % 8) with ret := ret }).setReg (A.ENG_RETIRED (i / 8) (i % 8)) (BitVec.ofNat 32 w)) s

/-- Strands of an engine at the start: 96 slots from the lowest healthy strands, the rest at recess (R77). -/
def Eng.fresh (ret : List Nat) : Eng :=
  have ok := (List.range 100).filter (fun k => !ret.contains k)
  { ret := ret, pend := [], rec0 := ok.drop 96, slots := ok.take 96, entered := [] }

/-- The base strand program on every strand (R379, R468): each failing strand is retired at once. -/
def State.rollStrands (s : State) (env : StartEnv) : State :=
  have s := env.strandsBad.foldl (fun (s : State) x => (s.strandFail x.1.val x.2.1.val x.2.2.1.val x.2.2.2.toNat).settle) s
  { s with engs := s.engs.map (fun e => (e.1, Eng.fresh (e.2.ret ++ e.2.pend))) }

/-- Show the strands of the engines that have retired ones. -/
def State.showEngs (s : State) : State :=
  s.engs.foldl (fun (s : State) e =>
    (s.wf (F.ENG_STATUS_SPARES (e.1 / 8) (e.1 % 8)) e.2.spares).wf (F.ENG_STATUS_RECESS0 (e.1 / 8) (e.1 % 8)) (e.2.rec0.headD 0)) s

/-- One base pass of the units (R386, R468): failing CODEC and DETECT units are FAILED. -/
def State.rollUnits (s : State) (env : StartEnv) : State :=
  env.unitsBad.foldl (fun (s : State) x =>
    have u := x.1.val
    have i := x.2.1.val
    have s := (s.segFail u i x.2.2.toNat).settle
    have s := { s with tst := { s.tst with failPend := [] } }
    if u = 4 then s.wf ⟨A.TST_STATUS, 10 + i % 8, 10 + i % 8⟩ 1 else if u = 5 then s.wf ⟨A.TST_STATUS, 6 + i % 4, 6 + i % 4⟩ 1 else s) s

/-- Cores that pass roll call: sequencer comparator, words, 98 strands on every engine, VECTOR and movers, and no fence. -/
def State.healthyCores (s : State) (env : StartEnv) : List Nat :=
  (List.range 66).filter (fun p =>
    !(env.lanesBad.any (fun l => l.val == 5 + p)) && !(env.coresBad.any (fun x => x.val == p)) && !s.fenced p &&
    (List.range 8).all (fun e => decide ((s.eng p e).ret.length ≤ 2)) &&
    !(env.unitsBad.any (fun x => within x.1.val 1 3 && x.2.1.val == p)))

/-- CHIP_SPARE: the two lowest healthy spares and the fenced cores (R57). -/
def State.showSpare (s : State) : State :=
  have sp := (List.range 66).filter (fun q => s.flag (F.CORE_STATE_HEALTHY q) && s.flag (F.CORE_STATE_SPARE q))
  have f := ((List.range 66).filter s.fenced).length
  ((s.wf F.CHIP_SPARE_SPARE0 ((sp[0]?).getD 0x7F)).wf F.CHIP_SPARE_SPARE1 ((sp[1]?).getD 0x7F)).wf F.CHIP_SPARE_FENCED f

/-- The map of logical cores: core n on the n-th healthy core in index order; the rest are spares (R55). -/
def State.mapCores (s : State) (ok : List Nat) : State :=
  have s := ok.foldl (fun (s : State) p => s.wf (F.CORE_STATE_HEALTHY p) 1) s
  have s := (List.range 64).foldl (fun (s : State) n => match ok[n]? with
     | some p => (((s.wf (F.CHIP_REMAP_PHYS n) p).wf (F.CHIP_REMAP_PREV n) p).wf (F.TT_STATUS_MAPPED p) 1).wf (F.TT_STATUS_LOGICAL p) n
     | none => s) s
  ((ok.drop 64).foldl (fun (s : State) p => s.wf (F.CORE_STATE_SPARE p) 1) s).showSpare

/-- ROLL_FAIL (Table 17-9) and HALT. -/
def State.rollFail (s : State) (cause healthy : Nat) : State :=
  (s.send srcPower .ROLL_FAIL (cause * 2 ^ 36 + healthy * 2 ^ 29)).bootHalt 4 srcPower .ROLL_FAIL

/-- Step 6: roll call (R468), with the enclosure's TAMPER (R434) and the phase check (R408). -/
def State.boot6 (s : State) (env : StartEnv) : State :=
  have s := s.rollRecords s.slotList
  have s := if env.enclosure then ((s.wf F.SEC_STATUS_TAMPER 1).send srcSec .TAMPER 0).settle else s
  have s := match env.rollPhase with
    | some c => ((s.wf F.CLK_STATUS_PHASE_ERR 1).send srcShk .PHASE_ALIGN (c.val * 2 ^ 36)).bootHalt 5 srcShk .PHASE_ALIGN
    | none => s
  s.inBoot fun s => (s.rollCompare env).inBoot fun s =>
    have s := s.loadRetired
    have s := (s.rollStrands env).showEngs
    have s := s.rollUnits env
    have ok := s.healthyCores env
    match env.wordBad with
    | some w => s.rollFail (w.val + 1) ok.length
    | none =>
      if env.shkBad then s.rollFail 3 ok.length
      else
        have s := s.mapCores ok
        if ok.length < 64 then s.rollFail 0 ok.length
        else
          have s := if env.safeReq && s.flag F.FLT_STATUS_SAFE_REQ_USED then
              ((s.wf F.FLT_STATUS_SAFE_REQ 1).send srcSafety .SAFE_REQUEST 0).settle else s
          s.inBoot fun s => s.stepDone env 6

/-! ### Step 7 -/

/-- Registers whose reset value is "image" (R451), from the loaded records of slot d. -/
def State.placeRegs (s : State) (d : Nat) : State :=
  have m := s.manBytes d
  have man := shake256 m 32
  have wreg := s.hbmRegion 1
  have refs := (s.elems recDigest 0 48).filter (fun e => match wreg with
     | some (b, n, _) => decide (b ≤ leAt e 0 5) && decide (leAt e 0 5 < b + n)
     | none => false)
  have wd := shake256 (refs.flatMap (fun (e : List Byte) => (e.drop 16).take 32)) 32
  have s := (List.range 8).foldl (fun (s : State) i =>
     (s.wf (F.SEC_MANIFEST_WORD i) (leAt man (4 * i) 4)).wf (F.SEC_WDIG_WORD i) (leAt wd (4 * i) 4)) s
  have s := (s.wf F.SEC_ARB_SVN (manSvn m)).wf F.TST_CONTENT_CONTENT_ID (leAt s.content 4 4)
  have s := (s.wf F.BOOT_RESIDENT_LO_BYTES (manResident m)).wf F.BOOT_RESIDENT_HI_BYTES (manResident m / 2 ^ 32)
  have s := (s.wf F.BOOT_SEQ_LO_SEQ (hdrSeq (s.slotHdr d))).wf F.BOOT_SEQ_HI_SEQ (hdrSeq (s.slotHdr d) / 2 ^ 32)
  have s := (List.range 8).foldl (fun (s : State) i =>
     (s.wf (F.OCM_CPWIN_BASE_WORD i) (s.recLe recHeader (64 + 8 * i) 4)).wf (F.OCM_CPWIN_LEN_WORDS i) (s.recLe recHeader (68 + 8 * i) 4)) s
  (List.range 6).foldl (fun (s : State) n => s.wf (F.ETH_STATUS_IP n) (if s.recLe recOutput (4 + 4 * n) 4 = 0 then 0 else 1)) s

/-- Memory loads of the records: weights and firmware at DEST (Table 16-6). -/
def State.placeMem (s : State) : State :=
  s.image.foldl (fun (s : State) r => if r.typ = 0x0080 ∨ (2 ≤ r.typ ∧ r.typ ≤ 4) then s.wrN (keyHbm r.dest) r.bytes else s) s

/-- Timetable length and multicast groups that the registers show for logical core n on physical core p in a plan (R60, R48). -/
def State.coreRegs (s : State) (plan n p : Nat) : State :=
    have mc := s.recBytes recMcast plan
    have s := s.wf (F.TT_LEN_LEN p)
      (if s.runsCore plan n then insAt ((ttWords (s.recBytes recDeskCtrl (plan * 64 + n))).getLastD 0) else 0)
    (List.range 8).foldl (fun (s : State) e =>
      have w := (List.range 64).foldl (fun m g => if bitAt (leAt mc (64 * g + n) 1) e then m + 2 ^ g else m) 0
      (s.wf (F.ENG_MCAST_LO_GROUPS p e) (w % 2 ^ 32)).wf (F.ENG_MCAST_HI_GROUPS p e) (w / 2 ^ 32)) s

/-- The registers of every mapped core for a plan. -/
def State.planRegs (s : State) (plan : Nat) : State :=
  (List.range 64).foldl (fun (s : State) n => if s.flag (F.TT_STATUS_MAPPED (s.phys n)) then s.coreRegs plan n (s.phys n) else s) s

/-- Load a plan's images into the mapped cores, with the timetable length and the multicast groups (R445, R55). -/
def State.placePlan (s : State) (plan : Nat) : State :=
  have s := s.resetScales plan (fun _ => true)
  ((List.range 64).foldl (fun (s : State) n => if s.runsCore plan n then s.loadCore n (s.phys n) plan else s) s).planRegs plan

/-- An object of the digest list whose bytes differ from its REF (R414, R450). -/
def State.refBad (s : State) : Bool :=
  (s.elems recDigest 0 48).any (fun e => shake256 (s.rdN (keyHbm (leAt e 0 5)) (leAt e 8 4)) 32 != (e.drop 16).take 32)

/-- load (R450): the IMG_REJECT cause with TYPE and INDEX, 0 when done, and the state with the slot's records placed. -/
def State.loadSlot (s : State) (d : Nat) : (Nat × Nat × Nat) × State :=
  have es := s.slotEnts d
  match s.digestBad d es with
  | some (t, i) => ((6, t, i), s)
  | none =>
    have c := s.takeTime (es.map (s.entRec d))
    match c.missing with
    | some (t, i) => ((7, t, i), s)
    | none => match c.condition es with
      | some (t, i) => ((7, t, i), s)
      | none =>
        have c := c.placeMem
        if c.refBad then ((6, recDigest, 0), s)
        else
          have c := (c.loadFault.placeRegs d).placePlan 0
          ((0, 0, 0), c.loadPrefixes.attRegs)

/-- Power-over-coax of every camera with a record switches on during step 7 (R528). -/
def State.pocOn (s : State) : State :=
  (List.range 16).foldl (fun (s : State) c => if (s.camRec c).isSome && !(s.cam c).pocDead then s.setPoc c true else s) s

/-- T_READY (R470, Table 17-5): SIEVE opens; MAINT when it was requested, else the first bell of a single module is set. -/
def State.tReady (s : State) (first : Nat) : State :=
  have s := ({ s with pw := { s.pw with ready := true, first := first, readyAt := s.now } }).sieveStart (s.firstBellAt s.timeUp)
  if s.flag F.PWR_STATE_MAINT_PENDING then
    ((s.setPState .maint).wf F.PWR_STATE_MAINT_PENDING 0).wf F.BOOT_STATUS_CAUSE 2
  else if s.modules ≤ 1 then s.armBell (s.firstBellAt s.timeUp) else s

/-- No slot loads (R450): MAINT with NO_IMAGE. -/
def State.noImage (s : State) : State := (s.setPState .maint).wf F.BOOT_STATUS_CAUSE 1

/-- Try the slots of a list. A load that would outlast the image load watchdog waits for it. -/
def State.loadSlots (s : State) (us : Nat) : List Nat → State
  | [] => s.noImage
  | d :: r =>
    have s := s.wf F.BOOT_STATUS_LOADS (min 3 (s.rf F.BOOT_STATUS_LOADS + 1))
    if 10000000 ≤ us then ({ s with pw := { s.pw with loading := some (s.now, d) } }).wf F.BOOT_WDOG_MS 10000
    else
      let (c, s2) := s.loadSlot d
      if c.1 = 0 then
        have s := (((s2.advance (us * 400)).wf (F.BOOT_T_US 6) us).wf F.BOOT_STATUS_STEP 7).wf F.PWR_STATE_STEP 8
        have s := (s.wf F.BOOT_STATUS_SLOT_VALID 1).wf F.BOOT_STATUS_SLOT d
        s.settle.inBoot fun s => s.tReady 1
      else ((s.imgReject d c.1 c.2.1 c.2.2).rejectSlot d).loadSlots us r

/-- Step 7: model load (R450). -/
def State.boot7 (s : State) (us : Nat) : State := s.pocOn.loadSlots us s.slotList

/-- Steps 1 to 7 of a start whose registers are at reset (Table 17-3). -/
def State.bootUp (s : State) (env : StartEnv) : State :=
  (s.boot12 env).inBoot fun s =>
    have s := s.boot3 env
    if s.rf F.BOOT_STATUS_STEP < 3 then s
    else s.inBoot fun s => (s.boot4 env).inBoot fun s => (s.boot5 env).inBoot fun s => (s.boot6 env).inBoot fun s =>
      s.boot7 ((env.us[6]?).getD 0)

/-- POWER_ON_START (R465, R467): from OFF, or right after reset alignment. -/
def execPowerOnStart (env : StartEnv) (s : State) : Host.Outcome State Fault Refusal :=
  if s.pstate = .off then
    have s := ({ s with pw := { s.pw with clkLoss := none } }).restart
    .next ((s.wf F.PWR_CAUSE_POWER_ON 1).bootUp env)
  else if s.pstate = .boot ∧ s.rf F.BOOT_STATUS_STEP = 0 then .next ((s.wf F.PWR_CAUSE_POWER_ON 1).bootUp env)
  else .next s

/-- NVM writes in progress end: a gradebook entry, a copy of the retirement map, an anti-rollback step (R466). -/
def State.nvmFinish (s : State) : State :=
  have s := match s.coll.nvmBusy with
    | some e => s.nvmPut e
    | none => s
  have s := match s.tst.mapq with
    | d :: _ => s.wrN (keyBoot d 0x3502000) s.retireMap
    | [] => s
  if s.sec.arb.isSome then s.arbBurn else s

/-- WARM_RESET (R465, R466): a requested warm reset, or the return of the clocks after a trip. -/
def execWarmReset (env : StartEnv) (s : State) : Host.Outcome State Fault Refusal :=
  if s.pstate = .off then
    if s.pw.clkLoss.isSome then .next ((s.restart.wf F.PWR_CAUSE_CLK_LOSS 1).bootUp env) else .next s
  else match s.pw.warm with
    | some w =>
      have s := s.nvmFinish.restart
      .next ((s.wf (if w = 1 then F.PWR_CAUSE_WARM_CMD else F.PWR_CAUSE_WARM_CP0) 1).bootUp env)
    | none => .next s

/-- CLOCK_LOSS (R463): ALIVE goes off, every domain is held in reset, and the always-on flag keeps the cause. -/
def execClockLoss (cause : Fin 3) (s : State) : Host.Outcome State Fault Refusal :=
  if s.pstate = .off then .next s
  else .next ({ s with pw := { s.pw with clkLoss := some cause.val } }).turnOff

/-- IMAGE_LOAD_WATCHDOG (R450): 10 s into step 7 the load ends; no state word is programmed, and the next slot of the list loads in
`us` µs. -/
def execImageLoadWatchdog (us : Nat) (s : State) : Host.Outcome State Fault Refusal :=
  match s.pw.loading with
  | none => .next s
  | some (t, d) =>
    have s := (s.advanceTo (t + 4000000000)).imgReject d 8 0 0
    have s := ({ s with pw := { s.pw with loading := none } }).wf F.BOOT_WDOG_MS 0
    .next (s.inBoot fun s => s.loadSlots us (((s.slotList.dropWhile (· != d)).drop 1)))

/-- Ask for a warm reset (R466): ALIVE stops within 10 µs. -/
def State.askReset (s : State) (by' : Nat) : State :=
  ({ s with pw := { s.pw with warm := some by' } }).stopAlive

end Sys2Proof.Machine
end

