-- ==== Sys2Proof/Machine/Outputs.lean ====
section
/-! DEFINITION. Result outputs: EMIT, the CSI output links and the Ethernet destinations (12, R309, R314, R315, R319; 15, R413; 18,
R485 to R506). -/

namespace Sys2Proof.Machine
open Sys2Proof
set_option Elab.async false

/-! ### Sending records (R488, R490, R500, R503) -/

/-- OUT_PORT (Table 18-12). -/
def State.outPort (s : State) (src cause port dataId : Nat) : State :=
  s.send src .OUT_PORT (cause * 2 ^ 36 + port % 16 * 2 ^ 32 + dataId % 4096 * 2 ^ 20)

/-- Ethernet port of destination d. -/
def State.destPort (s : State) (d : Nat) : Nat := leAt (s.destElem d) 0 1 % 8

/-- Queue q's link or port is up: queues 0 to 3 are the CSI links, 4 and up the destinations. -/
def State.queueUp (s : State) (q : Nat) : Bool := if q < 4 then s.flag (F.CSO_STATUS_UP q) else s.flag (F.ETH_STATUS_LINK (s.destPort (q - 4)))

/-- Count n dropped records of a queue. -/
def State.countDrop (s : State) (q n : Nat) : State :=
  if q < 4 then s.bump (F.CSO_DROP_RECORDS q) n else s.bump (F.ETH_DROP_RECORDS (s.destPort (q - 4))) n

def State.queueOf (s : State) (q : Nat) : List OutRec := (s.emit.queues[q]?).getD []
def State.setOutQueue (s : State) (q : Nat) (l : List OutRec) : State := { s with emit := { s.emit with queues := s.emit.queues.set q l } }

/-- A class is served on a queue (R504). -/
def State.served (s : State) (q kind : Nat) : Bool :=
  if q < 4 then s.rf (F.CSO_STATUS_MAJOR q) != 0 else !bitAt (s.rf (F.ETH_DEST_REFUSED (q - 4))) kind

/-- The half of bell N's parity is taken over: the unsent part of older records in it is cut (R490). -/
def State.reuseHalf (s : State) (bell : Nat) : State :=
  (List.range 36).foldl (fun (s : State) q =>
    have cut (r : OutRec) : Bool := decide (r.bell < bell) && (bell - r.bell) % 2 == 0
    have l := s.queueOf q
    (l.filter cut).foldl (fun (s : State) (r : OutRec) =>
      have s := s.countDrop q 1
      if q < 4 then s.outPort srcEmit 4 q r.dataId else s.outPort (srcEth (s.destPort (q - 4))) 4 (s.destPort (q - 4)) r.dataId)
      (s.setOutQueue q (l.filter (fun (r : OutRec) => !cut r)))) s

/-- Queue a record on one link or destination: dropped and counted while the link is down; nothing of a refused class (R500, R503, R504). -/
def State.queueRec (s : State) (q kind : Nat) (r : OutRec) : State :=
  if !s.served q kind then s
  else if !s.queueUp q then s.countDrop q 1
  else s.setOutQueue q (s.queueOf q ++ [r])

/-- Place of an output's record in a half of the output buffer: after the outputs of lower index. -/
def State.outPlace (s : State) (o bell : Nat) : Nat :=
  s.recLe recOutput 32 5 + (bell % 2) * (s.recLe recOutput 40 4 / 2) + ((List.range o).map s.recMax).foldl (· + ·) 0

/-- Destination d takes records: any outside replay, those of the session's port in replay (R419). -/
def State.replayPort (s : State) (d : Nat) : Bool :=
  match s.replay with
  | some rp => s.destPort d == rp.port
  | none => true

/-- Write a record into its half of the output buffer and queue it on every enabled link and destination (R488). -/
def State.emitRecord (s : State) (o bell : Nat) (bytes : List Byte) : State :=
  have e := s.outElem o
  have kind := leAt e 0 1
  have s := s.reuseHalf bell
  have s := match s.addrKey (s.outPlace o bell) with
    | some k => s.store k bytes
    | none => s
  have r : OutRec := { output := o, vc := 0, dataId := leAt e 2 2 % 4096, bell := bell, bytes := bytes, off := 0 }
  -- in replay records leave on the port of the session (R419)
  have s := [10, 11].foldl (fun (s : State) i =>
     have c := leAt e i 1
     if bitAt c 7 && s.replay.isNone then s.queueRec (c % 4) kind { r with vc := c / 4 % 8 } else s) s
  (List.range s.nDest).foldl (fun (s : State) d => if bitAt (leAt e 12 4) d && s.replayPort d then s.queueRec (4 + d) kind r else s) s

/-! ### Streams a result depends on (R34, R314, R321) -/

/-- Streams consumed in the same bell by the station that produces a stream. -/
def State.parents (s : State) (x : Nat) : List Nat :=
  match s.streamElem x with
  | none => []
  | some e =>
    have p := leAt e 2 2 / 8
    ((s.elems recStream 0 48).filter (fun (y : List Byte) => decide (leAt y 22 1 / 16 = 0) &&
      (List.range 4).any (fun i => leAt y (4 + 2 * i) 2 != 0 && leAt y (4 + 2 * i) 2 / 8 == p))).map (fun (y : List Byte) => leAt y 0 2 % 4096)

/-- Add the parents of a set, n times over. -/
def State.ancestors (s : State) (l : List Nat) : Nat → List Nat
  | 0 => l
  | n + 1 =>
    have more := (l.flatMap s.parents).filter (fun x => !l.contains x)
    if more.isEmpty then l else s.ancestors (l ++ more.eraseDups) n

/-- A stream and everything it derives from. -/
def State.derives (s : State) (l : List Nat) : List Nat := s.ancestors l (recCount (s.recBytes recStream 0) 48)

/-- Logical core whose station produces a stream. -/
def State.coreOf (s : State) (x : Nat) : Option Nat :=
  match s.streamElem x with
  | none => none
  | some e => have a := leAt e 2 2; if 3 ≤ stKind a ∧ stKind a ≤ 5 then some (stLoc a / 8) else none

/-- A logical core that abandoned its list or ran nothing in the bell (R22, R55, R186, R330). -/
def State.coreLost (s : State) (n : Nat) : Bool := s.runsCore s.ctxPlan n && !(s.seqOf n).runs

/-- Why results of these streams are void before their tiles are looked at: a reason of Table 18-8, 0 for none. -/
def State.voidReason (s : State) (l : List Nat) : Nat :=
  if s.pstate = .halt then 4
  else if l.any (fun x => ((s.coreOf x).map s.coreLost).getD false) then 10
  else match s.tst.marks.find? (fun m => !m.2.2 && l.contains m.1) with
    | some m => m.2.1
    | none =>
      if s.tt.voidAll || l.any (fun x => s.tt.voidStreams.contains x ||
          ((s.coreOf x).map (fun n => s.tt.voidCores.contains (s.phys n))).getD false) then 4 else 0

/-- Why they are CONTESTED: 0 for none. -/
def State.contestReason (s : State) (l : List Nat) : Nat :=
  ((s.tst.marks.find? (fun m => m.2.2 && l.contains m.1)).map (fun m => m.2.1)).getD 0

/-! ### Payloads (R492 to R495) -/

/-- Object list (R492): none when a COUNT is wrong. -/
def objectList (e det att plan : List Byte) (hasAtt : Bool) : Option (List Byte) :=
  have n := leAt det 0 4
  if leAt e 18 2 < n ∨ (det.length - 16) / 48 < n ∨ (hasAtt ∧ leAt att 0 4 ≠ n) then none
  else
    have warm (c : Nat) : Nat :=
      match (List.range (plan.length / 16)).find? (fun i => leAt plan (16 * i) 2 == c) with
      | some i => leAt plan (16 * i + 2) 1 % 2
      | none => 0
    some (leBytes 4 n ++ leBytes 1 (leAt e 16 1) ++ leBytes 1 (leAt e 17 1) ++ leBytes 10 0 ++ (List.range n).flatMap (fun i =>
      have d := (det.drop (16 + 48 * i)).take 48
      have a := (att.drop (16 + 16 * i)).take 16
      leBytes 2 (leAt d 0 2) ++ leBytes 2 (if hasAtt then warm (leAt a 12 2) else 0) ++ (d.drop 4).take 36 ++
        (if hasAtt then a.take 12 else leBytes 8 0 ++ leBytes 4 0xFFFFFFFF) ++ (d.drop 40).take 4 ++ leBytes 8 0))

/-- Payload of an output from its sources (R492 to R494); none is a format error. -/
def outPayload (e : List Byte) (src : List (List Byte)) : Option (List Byte) :=
  have k := leAt e 0 1
  have at' (i : Nat) : List Byte := (src[i]?).getD []
  if k = 0 then objectList e (at' 0) (at' 1) (at' 2) (leAt e 6 2 != 0)
  else if k = 1 then some ((e.drop 16).take 22 ++ leBytes 10 0 ++ at' 0)
  else some (leBytes 2 (leAt e 16 2) ++ leBytes 2 (leAt e 18 2) ++ leBytes 2 80 ++ leBytes 2 50 ++ leBytes 24 0 ++ at' 0 ++ at' 1)

/-- Report card payload at its cut (R495, Table 18-7). -/
def State.cardPayload (s : State) : List Byte :=
  have es := s.card.entries
  have bell := s.curBell
  have lost := es.any (fun e => leAt e 0 1 == 7 && leAt e 4 4 == bell % 2 ^ 32)
  have flags := (if s.replay.isSome then 1 else 0) + (if lost then 2 else 0) + (if 512 < es.length then 4 else 0) +
    (if s.safety.excluded ∧ s.safety.exclFrom ≤ bell then 8 else 0) + (if s.freeRunning then 16 else 0)
  have bad := decide (s.pstate = .safe) || decide (s.pstate = .halt)
  leBytes 1 s.pstate.code ++ leBytes 1 (if bell = s.bell.started then s.pw.first else 0) ++ leBytes 1 flags ++ leBytes 1 s.jx.failSet ++
    leBytes 4 (s.rf F.TST_CONTENT_CONTENT_ID) ++ leBytes 4 (s.rf F.BOOT_SEQ_LO_SEQ) ++ leBytes 4 (s.rf F.BOOT_SEQ_HI_SEQ) ++
    leBytes 2 (min es.length 512) ++ leBytes 1 s.safety.contest ++
    leBytes 1 ((if s.bell.prevVerdict then 1 else 0) + (if s.bell.prevGate then 2 else 0)) ++
    (List.range 6).flatMap (fun i => leBytes 2 (satU 16 ((s.card.sev[i]?).getD 0))) ++
    leBytes 2 (satU 16 s.card.voids) ++ leBytes 2 (satU 16 s.card.contests) ++
    leBytes 2 (if bad then s.rf F.FLT_SAFE_CAUSE_SOURCE else 0) ++ leBytes 1 (if bad then s.rf F.FLT_SAFE_CAUSE_KIND else 0) ++
    leBytes 25 0 ++ (es.take 512).flatMap id

/-! ### Release (R309, R314, R315, R319, R488, R489, R496) -/

/-- Sources of an output: SRC0, and SRC1 and SRC2 when given. -/
def outSrcs (e : List Byte) : List Nat :=
  leAt e 4 2 % 4096 :: ([6, 8].filter (fun i => leAt e i 2 != 0)).map (fun i => leAt e i 2 % 4096)

/-- What a record says beside its payload: capture time, flags, age. -/
structure OutHead where
  sec : Nat
  ns : Nat
  flags : Nat
  age : Nat
  deriving DecidableEq, Repr

/-- The record of an output for a bell (R491); every class is version 1.0 in G1. -/
def outBytes (e : List Byte) (bell : Nat) (h : OutHead) (payload : List Byte) : List Byte :=
  extRecord (leAt e 2 2) 1 0 (bell % 2 ^ 32) h.sec h.ns h.flags h.age payload

/-- A CONTESTED SAFE result: the first of a bell adds 1 to the count, which ends at CONTEST_LIMIT (R315). -/
def State.noteContested (s : State) : State :=
  have first := s.safety.safeContested == 0
  have n := s.safety.contest + (if first then 1 else 0)
  have lim := s.recLe recSafety 4 1
  have hit := first && decide (lim ≤ n)
  have s := { s with safety := { s.safety with safeContested := s.safety.safeContested + 1, contest := if hit then 0 else n } }
  if hit then s.send srcSafety .CONTEST_LIMIT lim else s

/-- Count a released result: report card, SAFE streams, B_v of R319 (R315, R319, R494). -/
def State.noteRelease (s : State) (o bell reason : Nat) (flags : Nat) : State :=
  have e := s.outElem o
  have void := bitAt flags 0
  have cont := bitAt flags 2
  have s := s.wf (F.CSO_OUT_BELL_BELL o) bell
  have s := if void then s.bump (F.CSO_OUT_VOID_VOID o) 1 else if cont then s.bump (F.CSO_OUT_VOID_CONTESTED o) 1 else s
  have s := if void || cont then
      have s := { s with card := { s.card with voids := s.card.voids + (if void then 1 else 0), contests := s.card.contests + (if void then 0 else 1) } }
      s.addCard 6 reason (leAt e 2 2 % 4096) (leBytes 2 flags)
    else s
  if leAt e 0 1 = 3 then s
  else
    have safe := (outSrcs e).any (fun x => bitAt (s.streamAttr x) 0)
    have s := if !safe then s
      else if void then { s with safety := { s.safety with safeVoid := s.safety.safeVoid + 1 } }
      else if cont then s.noteContested
      else { s with safety := { s.safety with safeReleased := s.safety.safeReleased + 1 } }
    have traj := s.recLe recSafety 8 2 % 4096
    if leAt e 0 1 = 2 && (outSrcs e).contains traj && !void && !cont && !bitAt flags 7 then
      { s with safety := { s.safety with bv := s.bellEdgeNs bell, bvBell := bell, bvSet := true, gapSent := false } }
    else s

/-- Index of the hallmark output, if any. -/
def State.hallOut (s : State) : Option Nat := (List.range s.nOut).find? (fun o => leAt (s.outElem o) 0 1 == 4)

/-- Hallmark of a record of a stream (R413). -/
def State.hallmark (s : State) (stream bell flags : Nat) : List Byte :=
  shake256 (s.man ++ s.wdig ++ s.emit.entries ++ s.emit.side ++ leBytes 2 stream ++ leBytes 8 bell ++ leBytes 2 flags) 32

/-- The hallmark record after a record of a HALLMARK stream (R415, R496). -/
def State.hallRelease (s : State) (o bell : Nat) (h : OutHead) : State :=
  have e := s.outElem o
  have st := leAt e 4 2 % 4096
  if leAt e 0 1 = 3 || !bitAt (s.streamAttr st) 3 then s
  else
    have d := s.hallmark st bell h.flags
    have s := (s.absorb 3 1644).tally F.SHK_HALLMARKS_COUNT 1
    have s := { s with sec := { s.sec with halls := (st, bell, d) :: s.sec.halls.filter (fun x => x.1 != st) } }
    match s.hallOut with
    | none => s
    | some k =>
      have pay := leBytes 2 (leAt e 2 2 % 4096) ++ leBytes 2 st ++ leBytes 2 h.flags ++ leBytes 2 0 ++ leBytes 8 bell ++ d
      have hd : OutHead := { sec := h.sec, ns := h.ns, flags := if s.freeRunning then flFree else 0, age := 0 }
      (s.emitRecord k bell (outBytes (s.outElem k) bell hd pay)).wf (F.CSO_OUT_BELL_BELL k) bell

/-- Release a record for a bell, with its hallmark record. -/
def State.releaseRec (s : State) (o bell reason : Nat) (h : OutHead) (payload : List Byte) : State :=
  have s := s.emitRecord o bell (outBytes (s.outElem o) bell h payload)
  ((s.noteRelease o bell reason h.flags).hallRelease o bell h)

/-- Release a VOID record (R489); the values of its streams are no base for CONTINUITY (R395). -/
def State.releaseVoid (s : State) (o bell reason : Nat) : State :=
  have e := s.outElem o
  have h : OutHead := { sec := 0, ns := 0, flags := flVoid ||| (if s.freeRunning then flFree else 0), age := 0 }
  have s := if leAt e 0 1 = 3 then s
    else { s with tst := { s.tst with curF := s.tst.curF.filter (fun f => !(outSrcs e).contains (s.rubRec f.1).stream) } }
  s.releaseRec o bell reason h []

/-- Read the sources of an output at EMIT (R36, R488): copy A. -/
def State.readSrcs (s : State) (n w : Nat) (l : List Nat) : List Hdr × List (List Byte) × Bool × State :=
  l.foldl (fun (a : List Hdr × List (List Byte) × Bool × State) x =>
    let (hs, ps, v, s) := a
    let (h, p, void, s) := s.recvStream n (rubWord w) srcEmit (insArg w 55 40) x
    (hs ++ h, ps ++ [p], v || void, s)) ([], [], false, s)

/-- ns since the bell edge at the release (R309); a replay bell's edge is a recorded one, so its start stands for it (R418). -/
def State.sinceEdge (s : State) : Nat := if s.replay.isSome then (s.now - s.bell.start) * 5 / 2 else s.timeNs - s.bell.edge

/-- Header fields a result takes from its source tiles: earliest capture time, flags of R34, and the age at release (R309, R491). -/
def State.headOf (s : State) (hs : List Hdr) : OutHead :=
  let (sec, ns, _, fl) := mergeHdrs hs
  have age := (hs.filter (fun (h : Hdr) => h.sec != 0 || h.ns != 0)).foldl (fun (m : Nat) (h : Hdr) => max m h.age) 0
  { sec := sec, ns := ns, flags := fl, age := satU 32 (age + s.sinceEdge / 1000) }

/-- Form and release an output of the current bell (R488): the checks of R23, the age monitor, the payload. -/
def State.releaseOut (s : State) (n w o : Nat) : State :=
  have e := s.outElem o
  have bell := s.curBell
  have free := if s.freeRunning then flFree else 0
  if leAt e 0 1 = 3 then
    have p := s.cardPayload
    ({ s with card := Card.reset }).releaseRec o bell 0 { sec := 0, ns := 0, flags := free, age := 0 } p
  else if s.safety.excluded && decide (s.safety.exclFrom ≤ bell) then s
  else
    have l := outSrcs e
    have anc := s.derives l
    if s.pstate = .halt then s.releaseVoid o bell 4
    else
      let (hs, ps, void, s) := s.readSrcs n w l
      have why := s.voidReason anc
      if why ≠ 0 then s.releaseVoid o bell why
      else if void then s.releaseVoid o bell 1
      else
        have h := s.headOf hs
        if s.recLe recSafety 0 4 < h.age then
          (s.send srcEmit .AGE_LIMIT ((l.headD 0) * 2 ^ 28 + satU 28 h.age)).releaseVoid o bell 3
        else match outPayload e ps with
          | none => (s.send srcEmit .OUT_FORMAT (leAt e 2 2 % 4096 * 2 ^ 28 + bell % 2 ^ 28)).releaseVoid o bell 8
          | some p =>
            have c := s.contestReason anc
            have fl := h.flags ||| free ||| (if c ≠ 0 then flContested else 0) |||
              (if leAt e 0 1 = 2 ∧ s.safety.fallbackOnly then flFallback else 0)
            s.releaseRec o bell (if c = 0 then 1 else c) { h with flags := fl } p

/-- Cycles of a release (R487). -/
def State.emitCycles (s : State) (o : Nat) : Nat := ceilDiv (s.recMax o) 512 + 64

/-- Mark an output released in the current bell. -/
def State.noteOut (s : State) (o : Nat) : State := { s with emit := { s.emit with released := s.emit.released ++ [o] } }

/-- Next EMIT instruction of a halted core's list whose output has not been released in this bell (R326). -/
def State.haltEmit (s : State) (n : Nat) : Option Nat :=
  have p := s.phys n
  ((List.range (s.dir p 4)).map (s.insWord p)).find? (fun w => insOp w == 0x20 && stKind (insArg w 55 40) == 10 &&
    !s.emit.released.contains (insArg w 39 24))

/-- EMIT_RELEASE (R487, R488, R326): a core's STA to EMIT issues; in HALT its scheduled release is a VOID record. -/
def execEmitRelease (core : Fin 64) (s : State) : Host.Outcome State Fault Refusal :=
  have n := core.val
  if s.pstate = .halt ∧ s.bell.running then
    if !s.runsCore s.ctxPlan n then .next s
    else match s.haltEmit n with
      | none => .next s
      | some w =>
        have s := s.advanceTo (s.bell.start + 2 * insAt w)
        .next ((s.noteOut (insArg w 39 24)).releaseOut n w (insArg w 39 24))
  else match s.issueSta n 10 (fun w => decide (insArg w 39 24 < s.nOut)) with
    | (none, s) => .next s
    | (some (w, _, i), s) =>
      have o := insArg w 39 24
      have s := s.startSta .emit n w i (s.emitCycles o) [] []
      .next (if s.emit.released.contains o then s else (s.noteOut o).releaseOut n w o)

/-- EMIT_RELEASE_COMPLETE (R487). -/
def execEmitReleaseComplete (s : State) : Host.Outcome State Fault Refusal :=
  match s.tt.jobs.find? (fun j => j.kind == .emit) with
  | none => .next s
  | some j => .next (s.endSta j)

/-- This module releases the output in a plan (R328): its own outputs, and the external streams it owns. -/
def State.ownsOut (s : State) (plan o : Nat) : Bool :=
  have b := s.recBytes recMapPlan 0
  match (List.range (leAt b 2 2)).find? (fun x => leAt b (16 + 2 * x) 2 == leAt (s.outElem o) 2 2) with
  | none => true
  | some x => leAt b ((planEntry b plan).1 + 16 + x) 1 == s.moduleId

/-- Outputs that are released by STA. -/
def State.timedOuts (s : State) : List Nat := (List.range s.nOut).filter (fun o => leAt (s.outElem o) 0 1 != 4 && leAt (s.outElem o) 0 1 != 5)

/-- The edge has come: every output not released for the ending bell gets a VOID record (R24, R489). -/
def State.voidUnreleased (s : State) : State :=
  have bell := s.bell.n
  have s := s.timedOuts.foldl (fun (s : State) o =>
     have ex := s.safety.excluded && decide (s.safety.exclFrom ≤ bell) && leAt (s.outElem o) 0 1 != 3
     if s.emit.released.contains o || !s.ownsOut s.jx.failSet o || ex then s
     else
       have r := s.voidReason (s.derives (outSrcs (s.outElem o)))
       s.releaseVoid o bell (if r = 10 then 10 else 7)) s
  { s with emit := { s.emit with released := [] } }

/-- VOID records a new owner owes for the bells after its old owner's last healthy heartbeat, up to the switch (R331). -/
def State.switchFill (s : State) (old new bell : Nat) : State :=
  have b := s.recBytes recMapPlan 0
  s.timedOuts.foldl (fun (s : State) o =>
    match (List.range (leAt b 2 2)).find? (fun x => leAt b (16 + 2 * x) 2 == leAt (s.outElem o) 2 2) with
    | none => s
    | some x =>
      have was := leAt b ((planEntry b old).1 + 16 + x) 1
      if was = s.moduleId ∨ !s.ownsOut new o ∨ s.jx.joinBell = some bell then s
      else
        have first := (((s.jx.peers[was]?).getD Peer.reset).lastGood).map (· + 1) |>.getD s.bell.started
        (List.range (bell - first)).foldl (fun (s : State) i => s.releaseVoid o (first + i) 9) s) s

/-! ### CSI output links (R497, R498, R500, R506) -/

/-- 4,096-byte parts, the last padded with zeros to a multiple of 4 (R498). -/
def csiParts (bs : List Byte) : List (List Byte) :=
  (List.range (ceilDiv bs.length 4096)).map (fun i => have p := (bs.drop (4096 * i)).take 4096; p ++ List.replicate ((4 - p.length % 4) % 4) 0)

/-- CSI_RECORD_SEND (R498): the next queued record leaves as one frame. -/
def execCsiRecordSend (link : Fin 4) (s : State) : Host.Outcome State Fault Refusal :=
  have l := link.val
  match s.queueOf l with
  | [] => .next s
  | r :: rest =>
    if !s.queueUp l then .next s
    else
      have k := leAt (s.outElem r.output) 0 1
      .next ((s.setOutQueue l rest).csiSend l r.vc (r.bell % 65535 + 1) ((csiParts r.bytes).map (fun p => (0x30 + k, p))))

def State.gear (s : State) (l : Nat) : Nat := s.recLe recOutput (28 + l) 1

/-- An output link goes down. -/
def State.csiDown (s : State) (l : Nat) : State :=
  if !s.flag (F.CSO_STATUS_UP l) then s
  else
    have n := (s.queueOf l).length
    have s := ((s.setOutQueue l []).countDrop l n).outPort srcEmit 0 l 0
    (((s.wf (F.CSO_STATUS_UP l) 0).wf (F.CSO_STATUS_GEAR l) 0)).wf ⟨A.CLK_SERDES, 16 + l, 16 + l⟩ 0

/-- CSI_OUT_LINK_DOWN (R462, R500). -/
def execCsiOutLinkDown (link : Fin 4) (s : State) : Host.Outcome State Fault Refusal := .next (s.csiDown link.val)

/-- CSI_OUT_LINK_UP (R500): a used link comes up at its gear. -/
def execCsiOutLinkUp (link : Fin 4) (s : State) : Host.Outcome State Fault Refusal :=
  have l := link.val
  if s.gear l = 0 ∨ s.pstate = .off ∨ s.parked then .next s
  else .next (((s.wf (F.CSO_STATUS_UP l) 1).wf (F.CSO_STATUS_GEAR l) (s.gear l)).wf ⟨A.CLK_SERDES, 16 + l, 16 + l⟩ 1)

/-! ### Ethernet (R501 to R505) -/

/-- Datagram head (Table 18-9) and what follows. -/
def State.resultDg (s : State) (typ dataId bell off : Nat) (data : List Byte) : List Byte :=
  leBytes 1 typ ++ leBytes 1 s.moduleId ++ leBytes 2 dataId ++ leBytes 4 bell ++ leBytes 4 off ++ leBytes 2 data.length ++ leBytes 2 0 ++ data

def State.resultUdp (s : State) : Nat := s.recLe recOutput 2 2

/-- RESULT_SEGMENT_SEND (R502): the next segment of the record at the head of a destination's queue. -/
def execResultSegmentSend (dest : Fin 32) (s : State) : Host.Outcome State Fault Refusal :=
  have d := dest.val
  match s.queueOf (4 + d) with
  | [] => .next s
  | r :: rest =>
    if !s.queueUp (4 + d) then .next s
    else
      have e := s.destElem d
      have seg := (r.bytes.drop r.off).take (leAt e 2 2)
      have off := r.off + seg.length
      have s := s.setOutQueue (4 + d) (if r.bytes.length ≤ off then rest else { r with off := off } :: rest)
      have s := s.out (.udp (s.destPort d) (leAt e 8 6) (leAt e 4 4) (leAt e 14 2) s.resultUdp
         (s.resultDg 1 r.dataId (r.bell % 2 ^ 32) r.off seg))
      .next (s.tally (F.ETH_TX_DATAGRAMS (s.destPort d)) 1)

/-- A port's link goes down (R503). -/
def State.ethDown (s : State) (n : Nat) (pll : Bool) : State :=
  have s := if pll then (s.wf (F.ETH_STATUS_PLL n) 0).wf ⟨A.CLK_SERDES, 20 + n, 20 + n⟩ 0 else s
  if !s.flag (F.ETH_STATUS_LINK n) then s
  else
    have s := s.wf (F.ETH_STATUS_LINK n) 0
    have s := (List.range s.nDest).foldl (fun (s : State) d =>
       if s.destPort d ≠ n then s
       else (s.setOutQueue (4 + d) []).countDrop (4 + d) (s.queueOf (4 + d)).length) s
    s.outPort (srcEth n) 1 n 0

/-- ETH_LINK_DOWN (R503): the link is lost, or its SerDes PLL unlocks. -/
def execEthLinkDown (port : Fin 6) (pll : Bool) (s : State) : Host.Outcome State Fault Refusal := .next (s.ethDown port.val pll)

/-- ETH_LINK_UP (R503). In PARK only the PTP slave port runs (Table 17-6). -/
def execEthLinkUp (port : Fin 6) (s : State) : Host.Outcome State Fault Refusal :=
  have n := port.val
  if s.pstate = .off ∨ (s.parked ∧ n ≠ s.rf F.TSU_STATUS_SLAVE) then .next s
  else .next (((s.wf (F.ETH_STATUS_LINK n) 1).wf (F.ETH_STATUS_PLL n) 1).wf ⟨A.CLK_SERDES, 20 + n, 20 + n⟩ 1)

/-- ETH_FRAME_DISCARD (R501): an IPv4 fragment, a tagged frame or an IPv6 frame. -/
def execEthFrameDiscard (port : Fin 6) (s : State) : Host.Outcome State Fault Refusal :=
  if s.flag (F.ETH_STATUS_LINK port.val) then .next (s.bump (F.ETH_DROP_RX_BAD port.val) 1) else .next s

def State.portIp (s : State) (n : Nat) : Nat := s.recLe recOutput (4 + 4 * n) 4

/-- ARP_REQUEST (R501): answered when it asks for the port's address. -/
def execArpRequest (port : Fin 6) (target : BitVec 32) (peer : UdpFrom) (s : State) : Host.Outcome State Fault Refusal :=
  have ip := s.portIp port.val
  if ip = 0 ∨ target.toNat ≠ ip ∨ !s.flag (F.ETH_STATUS_LINK port.val) then .next s
  else .next (s.out (.arp port.val peer.mac.toNat peer.ip.toNat))

/-- Send a datagram of the result protocol to a peer. -/
def State.replyDg (s : State) (port : Nat) (peer : UdpFrom) (typ : Nat) (data : List Byte) : State :=
  s.out (.udp port peer.mac.toNat peer.ip.toNat peer.udp.toNat s.resultUdp (s.resultDg typ 0 0 0 data))

/-- Entries of a HELLO with CLASS k; Abnos serves classes 0 to 4 on Ethernet, each in version 1.0 (R504). -/
def helloServes (es : List (List Byte)) (k : Nat) : Bool := decide (k < 5) && es.any (fun e => leAt e 0 1 == k && leAt e 1 1 == 1)

/-- A class of a HELLO that cannot be served: REFUSE and OUT_PORT (R504, R505). -/
def State.helloRefuse (s : State) (port : Nat) (peer : UdpFrom) (es : List (List Byte)) (k : Nat) : State :=
  have major := ((es.find? (fun e => leAt e 0 1 == k)).map (fun e => leAt e 1 1)).getD 0
  (s.replyDg port peer 4 (leBytes 1 1 ++ leBytes 1 k ++ leBytes 1 major ++ leBytes 1 0)).outPort (srcEth port) 3 port 0

/-- What a HELLO sets for destination d. -/
def State.helloDest (s : State) (es : List (List Byte)) (classes : List Nat) (d : Nat) : State :=
  classes.foldl (fun (s : State) k => if k < 5 then s.wf ⟨A.ETH_DEST d, 1 + k, 1 + k⟩ (if helloServes es k then 0 else 1) else s)
    (s.wf (F.ETH_DEST_HELLO d) 1)

/-- RESULT_HELLO (R505): the data after the head of a consumer's HELLO. -/
def execResultHello (port : Fin 6) (peer : UdpFrom) (data : List Byte) (s : State) : Host.Outcome State Fault Refusal :=
  have n := port.val
  if s.portIp n = 0 ∨ !s.flag (F.ETH_STATUS_LINK n) then .next s
  else
    have ds := (List.range s.nDest).filter (fun d => s.destPort d == n && leAt (s.destElem d) 4 4 == peer.ip.toNat &&
       leAt (s.destElem d) 14 2 == peer.udp.toNat)
    if ds.isEmpty then .next (s.replyDg n peer 4 (leBytes 1 3 ++ leBytes 3 0))
    else
      have es := (List.range (min (leAt data 0 1) ((data.length - 4) / 4))).map (fun i => (data.drop (4 + 4 * i)).take 4)
      have classes := (es.map (fun e => leAt e 0 1)).eraseDups
      have s := ds.foldl (fun (s : State) d => s.helloDest es classes d) s
      have ok := classes.filter (helloServes es)
      have s := (classes.filter (fun k => !helloServes es k)).foldl (fun (s : State) k => s.helloRefuse n peer es k) s
      .next (if ok.isEmpty then s
        else s.replyDg n peer 3 (leBytes 1 ok.length ++ leBytes 3 0 ++ ok.flatMap (fun k => leBytes 1 k ++ leBytes 1 1 ++ leBytes 2 0)))

/-- What a declared version gives: the agreed major, 0 when refused, and minor (R504). -/
def agree (major _minor : Nat) : Nat × Nat := if major = 1 then (1, 0) else (0, 0)

/-- DECLARE (R506): a CSI link consumer's version. -/
def State.declareLink (s : State) (l major minor : Nat) : State :=
  have a := agree major minor
  have s := (s.wf (F.CSO_STATUS_MAJOR l) a.1).wf (F.CSO_STATUS_MINOR l) a.2
  if a.1 = 0 then s.outPort srcEmit 3 l 0 else s

end Sys2Proof.Machine
end

