-- ==== Sys2Proof/Machine/Power.lean ====
section
/-! DEFINITION. Power states and their moves: reset, MAINT and PARK requests, PARK entry and the wake (08, R214; 07, R190 to R192; 17,
R466, R474 to R478, R484). -/

namespace Sys2Proof.Machine
open Sys2Proof
set_option Elab.async false

/-! ### Requests (R466, R474, Table 17-12) -/

def pwrKey : Nat := 0x9C3E

/-- MAINT takes effect at the next bell edge, or at the end of step 7; it replaces a pending PARK. -/
def State.askMaint (s : State) : State :=
  ({ s with pw := { s.pw with reqAt := s.now } }.wf F.PWR_STATE_MAINT_PENDING 1).wf F.PWR_STATE_PARK_PENDING 0

/-- PARK takes effect at the next bell edge; it replaces a pending MAINT of an earlier cycle. -/
def State.askPark (s : State) : State :=
  if s.flag F.PWR_STATE_MAINT_PENDING && s.pw.reqAt == s.now then s
  else ({ s with pw := { s.pw with reqAt := s.now } }.wf F.PWR_STATE_PARK_PENDING 1).wf F.PWR_STATE_MAINT_PENDING 0

/-- A write of PWR_CTRL acts with KEY 0x9C3E from CP0 in machine mode; any other is ignored with REG_DENIED (R466). -/
def State.pwrWrite (s : State) (req : Requester) (mmode : Bool) (value : Nat) (bit : Nat) (f : State → State) : State :=
  s.cmdWrite req A.PWR_CTRL fun s =>
    if cp0m req mmode && bits value 31 16 == pwrKey then (if bitAt value bit then f s else s)
    else s.deny req A.PWR_CTRL

/-- PWR_CTRL_RESET (R466): ALIVE stops and a warm reset is asked for. -/
def execPwrCtrlReset (req : Requester) (mmode : Bool) (value : BitVec 32) (s : State) : Host.Outcome State Fault Refusal :=
  .next (s.pwrWrite req mmode value.toNat 0 (fun s => s.askReset 2))

/-- PWR_CTRL_PARK (R474): only in RUN. -/
def execPwrCtrlPark (req : Requester) (mmode : Bool) (value : BitVec 32) (s : State) : Host.Outcome State Fault Refusal :=
  .next (s.pwrWrite req mmode value.toNat 1 (fun s => if s.pstate = .run then s.askPark else s))

/-! ### PARK entry (R192, R214, R475) -/

/-- Class C banks of the library power down: at once with no write outstanding, else after draining (R192). -/
def State.libDown (s : State) : State :=
  (List.range 256).foldl (fun (s : State) b =>
    if s.memc.bankOff.contains b then s
    else if smGet (fun _ => 0) s.memc.bankOut b = 0 then
      { s with memc := { s.memc with bankOff := b :: s.memc.bankOff } }.wf ⟨A.OCM_LIB_ON (b / 32), b % 32, b % 32⟩ 0
    else { s with memc := { s.memc with bankReq := s.memc.bankReq ++ [(b, s.now)] } }) s

/-- No bell runs and none is set. -/
def State.noBell (s : State) : State :=
  { s with bell := { s.bell with running := false, armed := false, gatePassed := false } }.wf F.JXL_STATUS_PHASE 0

/-- PARK entry at a bell edge (R475). -/
def State.parkEntry (s : State) : State :=
  have s := (s.setPState .park).noBell.stopAlive.stopCompute
  have s := s.pocOff.camClear
  have s := (List.range 6).foldl (fun (s : State) n => if n = s.rf F.TSU_STATUS_SLAVE then s else s.ethDown n true) s
  have s := (List.range 4).foldl (fun (s : State) l => s.csiDown l) s
  have s := (s.wf F.MEM_STATUS_SELF_REFRESH 1).libDown.endUnlock
  have s := ((s.wf F.PWR_STATE_PARK_PENDING 0).bump F.PWR_PARKS_COUNT 1).wf F.TST_STATUS_DIGEST_BUSY 0
  { s with coll := { s.coll with ringsOpen := false }, jx := { s.jx with readySent := none, arm := none, armSent := false, joinBell := none },
           pw := { s.pw with ready := false, wake := none, parkAt := some s.now } }

/-! ### Wake (R190, R191, R214, R476 to R478) -/

/-- W of a wake request: at once, or at the end of PARK entry, which takes 5 ms (R475, R484). -/
def State.wakeStart (s : State) (source : Nat) : State :=
  if !s.parked || s.pw.under.isSome then s
  else
    have s := s.advanceTo (max s.now (((s.pw.parkAt.map (· + 2000000))).getD 0))
    have s := ({ s with pw := { s.pw with wake := some s.now }, harts := List.replicate 3 Hart.reset }).wf F.PWR_WAKE_SOURCE source
    have s := (s.wf F.MEM_STATUS_SELF_REFRESH 0).wf F.MEM_STATUS_WIPING 1
    have s := (s.wf F.OCM_STATUS_CLEARING 1).wf F.OCM_STATUS_WAKE_SCRUB 1
    s.pocOn

/-- WAKE_REQUEST (R476, R531): a qualified rising edge on WAKE; it has no effect outside PARK. -/
def execWakeRequest (s : State) : Host.Outcome State Fault Refusal :=
  if s.pstate = .off then .next s else .next ((s.wf F.PWR_WAKE_PIN 1).wakeStart 1)

/-- Class C is cleared to zero and powered (R190); ATTEND starts empty (R144). -/
def State.clearC (s : State) : State :=
  have s := (s.zeroRange (keyLib 0) (keyLib 0x8000000)).zeroRange (keyL2 0) (keyL2 0x200000)
  have inC (k : Nat) : Bool := (decide (keyLib 0 ≤ k) && decide (k < keyLib 0x8000000)) || (decide (keyL2 0 ≤ k) && decide (k < keyL2 0x200000))
  have s := { s with ecc := s.ecc.filter (fun p => !inC p.1), att := Att.reset,
                     memc := { s.memc with bankOff := s.memc.bankOff.filter (fun b => decide (256 ≤ b)), bankReq := [], bankOut := [] } }
  have s := (List.range 8).foldl (fun (s : State) i => s.setReg (A.OCM_LIB_ON i) (BitVec.ofNat 32 0xFFFFFFFF)) s
  s.attRegs

/-- The zero fill of every WIPE region (R214). -/
def State.wipeFill (s : State) : State :=
  (s.elems recHbmMap 0 16).foldl (fun (s : State) (e : List Byte) =>
    if bitAt (leAt e 1 1) 1 then
      have lo := leAt e 4 4 * 0x400000
      have hi := lo + leAt e 8 4 * 0x400000
      have s := s.zeroRange lo hi
      { s with ecc := s.ecc.filter (fun p => decide (p.1 < lo) || decide (hi ≤ p.1)) }
    else s) s

/-- The wake scrub pass over class K (R191): a core with an uncorrectable word gets its images again. -/
def State.wakeScrub (s : State) : State :=
  have bad := (s.ecc.filterMap (fun (p : Nat × Nat) => match memPlace p.1 with
     | .sram m c _ _ _ => if m ≤ 1 ∧ 2 ≤ p.2 then some c else none
     | _ => none)).eraseDups
  have s := s.ecc.foldl (fun (s : State) (p : Nat × Nat) => match memPlace p.1 with
     | .sram m c e w src => if m ≤ 1 then s.scrubOne p.1 p.2 m c e w src else s
     | _ => s) s
  bad.foldl (fun (s : State) p => match s.logicalOf p with
    | some n => s.loadCore n p s.ctxPlan
    | none => s) s

/-- Phase 2 on every desk (R113, R191). -/
def State.phase2All (s : State) : State :=
  (List.range 64).foldl (fun (s : State) n =>
    if s.flag (F.TT_STATUS_MAPPED (s.phys n)) && s.runsCore s.ctxPlan n then s.patchCore n (s.phys n) s.ctxPlan else s) s

/-- WAKE_READY (R476 to R478, R556): the last action of a wake has ended, `us` µs after W, at most 20 ms. The operands give the first
temperature reading and the test lanes that missed. A stack over temperature stops the first bell; a HALT recorded in the wake ends it. -/
def execWakeReady (us : Nat) (reading : Option (BitVec 8)) (missed : List (Fin 72)) (s : State) : Host.Outcome State Fault Refusal :=
  match s.pw.wake with
  | none => .next s
  | some w =>
    if s.pw.ready ∨ !s.flag F.OCM_STATUS_CLEARING then .next s
    else
      have us := min us 20000
      have s := (s.tempRead reading).wakeScrub.clearC.wipeFill
      have s := s.advanceTo (w + us * 400)
      have s := (((s.wf F.OCM_STATUS_CLEARING 0).wf F.OCM_STATUS_WAKE_SCRUB 0).wf F.MEM_STATUS_WIPING 0).wf F.PWR_WAKE_US_US us
      have s := (s.phase2All.laneRound missed)
      if s.pstate ≠ .park ∨ s.rf F.MEM_STATUS_TEMP_STATE = 2 then .next s else .next (s.tReady 2)

end Sys2Proof.Machine
end

