-- ==== Sys2Proof/Machine/Bell.lean ====
section
/-! DEFINITION. The bell edge, the health point and the gate point (01, R17 to R30; 11, R290 to R293; 12, R319, R327 to R332; 17, R469 to
R474, R556). -/

namespace Sys2Proof.Machine
open Sys2Proof
set_option Elab.async false

/-! ### The end of a bell (R22, R24, R79, R315, R385) -/

/-- Logical cores whose timetable started in the current bell (R79). -/
def State.ranCores (s : State) : List Nat :=
  (List.range 64).filter (fun n => s.flag (F.TT_STATUS_MAPPED (s.phys n)) &&
    ((s.seqOf n).runs || (s.seqOf n).codeUe || s.flag (F.TT_STATUS_ENDED (s.phys n))))

/-- The edge reaches a core that has not issued END (R22). The address names the task of the next instruction. -/
def State.overrun (s : State) (n : Nat) : State :=
  have p := s.phys n
  if !(s.seqOf n).runs || s.flag (F.TT_STATUS_ENDED p) then s
  else
    have task := insTask (s.insWord p (s.rf (F.TT_PC_PC p)))
    have cyc := s.cycle
    have s := (s.wf (F.TT_STATUS_ABANDONED p) 1).wf (F.TT_STATUS_RUNNING p) 0
    have s := s.setSeq n (fun q => { q with runs := false })
    have s := { s with tt := { s.tt with jobs := s.tt.jobs.filter (fun j => j.core != n) } }
    (s.ttFault p .BELL_OVERRUN task cyc).send (srcSeq p) .BELL_OVERRUN (taskAddr task cyc)

/-- Strands of an engine that were healthy for the whole bell and did not enter recess, or did not complete the program, in it (R79,
R378). -/
def Eng.missed (g : Eng) (tested : List Nat) : Bool :=
  (List.range 100).any (fun k => !g.ret.contains k && !g.pend.contains k && !(g.entered.contains k && tested.contains k))

/-- Strands of engine e of core p that completed a program in the bell with every signature correct (R378). -/
def State.testedOn (s : State) (p e : Nat) : List Nat := (s.tst.tested.filter (fun x => x.1 == p * 8 + e)).map (·.2)

/-- Coverage of the bell just ended, over the cores that ran it (R79, R385). -/
def State.coverage (s : State) (ran : List Nat) : State :=
  have ps := (ran.map s.phys).filter (fun p => !s.fenced p)
  have s := ps.foldl (fun (s : State) p =>
     have s := (List.range 8).foldl (fun (s : State) e => if (s.eng p e).missed (s.testedOn p e) then s.coverageMissed (srcRecess p) 0 p e else s) s
     [1, 2, 3].foldl (fun (s : State) u => if (s.unitT (unitKey u p)).passed then s else s.coverageMissed (srcRecess p) u p 0) s) s
  if ran.isEmpty then s
  else
    have s := (List.range 8).foldl (fun (s : State) n =>
       if (s.unitT (unitKey 4 n)).passed then s else s.coverageMissed (srcCodec n) 4 0x7F n) s
    (List.range 4).foldl (fun (s : State) n =>
      if (s.unitT (unitKey 5 n)).passed then s else s.coverageMissed (srcDetect n) 5 0x7F n) s

/-- The count of CONTESTED bells after a bell without one (R315). -/
def State.contestEnd (s : State) : State :=
  have f := s.safety
  have clean := f.safeContested == 0 && f.safeVoid == 0 && decide (0 < f.safeReleased)
  { s with safety := { f with contest := if clean then 0 else f.contest, safeReleased := 0, safeVoid := 0, safeContested := 0 } }

/-- A CODEC or DETECT unit that failed a segment is FAILED from this edge (R386). -/
def State.failUnits (s : State) : State :=
  have s := s.tst.failPend.foldl (fun (s : State) k =>
     have i := k % 128
     if k / 128 = 4 then s.wf ⟨A.TST_STATUS, 10 + i % 8, 10 + i % 8⟩ 1
     else if k / 128 = 5 then s.wf ⟨A.TST_STATUS, 6 + i % 4, 6 + i % 4⟩ 1 else s) s
  { s with tst := { s.tst with failPend := [] } }

/-- Counters and tests that go by the bell (R91, R184, R393, R394, R395, R398). -/
def State.testEdge (s : State) : State :=
  have s := s.failUnits.sweepEvs
  have s := s.wf F.MEM_BYTES_UNITS (satU 32 (s.memc.moved / 65536))
  have s := { s with engs := s.engs.map (fun (x : Nat × Eng) => (x.1, { x.2 with entered := [] })),
                     tst := { s.tst with units := s.tst.units.map (fun (t : UnitT) => { t with passed := false }), tested := [], marks := [], nans := [],
                                         prevF := s.tst.curF, curF := [], skipCont := false, badNow := s.tst.bad },
                     memc := { s.memc with moved := 0 } }
  (List.range 66).foldl (fun (s : State) p => s.wf (F.TST_UNATTR_COUNT p) (satU 2 (s.unattrCount p))) s

/-- The period of the stall counters after a DEGRADE goes down by one edge (R184). -/
def State.degEdge (s : State) : State :=
  have d := s.rf F.OCM_STATUS_DEG_BELLS
  have s := if d = 0 then s else s.wf F.OCM_STATUS_DEG_BELLS (d - 1)
  s.wf F.OCM_STATUS_CNT_RUN (if 1 < d ∨ s.pstate = .boot ∨ s.pstate = .maint then 1 else 0)

/-- The running bell ends (R22, R24). -/
def State.endBell (s : State) : State :=
  have ran := s.ranCores
  have halt := decide (s.pstate = .halt)
  have s := if halt then s else (List.range 64).foldl (fun (s : State) n => s.overrun n) s
  have s := s.voidUnreleased
  have s := if halt then s else s.coverage ran
  have s := (s.contestEnd.zeroSkipped.rollLive.testEdge).degEdge
  { s with bell := { s.bell with prevVerdict := s.bell.verdict, prevGate := s.bell.gatePassed } }

/-- FALLBACK_GAP at a bell edge B (R319). -/
def State.gapCheck (s : State) (edge : Nat) : State :=
  have g := s.recLe recSafety 6 2
  if g = 0 ∨ s.pstate = .safe ∨ s.safety.gapSent ∨ !s.safety.bvSet ∨ edge ≤ s.safety.bv + g * 1000000 then s
  else ({ s with safety := { s.safety with gapSent := true } }).send srcSafety .FALLBACK_GAP (s.safety.bvBell % 2 ^ 32)

/-- B_v is the edge of bell n (R319). -/
def State.setBv (s : State) (n edge : Nat) : State :=
  { s with safety := { s.safety with bv := edge, bvBell := n, bvSet := true, gapSent := false } }

/-! ### What changes at an edge -/

/-- The remap table takes a spare for a fenced core; a core whose load is not complete runs nothing until a later edge (R55, R57). -/
def State.remapEdge (s : State) : State :=
  have moves := s.tt.remaps.filter (fun (r : Remap) => s.phys r.logical != r.dst)
  have s := { s with memc := { s.memc with remapping := moves.map (fun (r : Remap) => r.logical) } }
  have s := moves.foldl (fun (s : State) (r : Remap) =>
     have old := s.phys r.logical
     have s := ((s.wf (F.CHIP_REMAP_PREV r.logical) old).wf (F.CHIP_REMAP_PHYS r.logical) r.dst).wf (F.CHIP_REMAP_CHANGED r.logical) 1
     have s := (s.wf (F.TT_STATUS_MAPPED old) 0).wf (F.TT_STATUS_RUNNING old) 0
     have s := ((s.wf (F.TT_STATUS_MAPPED r.dst) 1).wf (F.TT_STATUS_LOGICAL r.dst) r.logical).wf (F.CORE_STATE_SPARE r.dst) 0
     (s.coreRegs s.ctxPlan r.logical r.dst).addCard 4 r.logical 0 (leBytes 1 old ++ leBytes 1 r.dst)) s
  { s with tt := { s.tt with remaps := s.tt.remaps.filter (fun r => !r.done) } }.showSpare

/-- The sequence contexts of some classes are EMPTY (R144). -/
def State.emptyClasses (s : State) (which : CtxClass → Bool) : State :=
  (s.classes.filter which).foldl (fun (s : State) k =>
    (List.range k.count).foldl (fun (s : State) i => (s.releaseCtx k (k.first + i)).setC (k.first + i) 2 2 0) s) s

/-- Every sequence context is EMPTY (R471). -/
def State.emptyContexts (s : State) : State := s.emptyClasses (fun _ => true)

/-- Classes that the ATTEND descriptors of a plan name. -/
def State.planClasses (s : State) (plan : Nat) : List Nat := (s.elems recAttend plan 16).map (fun (e : List Byte) => leAt e 1 1)

/-- A network that moves here brings no history: the contexts of classes that only the new plan names are EMPTY (R330). -/
def State.emptyMoved (s : State) (old new : Nat) : State :=
  s.emptyClasses (fun k => (s.planClasses new).contains k.cls && !(s.planClasses old).contains k.cls)

/-- The plan of the failure set for bell n applies (R302, R329, R331). -/
def State.planEdge (s : State) (n : Nat) : State :=
  have s := match (s.jx.switches.filter (fun x => decide (x.1 ≤ n))).getLast? with
    | none => s
    | some (_, f) =>
      have old := s.jx.failSet
      have s := { s with jx := { s.jx with failSet := f, switches := s.jx.switches.filter (fun x => decide (n < x.1)) } }
      have s := ((s.emptyMoved old f).planRegs f).addCard 9 f 0 (leBytes 8 n) |>.switchFill old f n
      s.wf F.JXL_STATUS_MEMBERS (2 ^ s.modules - 1 - f % 2 ^ s.modules)
  { s with jx := { s.jx with joiners := s.jx.joiners.filter (fun x => decide (n < x.2)) } }

/-- An excluded module is admitted at JOIN_BELL: it leaves SAFE, unless a cause of its SAFE needs a reset (R332). -/
def State.joinEdge (s : State) (n edge : Nat) : State :=
  if !s.safety.excluded || s.jx.joinBell != some n then s
  else
    have s := { s with safety := { s.safety with excluded := false } }
    if s.pstate ≠ .safe ∨ s.safety.resetOnly then s
    else
      have s := (s.setPState .run).setBv n edge
      have s := { s with safety := { s.safety with fallbackOnly := false, recovering := false, recWait := false },
                         alive := { s.alive with everStarted := false }, tst := { s.tst with skipCont := true } }
      s.raiseIbi

/-- Recovery bells start at this edge, or the last of them has ended (R319, R327). -/
def State.recoverEdge (s : State) (n edge : Nat) : State :=
  if s.safety.recDone then
    have s := s.setBv n edge
    { s with safety := { s.safety with recDone := false, fallbackOnly := false }, tst := { s.tst with skipCont := true } }
  else if s.safety.recovering && s.safety.recWait then
    { s with safety := { s.safety with recWait := false, recLeft := s.recLe recSafety 5 1 } }
  else s

/-- MAINT is entered at an edge: no bell starts (R474). Asked for in BOOT, it is an outcome of the start (R469). -/
def State.maintEntry (s : State) : State :=
  have s := if s.pstate = .boot then s.wf F.BOOT_STATUS_CAUSE 2 else s
  have s := (s.setPState .maint).noBell.stopAlive.stopCompute
  have s := { s with safety := { s.safety with recovering := false, recWait := false, recDone := false, excluded := false },
                     jx := { s.jx with readySent := none, arm := none, armSent := false, joinBell := none } }
  ((s.wf F.PWR_STATE_MAINT_PENDING 0).wf F.OCM_STATUS_CNT_RUN 1).wf F.TST_STATUS_DIGEST_BUSY 0

/-- Samples completed before a late step are discarded (R292). -/
def State.dropSamples (s : State) : State :=
  have s := { s with cams := s.cams.map (fun (m : Cam) =>
     { m with sets := m.sets.map (fun (x : CamSet) => if x.complete then CamSet.reset else x), newest := none, held := none, lastSel := none,
              bufs := m.bufs.map (fun (b : CamBuf) => if b.st == 2 then CamBuf.reset else b) }) }
  s.sieveDrop (s.firstBellAt s.timeUp)

/-- A held PTP step is applied at edge E, after bell `last` (R292). Bells resume at least a BELL_PERIOD after it. -/
def State.lateStep (s : State) (o : Int) (last : Nat) : State :=
  have s := s.applyStep o
  if !s.flag F.TSU_STATUS_STEPPED then s
  else
    have s := (s.dropSamples.emptyContexts.resetScales s.ctxPlan (fun _ => true)).phase2All
    have s := (s.wf F.TSU_STATUS_LATE_STEP 1).send srcTsu .TIME_LATE_STEP (last % 2 ^ 32)
    have s := { s with bell := { s.bell with running := false, stepFrom := some last }, pw := { s.pw with first := 3 } }
    s.armBell (s.firstBellAt (s.timeUp + s.bellPeriod))

/-! ### The start of a bell (R17, R290, R471) -/

/-- The sequencers start on the bell's ARITH edge (R17); a core waiting for its load or reload, or fenced, runs nothing. -/
def State.startSeqs (s : State) (n : Nat) : State :=
  have s := (List.range 66).foldl (fun (s : State) p => ((s.wf (F.TT_BELL_BELL p) n).wf (F.TT_STATUS_ENDED p) 0).wf (F.TT_STATUS_RUNNING p) 0) s
  (List.range 64).foldl (fun (s : State) m =>
    have p := s.phys m
    have runs := decide (s.pstate ≠ .halt) && s.runsCore s.ctxPlan m && s.flag (F.TT_STATUS_MAPPED p) && s.rf (F.TT_STATUS_LOGICAL p) == m &&
      !s.fenced p && !s.tt.remaps.any (fun r => r.logical == m) && !s.jx.reload.any (fun r => r.1 == m)
    have s := s.setSeq m (fun _ => { Seq.reset with runs := runs })
    if runs then (s.wf (F.TT_STATUS_RUNNING p) 1).wf (F.TT_PC_PC p) 0 else s) s

/-- The weight digest takes its bytes of the bell (R398). -/
def State.digestEdge (s : State) : State :=
  if s.recBytes recDigest 0 = [] ∨ s.pstate = .halt then s
  else
    have s := if s.flag F.TST_STATUS_DIGEST_BUSY then s else { s with tst := { s.tst with dstart := s.now, dlate := false } }.wf F.TST_STATUS_DIGEST_BUSY 1
    { s with tst := { s.tst with dleft := s.tst.dleft + s.digestStep } }

/-- The cores hold the plan of the failure set at a start or a wake of a system of modules (R329). -/
def State.firstPlan (s : State) : State :=
  if s.pw.first ≤ 2 ∧ 1 < s.modules ∧ (s.pw.first = 2 ∨ s.jx.failSet ≠ 0) then s.placePlan s.ctxPlan else s

/-- No history at a first bell (R471). -/
def State.noHistory (s : State) (n : Nat) : State :=
  { s with safety := { s.safety with contest := 0, safeReleased := 0, safeVoid := 0, safeContested := 0 },
           tst := { s.tst with skipCont := true, prevF := [], curF := [], marks := [] },
           bell := { s.bell with started := n, prevVerdict := false, prevGate := false }, emit := { s.emit with released := [] },
           jx := { s.jx with joinBell := if s.pw.first ≤ 2 then none else s.jx.joinBell } }

/-- The registers of a first bell (Table 17-11), and the report card entry of a late step (R293). -/
def State.firstRegs (s : State) (n : Nat) : State :=
  have s := if 1 < s.modules then s.wf F.JXL_STATUS_PHASE 3 else s
  have s := (s.wf F.BOOT_FIRST_LO_BELL n).wf F.BOOT_FIRST_HI_BELL (n / 2 ^ 32)
  have s := if s.pw.first = 1 then (s.wf F.BOOT_STATUS_STEP 8).wf (F.BOOT_T_US 7) ((s.now - s.pw.readyAt) / 400) else s
  match s.bell.stepFrom with
  | some l => { s with bell := { s.bell with stepFrom := none } }.addCard 8 0 0 (leBytes 8 l)
  | none => s

/-- Is SAFE_REQ_N in use and asserted (R360)? -/
def State.safeReq (s : State) : Bool := s.flag F.FLT_STATUS_SAFE_REQ && s.flag F.FLT_STATUS_SAFE_REQ_USED

/-- A start or a wake ends in RUN, or in SAFE after one of R556's causes or with SAFE_REQ_N asserted (R360, R469). -/
def State.firstState (s : State) : State :=
  if s.pstate != .boot && s.pstate != .park then s
  else
    have safe := s.safety.pendingSafe || s.safeReq
    have s := if s.safety.pendingSafe || !safe then s else s.setCause srcSafety Kind.SAFE_REQUEST.code
    have s := { s with safety := { s.safety with pendingSafe := false, fallbackOnly := safe }, alive := { s.alive with everStarted := safe },
                       pw := { s.pw with wake := none } }
    if !safe then s.setPState .run
    else if s.pw.first = 1 then ((s.setPState .safe).wf F.BOOT_STATUS_SAFE_AT_START 1).raiseIbi
    else (s.setPState .safe).raiseIbi

/-- What a first bell sets (R471, R556). -/
def State.firstBell (s : State) (n edge : Nat) : State :=
  ((((s.firstPlan.camFirst.setBv n edge).noHistory n).firstRegs n).firstState)

/-- ISP frames still in processing at the edge (R30, Table 18-8). -/
def State.lateFrames (s : State) : State :=
  s.pipes.zipIdx.foldl (fun (s : State) (x : Option PipeJob × Nat) =>
    match x.1 with
    | some j => (s.bump (F.ISP_FRAMES_LATE x.2) 1).addCard 5 j.cam
        ((((s.cam j.cam).bufs[j.buf]?).map (fun (b : CamBuf) => b.frame)).getD 0) []
    | none => s) s

/-- The fields of bell n at its start. -/
def State.bellOf (s : State) (n edge : Nat) : State :=
  { s with bell := { s.bell with running := true, armed := false, n := n, edge := edge, nextB := edge + s.bellPeriod, start := s.now,
                                 verdict := false, healthDone := false, gateDone := false, gatePassed := false, hbDone := false,
                                 reloadDone := false, phase2Done := false } }

/-- Nothing of the last bell's timetables is left (R50, R52, R321). -/
def State.freshTt (s : State) : State := { s with tt := { Tt.reset with seqs := s.tt.seqs, remaps := s.tt.remaps } }

/-- The snapshot and the frames late for it; INGEST is stopped in HALT (R18, R30, R326). -/
def State.takeSnapshot (s : State) : State := if s.pstate = .halt then s else s.lateFrames.snapshot

/-- Bell n starts: its timetables on the first ARITH edge, and the snapshot (R17, R18, R265). -/
def State.startBell (s : State) (n edge : Nat) (first : Bool) : State :=
  have s := ((s.advance (s.now % 2)).bellOf n edge).rollBell
  have s := if first then s.firstBell n edge else s
  ((s.freshTt.startSeqs n).digestEdge).takeSnapshot

/-! ### BELL_EDGE -/

/-- An edge at which the next bell is due. -/
def State.nextBell (s : State) : State :=
  have n := s.bell.n + 1
  have edge := s.bell.nextB
  have s := (s.remapEdge.planEdge n).joinEdge n edge
  ((s.recoverEdge n edge).gapCheck edge).startBell n edge false

/-- A PTP step held to this edge (R292). -/
def State.heldStep (s : State) : State :=
  match s.tsu.held with
  | some o => s.lateStep o s.bell.n
  | none => s

/-- What was asked for takes effect at an edge: MAINT, also while the first bell is waited for (R469, Table 18-11), or PARK, which is
refused outside RUN (R474, Table 17-12). Otherwise the edge goes on. -/
def State.edgeAsk (s : State) (go : State → State) : State :=
  if s.flag F.PWR_STATE_MAINT_PENDING && (s.pstate == .run || s.pstate == .safe || (s.pstate == .boot && s.pw.ready)) then s.maintEntry
  else if s.flag F.PWR_STATE_PARK_PENDING && s.pstate == .run then s.parkEntry
  else go (s.wf F.PWR_STATE_PARK_PENDING 0)

/-- The edge of a running bell's end: a held step, MAINT, PARK, or the next bell. -/
def State.runningEdge (s : State) : State :=
  (s.advanceToNs s.bell.nextB).endBell.heldStep.edgeAsk fun s => if s.bell.running then s.nextBell else s

/-- The edge of a first bell. -/
def State.firstEdge (s : State) : State :=
  have edge := s.bell.nextB
  have n := (edge - s.epochNs) / s.bellPeriod
  (s.advanceToNs edge).edgeAsk fun s => s.remapEdge.startBell n edge true

/-- BELL_EDGE (R290): the TSU reaches the next bell boundary. With no bell running, the edge is that of the first bell when one is set
for it (R291); otherwise SIEVE closes its generation, as from T_READY at every edge (R470). Replay bells have no edges of their own. -/
def execBellEdge (s : State) : Host.Outcome State Fault Refusal :=
  if s.bellPeriod = 0 ∨ s.replay.isSome ∨ s.pstate = .off then .next s
  else if s.bell.running then .next s.runningEdge
  else
    have g := if s.timeNs ≤ s.genEdge ∧ s.genEdge ≤ s.timeNs + s.bellPeriod then s.sieve.gen else s.firstBellAt (s.timeNs + 1)
    if s.bell.armed && decide (s.bell.nextB ≤ s.bellEdgeNs g) then .next s.firstEdge
    else
      have s := s.advanceToNs (s.bellEdgeNs g)
      .next ((if s.sieveOn then s.closeGen (g + 1) else s).edgeAsk fun s => s)

/-! ### HEALTH_POINT and GATE_POINT -/

/-- HEALTH_POINT (R25): the verdict of bell N; phase 1 of scale adaptation (R111). -/
def execHealthPoint (s : State) : Host.Outcome State Fault Refusal :=
  if !s.bell.running || s.bell.healthDone then .next s
  else
    have s := s.advanceTo (s.bell.start + 2 * s.healthAt)
    have ended := (List.range 64).all (fun n =>
       !(s.seqOf n).codeUe && (!(s.seqOf n).runs || s.flag (F.TT_STATUS_ENDED (s.phys n))))
    have ok := ended && !s.bell.bad && decide (s.pstate ≠ .halt)
    have s := { s with bell := { s.bell with verdict := ok, bad := false, healthDone := true } }
    .next (if s.pstate = .halt then s else s.phase1 ended)

/-- Recovery counts a gate (R327): after the last, ALIVE resumes and RUN is entered. -/
def State.recoveryGate (s : State) (pass : Bool) : State :=
  if !s.safety.recovering || s.safety.recWait then s
  else if !pass then s.endRecovery
  else if s.safety.recLeft ≤ 1 then
    have s := { s with safety := { s.safety with recovering := false, recLeft := 0, recDone := true, contest := 0 },
                       alive := { s.alive with starting := true } }
    (s.setPState .run).raiseIbi
  else { s with safety := { s.safety with recLeft := s.safety.recLeft - 1 } }

/-- What a gate does to ALIVE outside recovery (R26, R332, R355, R357). -/
def State.aliveGate (s : State) (pass : Bool) (cause : Nat) : State :=
  have n := s.bell.n
  if pass then
    if s.pstate = .run ∧ !s.alive.everStarted then { s with alive := { s.alive with starting := true } } else s
  else
    have was := s.alive.toggling
    have missedJoin := s.jx.joinBell == some n
    have s := if was then s.stopAlive
      else { s with alive := { s.alive with starting := false, everStarted := s.alive.everStarted || missedJoin } }
    if was then s.send srcColl .GATE_MISS (cause * 2 ^ 32 + n % 2 ^ 32) else s

/-- GATE_POINT (R26): 200,000 ARITH cycles after the health point. -/
def execGatePoint (s : State) : Host.Outcome State Fault Refusal :=
  if !s.bell.running || !s.bell.healthDone || s.bell.gateDone then .next s
  else
    have s := s.advanceTo (s.bell.start + 2 * (s.healthAt + 200000))
    have n := s.bell.n
    have hb := s.bell.hb.contains (n % 2 ^ 32)
    have pass := s.bell.verdict && hb
    have cause := (if s.bell.verdict then 0 else 1) + (if hb then 0 else if s.bell.hb.isEmpty then 2 else 4)
    have keep := s.bell.hb.filter (fun v => have d := (v + 2 ^ 32 - n % 2 ^ 32) % 2 ^ 32; decide (0 < d) && decide (d < 2 ^ 31))
    have s := { s with bell := { s.bell with hb := keep, gateDone := true, gatePassed := pass } }
    have s := if pass then s.wf F.FLT_GATE_BELL n else s
    if s.replay.isSome then .next s
    else
      have s := (s.recoveryGate pass).aliveGate pass cause
      have s := if s.jx.joinBell == some n then { s with jx := { s.jx with joinBell := none } } else s
      .next s.sendHeartbeat

end Sys2Proof.Machine
end

