-- ==== Sys2Proof/Machine/RegAccess.lean ====
section
/-! DEFINITION. Reads and writes of registers, and accesses of the control pairs and the debugger to the address space (R12, R373,
R436, R509, R514, R543 to R553). -/

namespace Sys2Proof.Machine
open Sys2Proof
set_option Elab.async false

/-- A chip register block or a per-core window (Table 20-1). -/
def inRegs (a : Nat) : Bool :=
  (decide (0x2000000000 ≤ a) && decide (a < 0x2000140000)) || (decide (0x2010000000 ≤ a) && decide (a < 0x2014200000))

/-- An HBM, library or desk-window address (Table 20-1). -/
def inMemories (a : Nat) : Bool :=
  decide (a < 0x600000000) || (decide (0x1000000000 ≤ a) && decide (a < 0x1008000000)) ||
  (decide (0x1100000000 ≤ a) && decide (a < 0x1140000000))

/-! ### Reads (R12, R280, R509, R547, R552) -/

/-- Mask of the bits of a row's fields with an access code. -/
def RegRow.mask (r : RegRow) (c : Acc) : Nat :=
  r.fields.foldl (fun (m : Nat) (f : Nat × Nat × Acc × Nat) => if f.2.2.1 == c then m + (2 ^ (f.1 + 1) - 2 ^ f.2.1) else m) 0

/-- Units 0 to n - 1 of a kind of chip station that a RECESS window reserves now, one bit each (R54). -/
def State.reserved (s : State) (kind n : Nat) : Nat :=
  (List.range n).foldl (fun v u => v + (if s.tt.jobs.any (fun j => j.kind == .recess && stKind j.unit == kind && stLoc j.unit == u) then 2 ^ u else 0)) 0

/-- Current content of a register; the time base, the bell number and the cycle counter are computed. -/
def State.regNow (s : State) (a : Nat) : Nat :=
  if a == A.TSU_SEC_LO then s.tsu.sec % 2 ^ 32
  else if a == A.TSU_SEC_HI then s.tsu.sec / 2 ^ 32 % 2 ^ 16
  else if a == A.TSU_NS then s.tsu.ns
  else if a == A.TSU_FRAC then s.tsu.frac
  else if a == A.TSU_BELL_LO then s.curBell % 2 ^ 32
  else if a == A.TSU_BELL_HI then s.curBell / 2 ^ 32 % 2 ^ 32
  else if a == A.I3C_PID_LO then setBits (s.reg a).toNat 15 14 s.moduleId
  else if decide (0x2010004004 ≤ a) && a % 0x100000 == 0x4004 then (if s.bell.running then s.cycle % 2 ^ 28 else 0)
  else if a == A.FLT_STATUS then setBits (setBits (s.reg a).toNat 8 8 (if s.rf F.SEC_STATUS_LC = 1 then 1 else 0)) 2 0 s.agg
  else if a == A.DET_STATUS then
    setBits (setBits (s.reg a).toNat 15 12 (s.reserved 8 4)) 23 16 (s.reserved 6 8)
  else if decide (0x2010003000 ≤ a) && a % 0x100000 == 0x3000 then
    setBits (s.reg a).toNat 1 1 (if s.tt.jobs.any (fun j => j.kind == .recess && stKind j.unit == 4 && s.phys (stLoc j.unit / 8) == (a - 0x2010003000) / 0x100000)
      then 1 else 0)
  else (s.reg a).toNat

/-- What a register shows: its word, 0 in WO fields and where no register is (R12, R546). -/
def State.regShown (s : State) (a : Nat) : Nat :=
  match regRow? a with
  | none => 0
  | some r => s.regNow a &&& (2 ^ 32 - 1 - r.mask .wo)

/-- Bases of the registers whose name ends in _LO (Tables 20-3, 20-4). -/
def loBases : List Nat :=
  [A.ENG_MCAST_LO 0 0, A.OCM_LAST_LO, A.TSU_SEC_LO, A.TSU_STEP_LO, A.TSU_BELL_LO, A.JXL_FIRST_LO, A.BOOT_RESIDENT_LO,
   A.BOOT_FIRST_LO, A.BOOT_SEQ_LO, A.I3C_PID_LO, A.ETH_MAC_LO]

def isLo (a : Nat) : Bool :=
  match regRow? a with
  | some r => loBases.contains r.base
  | none => false

/-- Registers a _LO read latches: the matching _HI, and for TSU_SEC_LO also NS and FRAC (R280). -/
def latchedBy (a : Nat) : List Nat := if a == A.TSU_SEC_LO then [a + 4, a + 8, a + 12] else [a + 4]

/-- Key of a requester's latch of a register; CP1 and CP1A are one requester (R547). -/
def latchKey (r : Requester) (a : Nat) : Nat := reqCode r * 2 ^ 40 + a

/-- Take every register a _LO read latches. -/
def State.takeLatches (s : State) (req : Requester) (a : Nat) : State :=
  if isLo a then
    { s with latches := (latchedBy a).foldl (fun (l : List (Nat × Nat)) x => smInsert l (latchKey req x) (s.regShown x)) s.latches }
  else s

/-- What a read clears: every RC field, but not through the I3C window (R509); a read of CSI_I2C_RD takes the oldest READ (R241). -/
def State.readClear (s : State) (req : Requester) (a : Nat) : State :=
  match regRow? a with
  | none => s
  | some r =>
    if req = .i3c then s
    else if r.base == A.CSI_I2C_RD 0 0 then
      have c := (a - r.base) / 64
      have q := (a - r.base) % 64 / 16
      (s.setCam c (fun m => { m with reads := m.reads.modify q (fun l => l.drop 1) })).i2cNext c (((s.camOn c)).getD [])
    else if r.mask .rc = 0 then s
    else s.setReg a (BitVec.ofNat 32 ((s.reg a).toNat &&& (2 ^ 32 - 1 - r.mask .rc)))

/-- A window read reaches only the ranges of Table 18-10. -/
def inWindowRange (a : Nat) : Bool :=
  have o := a % 0x10000
  match regBlock a with
  | 0 => decide (o < 0x100)
  | 1 => decide (0x100 ≤ o) && decide (o < 0x200)
  | 2 | 3 | 5 | 7 | 8 | 9 | 12 | 19 => decide (o < 0x100)
  | _ => false

/-- The registers an injection uses: outside FACTORY_TEST they read 0 and send REG_DENIED (R363). -/
def isInj (a : Nat) : Bool := a == A.FLT_INJ_CTRL || a == A.FLT_INJ_ARG0 || a == A.FLT_INJ_ARG1

/-- The word a read returns: the latched value of this requester, once, or what the register shows. -/
def State.readWord (s : State) (req : Requester) (a : Nat) : Nat × State :=
  match smFind s.latches (latchKey req a) with
  | some w => (w, { s with latches := smErase s.latches (latchKey req a) })
  | none => (s.regShown a, s.takeLatches req a)

/-- A read of a register (R12, R544 to R547, R552). -/
def State.readReg (s : State) (req : Requester) (mmode : Bool) (a size : Nat) : State :=
  if !inRegs a || !s.regAnswers a then s.busError req
  else if size ≠ 4 ∨ a % 4 ≠ 0 then s.busError req
  else if req = .i3c && !inWindowRange a then s.out (.bus req false (leBytes 4 0))
  else if a == A.SEC_LKT_DATA then s.locketRead req mmode
  else if isInj a && !s.injectable req mmode then (s.deny req a).out (.bus req false (leBytes 4 0))
  else
    let (w, s) := s.readWord req a
    (s.out (.bus req false (leBytes 4 w))).readClear req a

/-! ### Writes (R12, R368, R436, R509, R514, R545, R546) -/

/-- A word after a write: RW fields take the value, W1C bits written 1 clear, the rest stays (Table 0-6). -/
def RegRow.written (r : RegRow) (old new : Nat) : Nat :=
  have rw := r.mask .rw
  have w1c := r.mask .w1c
  (old &&& (2 ^ 32 - 1 - rw) &&& (2 ^ 32 - 1 - (w1c &&& new))) ||| (new &&& rw)

/-- Registers whose write is a command of its own. -/
def ownRows : List Nat :=
  [A.FLT_ACK, A.FLT_HEARTBEAT, A.FLT_SW, A.FLT_KSEV 0, A.FLT_SEV 0, A.FLT_INJ_CTRL, A.OCM_CNT_CTRL, A.PWR_CTRL, A.SEC_CMD, A.CSI_I2C_CMD 0 0,
   A.CSI_I2C_DATA 0 0, A.ISP_PSET_COMMIT 0, A.TST_REQ, A.I3C_CMD, A.I3C_CMDSET_VER]

/-- Of these, the ones only CP0 in machine mode writes (R345, R353, R354, R368, R387, R466). -/
def cp0Rows : List Nat := [A.FLT_ACK, A.FLT_HEARTBEAT, A.FLT_KSEV 0, A.FLT_SEV 0, A.PWR_CTRL, A.TST_REQ]

/-- May this writer write this register? -/
def State.mayWrite (s : State) (req : Requester) (mmode : Bool) (a : Nat) : Bool :=
  if req = .i3c then regBlock a == 8 && decide (a % 0x10000 < 0x100) && decide (a < 0x2000140000)
  else if decide (0x2000140000 ≤ a) then true
  else if regBlock a == 7 || regBlock a == 8 then cp0m req mmode
  else if isInj a then s.injectable req mmode
  else match regRow? a with
    | none => true
    | some r => if cp0Rows.contains r.base then cp0m req mmode else true

/-- A write of a register without a command of its own. -/
def State.writeReg (s : State) (req : Requester) (mmode : Bool) (a size value : Nat) : State :=
  if !inRegs a || !s.regAnswers a then s.busError req
  else if size ≠ 4 ∨ a % 4 ≠ 0 then (s.deny req a).busError req
  else if !s.mayWrite req mmode a then s.deny req a
  else
    match regRow? a with
    | none => s
    | some r => if ownRows.contains r.base then s else s.setReg a (BitVec.ofNat 32 (r.written (s.reg a).toNat value))

/-- REGISTER_WRITE (R12, R368, R509, R544 to R546): memories are not registers. -/
def execRegisterWrite (req : Requester) (mmode : Bool) (addr : BitVec 40) (size : Fin 65) (value : BitVec 32) (s : State) :
    Host.Outcome State Fault Refusal :=
  if inMemories addr.toNat then .next s else .next (s.writeReg req mmode addr.toNat size.val value.toNat)

/-- READ_CLEAR (R12, R509): a read of a register, which clears its RC fields. -/
def execReadClear (req : Requester) (mmode : Bool) (addr : BitVec 40) (size : Fin 65) (s : State) : Host.Outcome State Fault Refusal :=
  if inMemories addr.toNat then .next s else .next (s.readReg req mmode addr.toNat size.val)

/-- LO_LATCH_READ (R280, R547): a word read of a register whose name ends in _LO. -/
def execLoLatchRead (req : Requester) (mmode : Bool) (addr : BitVec 40) (s : State) : Host.Outcome State Fault Refusal :=
  if isLo addr.toNat then .next (s.readReg req mmode addr.toNat 4) else .next s

/-! ### Accesses of the control pairs and the debugger -/

/-- An access anywhere in the address space: kind 0 a read, 1 a store, 2 a write-back. -/
def State.busAccess (s : State) (req : Requester) (mmode : Bool) (kind a size : Nat) (data : List Byte) : State :=
  if inRegs a then
    if kind = 0 then s.readReg req mmode a size else s.writeReg req mmode a data.length (leNat data)
  else s.cpAccess req kind a size data

/-- CONTROL_PAIR_ACCESS (R177, R180, R186, R203, R544). I3C and the debugger do not make control-pair accesses. -/
def execControlPairAccess (req : Requester) (mmode : Bool) (kind : Fin 3) (addr : BitVec 40) (size : Fin 65) (data : List Byte)
    (s : State) : Host.Outcome State Fault Refusal :=
  if req = .i3c ∨ req = .dbg then .next s
  else .next (s.busAccess req mmode kind.val addr.toNat size.val data)

/-- DEBUG_SYSBUS_ACCESS (R373, R544): made under the limits of a CP0 machine-mode access (R180, R203). -/
def execDebugSysbusAccess (hart : Fin 3) (kind : Fin 3) (addr : BitVec 40) (size : Fin 65) (data : List Byte) (s : State) :
    Host.Outcome State Fault Refusal :=
  if s.dbgOpen hart.val && (s.hart hart.val).attached && bitAt s.sec.scope 2 then
    .next (s.busAccess .dbg true kind.val addr.toNat size.val data)
  else .next s

end Sys2Proof.Machine
end

