-- ==== Sys2Proof/Machine/Staging.lean ====
section
/-! DEFINITION. Staging of a new image over Ethernet or I3C (16, R453 to R459). -/

namespace Sys2Proof.Machine
open Sys2Proof
set_option Elab.async false

/-! ### Datagrams (Table 16-12) -/

def stTyp (d : List Byte) : Nat := leAt d 0 1
def stSession (d : List Byte) : Nat := leAt d 2 2
def stStore (d : List Byte) : Nat := leAt d 4 1
def stOff (d : List Byte) : Nat := leAt d 8 8
def stLen (d : List Byte) : Nat := leAt d 16 2
def stData (d : List Byte) : List Byte := d.drop 24

/-- A datagram Abnos reads: whole, LENGTH at most 1,400, and its CRC good (R454). -/
def stGood (d : List Byte) : Bool :=
  decide (24 ≤ d.length) && d.length == 24 + stLen d && decide (stLen d ≤ 1400) && leAt d 20 4 == crc32c (d.take 20 ++ stData d)

/-- An ACK. -/
def stAck (status session store off : Nat) : List Byte :=
  have h := leBytes 1 5 ++ leBytes 1 status ++ leBytes 2 session ++ leBytes 1 store ++ leBytes 3 0 ++ leBytes 8 off ++ leBytes 2 0 ++ leBytes 2 0
  h ++ leBytes 4 (crc32c h)

/-- STAGE_EVENT (Table 16-13). -/
def State.stageEvent (s : State) (typ status session : Nat) : State :=
  s.send srcSec .STAGE_EVENT (typ % 16 * 2 ^ 36 + status * 2 ^ 32 + session * 2 ^ 16)

/-- Send an ACK: as a datagram, or for I3C at offset 0x8000 of the command buffer, with the command's result (R454, R510). -/
def State.stageAck (s : State) (via : Option Nat) (peer : UdpFrom) (typ status session store off : Nat) : State :=
  have s := if typ ≠ 2 ∨ status ≠ 0 then s.stageEvent typ status session else s
  match via with
  | some p => s.out (.udp p peer.mac.toNat peer.ip.toNat peer.udp.toNat 23063 (stAck status session store off))
  | none =>
    have s := s.wrN (s.i3cBuf 0x8000) (stAck status session store off)
    match s.i3c.running with
    | some (10, tag, _, _) => { s with i3c := { s.i3c with running := some (10, tag, if status = 0 then 0 else 4, [status]) } }
    | _ => s

/-! ### The target slot -/

/-- Show a slot's state after its words changed (Table 17-11). -/
def State.showSlot (s : State) (d : Nat) (check : Nat) : State :=
  if d = 0 then (s.wf F.BOOT_SLOTS_STATE_A (s.slotSt 0)).wf F.BOOT_SLOTS_CHECK_A check
  else (s.wf F.BOOT_SLOTS_STATE_B (s.slotSt 1)).wf F.BOOT_SLOTS_CHECK_B check

/-- The slot loaded in this start. -/
def State.loadedSlot (s : State) : Option Nat := if s.flag F.BOOT_STATUS_SLOT_VALID then some (s.rf F.BOOT_STATUS_SLOT) else none

/-- End of the last model record of a slot: its resident extent (R455). -/
def State.residentEnd (s : State) (d : Nat) : Nat :=
  (manEntries (s.manBytes d)).foldl (fun (m : Nat) (e : ManEnt) => if e.inModel then max m (e.off + e.len) else m) 0

/-- Copy n bytes of the model store from key a to key b. -/
def State.copyRange (s : State) (a b n : Nat) : State :=
  have cells := s.mem.filter (fun (p : Host.Cell) => decide (a ≤ p.1) && decide (p.1 < a + n))
  have s := s.zeroRange b (b + n)
  { s with mem := cells.foldl (fun (m : List Host.Cell) (p : Host.Cell) => smSet memDefault m (p.1 - a + b) p.2) s.mem }

/-- Program bytes of a part; those of the state sector are left out (R456). -/
def State.programPart (s : State) (d store off : Nat) (bs : List Byte) : State :=
  if store = 1 then s.program (modelKey d off) bs
  else
    have n := 0x1000 - min off 0x1000
    have s := s.program (bootKey d off) (bs.take n)
    s.program (bootKey d (max off 0x2000)) (bs.drop (0x2000 - min off 0x2000))

/-! ### Commands of a session -/

def State.endStage (s : State) : State := { s with stage := none }

/-- A session is open for this sender and number. -/
def State.stageOf (s : State) (via : Option Nat) (peer : UdpFrom) (session : Nat) : Option Stage :=
  match s.stage with
  | some g => if g.port == via && g.session == session && (via.isNone || g.peer == peer) then some g else none
  | none => none

/-- OPEN is allowed: target and lengths (R455), and what I3C may stage (R458). -/
def State.openAllowed (s : State) (via : Option Nat) (d : List Byte) : Bool :=
  have t := stStore d
  have boot := leAt (stData d) 0 8
  have model := leAt (stData d) 8 8
  have copy := bitAt (leAt (stData d) 16 1) 0
  decide (t ≤ 1) && s.loadedSlot != some t && decide (boot ≤ bootPart) && decide (model ≤ modelPart) &&
    (!copy || (decide (model = 0) && s.loadedSlot.isSome)) && (via.isSome || copy)

/-- OPEN (R455): answers a status at once when it is refused; otherwise the erase runs. -/
def State.stageOpen (s : State) (via : Option Nat) (peer : UdpFrom) (d : List Byte) : Option Nat × State :=
  if s.pstate ≠ .maint then (some 2, s)
  else if s.stage.isSome then (some 1, s)
  else if !s.openAllowed via d then (some 3, s)
  else
    have t := stStore d
    have s := (s.zeroRange (bootKey t 0x1000) (bootKey t 0x2000)).showSlot t 0
    (none, { s with stage := some { port := via, session := stSession d, target := t, bootLen := leAt (stData d) 0 8,
                                    modelLen := leAt (stData d) 8 8, copy := bitAt (leAt (stData d) 16 1) 0, bootNext := 0, modelNext := 0,
                                    erasing := true, commit := none, peer := peer, last := s.now } })

/-- Next offset expected for a store. -/
def Stage.next (g : Stage) (store : Nat) : Nat := if store = 1 then g.modelNext else g.bootNext
def Stage.len (g : Stage) (store : Nat) : Nat := if store = 1 then g.modelLen else g.bootLen
def Stage.busy (g : Stage) : Bool := g.erasing || g.commit.isSome

/-- DATA (R456, R458); ok false: the store failed. -/
def State.stageData (s : State) (via : Option Nat) (peer : UdpFrom) (d : List Byte) (ok : Bool) : Nat × State :=
  if s.pstate ≠ .maint then (2, s)
  else match s.stageOf via peer (stSession d) with
    | none => (7, s)
    | some g =>
      have s := { s with stage := some { g with last := s.now } }
      have x := stStore d
      have a := stOff d
      have n := stLen d
      if g.busy then (1, s)
      else if 1 < x ∨ (via.isNone ∧ (x = 1 ∨ 256 < n)) then (4, s)
      else if a + n ≤ g.next x then (0, s)
      else if a ≠ g.next x ∨ g.len x < a + n then (4, s)
      else if !ok then (6, s)
      else
        have g := { g with last := s.now, bootNext := if x = 0 then a + n else g.bootNext, modelNext := if x = 1 then a + n else g.modelNext }
        (0, { s.programPart g.target x a (stData d) with stage := some g })

/-- COMMIT (R457): refused until both parts are complete; otherwise the read-back runs. -/
def State.stageCommit (s : State) (via : Option Nat) (peer : UdpFrom) (d : List Byte) : Option Nat × State :=
  if s.pstate ≠ .maint then (some 2, s)
  else match s.stageOf via peer (stSession d) with
    | none => (some 7, s)
    | some g =>
      have g := { g with last := s.now }
      have s := { s with stage := some g }
      if g.busy then (some 1, s)
      else if g.bootNext < g.bootLen ∨ g.modelNext < g.modelLen then (some 4, s)
      else (none, { s with stage := some { g with commit := some ((stData d).take 32) } })

/-- ABORT (R453). -/
def State.stageAbort (s : State) (via : Option Nat) (peer : UdpFrom) (d : List Byte) : Nat × State :=
  if s.pstate ≠ .maint then (2, s)
  else match s.stageOf via peer (stSession d) with
    | none => (7, s)
    | some _ => (0, s.endStage)

/-- Next offset that an ACK for a store states. -/
def State.stageNext (s : State) (store : Nat) : Nat := (s.stage.map (fun g => g.next store)).getD 0

/-- Run one datagram; the ACK of an OPEN or COMMIT that was accepted comes later. -/
def State.stageRun (s : State) (via : Option Nat) (peer : UdpFrom) (d : List Byte) (ok : Bool) : State :=
  have n := stSession d
  have x := stStore d
  if stTyp d = 1 then
    match s.stageOpen via peer d with
    | (some st, s) => s.stageAck via peer 1 st n x 0
    | (none, s) => s
  else if stTyp d = 2 then
    let (st, s) := s.stageData via peer d ok
    s.stageAck via peer 2 st n x (s.stageNext x)
  else if stTyp d = 3 then
    match s.stageCommit via peer d with
    | (some st, s) => s.stageAck via peer 3 st n x (s.stageNext x)
    | (none, s) => s
  else if stTyp d = 4 then
    let (st, s) := s.stageAbort via peer d
    s.stageAck via peer 4 st n x 0
  else s

/-- Over Ethernet (R454): E4 or E5 with an address and its link up; a datagram whose CRC fails gets no reply. -/
def State.stageUdp (s : State) (port typ : Nat) (peer : UdpFrom) (d : List Byte) (ok : Bool) : State :=
  if !stGood d || stTyp d != typ || (port != 4 && port != 5) || !s.flag (F.ETH_STATUS_LINK port) || s.portIp port == 0 || s.pstate == .off then s
  else s.stageRun (some port) peer d ok

/-- STAGE_OPEN (R455). -/
def execStageOpen (port : Fin 6) (peer : UdpFrom) (dg : List Byte) (s : State) : Host.Outcome State Fault Refusal :=
  .next (s.stageUdp port.val 1 peer dg true)

/-- STAGE_DATA (R456). -/
def execStageData (port : Fin 6) (peer : UdpFrom) (dg : List Byte) (ok : Bool) (s : State) : Host.Outcome State Fault Refusal :=
  .next (s.stageUdp port.val 2 peer dg ok)

/-- STAGE_COMMIT (R457). -/
def execStageCommit (port : Fin 6) (peer : UdpFrom) (dg : List Byte) (s : State) : Host.Outcome State Fault Refusal :=
  .next (s.stageUdp port.val 3 peer dg true)

/-- STAGE_ABORT (R453). -/
def execStageAbort (port : Fin 6) (peer : UdpFrom) (dg : List Byte) (s : State) : Host.Outcome State Fault Refusal :=
  .next (s.stageUdp port.val 4 peer dg true)

/-- Steps 2 to 4 of R455: the rest of the target is erased, W is programmed, and the model part is copied. -/
def State.stageErase (s : State) (g : Stage) : State :=
  have t := g.target
  have s := (s.zeroRange (bootKey t 0) (bootKey t (min g.bootLen 0x1000))).zeroRange (bootKey t 0x2000) (bootKey t (max g.bootLen 0x2000))
  have s := s.zeroRange (modelKey t 0) (modelKey t g.modelLen)
  have s := s.program (bootKey t 0x1000) (leBytes 4 markW)
  have s := match s.loadedSlot with
    | some l => if g.copy then s.copyRange (modelKey l 0) (modelKey t 0) (s.residentEnd l) else s
    | none => s
  s.showSlot t 0

/-- STAGE_ERASE_DONE (R455); ok false: a store failed, and OPEN is answered with status 6. -/
def execStageEraseDone (ok : Bool) (s : State) : Host.Outcome State Fault Refusal :=
  match s.stage with
  | none => .next s
  | some g =>
    if !g.erasing then .next s
    else if !ok then .next (s.endStage.stageAck g.port g.peer 1 6 g.session g.target 0)
    else
      have s := { s.stageErase g with stage := some { g with erasing := false } }
      .next (s.stageAck g.port g.peer 1 0 g.session g.target 0)

/-- The checks of COMMIT's read-back (R457). -/
def State.commitGood (s : State) (t : Nat) (man : List Byte) : Bool :=
  (s.checkBody t).1 == 0 && (manEntries (s.manBytes t)).all (fun (e : ManEnt) => shake256 (s.entBytes t e) 32 == e.dig) &&
    shake256 (s.manBytes t) 32 == man &&
    (match s.loadedSlot with
     | some _ => decide (s.rf F.BOOT_SEQ_HI_SEQ * 2 ^ 32 + s.rf F.BOOT_SEQ_LO_SEQ < hdrSeq (s.slotHdr t))
     | none => true)

/-- STAGE_COMMIT_VERIFIED (R457): the session ends with this ACK. -/
def execStageCommitVerified (s : State) : Host.Outcome State Fault Refusal :=
  match s.stage with
  | none => .next s
  | some g =>
    match g.commit with
    | none => .next s
    | some man =>
      have t := g.target
      have ok := s.commitGood t man
      have s := s.endStage
      have s := if ok then (s.program (bootKey t 0x1004) (leBytes 4 markC)).showSlot t 1 else s
      .next (s.stageAck g.port g.peer 3 (if ok then 0 else 5) g.session g.target 0)

/-- STAGE_SESSION_TIMEOUT (R453): 60 s without a valid datagram from the sender. -/
def execStageSessionTimeout (s : State) : Host.Outcome State Fault Refusal :=
  match s.stage with
  | none => .next s
  | some g => .next (s.advanceTo (g.last + 24000000000)).endStage

end Sys2Proof.Machine
end

