-- ==== Sys2Proof/Machine/I3c.lean ====
section
/-! DEFINITION. The I3C target: private writes, commands and common command codes (18, R352, R506 to R514, R517). -/

namespace Sys2Proof.Machine
open Sys2Proof
set_option Elab.async false

/-! ### Commands (R510, Table 18-11) -/

/-- End a command: its result code, TAG and returns. -/
def State.i3cEnd (s : State) (tag code : Nat) (rets : List Nat) : State :=
  have s := { s with i3c := { s.i3c with running := none } }
  have s := (((s.wf F.I3C_RESP_CODE code).wf F.I3C_RESP_TAG tag).wf F.I3C_RESP_DONE 1).wf F.I3C_RESP_BUSY 0
  rets.zipIdx.foldl (fun (s : State) (x : Nat × Nat) => s.wf (F.I3C_RET_RET x.2) (x.1 % 2 ^ 32)) s

/-- Argument i of the command. -/
def State.i3cArg (s : State) (i : Nat) : Nat := s.rf (F.I3C_ARG_ARG i)

/-- CMD_EN of the loaded OUTPUT record; before one is loaded every command is enabled. -/
def State.i3cEnabled (s : State) (op : Nat) : Bool :=
  match s.image.find? (fun r => r.typ == recOutput) with
  | some r => op == 0 || op == 2 || bitAt (leAt r.bytes 50 2) op
  | none => true

/-- The states in which a command is allowed (Table 18-11). -/
def i3cAllowed (op : Nat) (nvm : Bool) : PState → Bool
  | .off => false
  | .boot => op == 0 || op == 1 || op == 2 || op == 4 || op == 8 || op == 11
  | .run => op == 0 || op == 1 || op == 2 || op == 4 || op == 5 || op == 7 || op == 9 || op == 11 || (op == 8 && !nvm)
  | .safe => op == 0 || op == 1 || op == 2 || op == 3 || op == 4 || op == 7 || op == 9 || op == 11 || (op == 8 && !nvm)
  | .halt => op == 0 || op == 2 || op == 8 || op == 11
  | .maint => op == 0 || op == 2 || op == 7 || op == 9 || op == 10 || op == 11 || (op == 8 && !nvm)
  | .park => op == 0 || op == 2 || op == 6

/-- Hardware handles these; CP0 firmware handles the others (R510). -/
def i3cHardware (op : Nat) : Bool := op == 0 || op == 1 || op == 2 || op == 6 || op == 8

/-- The code that ends a command before it acts, 0 if none does: 6, 5, 7, 2, then 3 for a bad argument. -/
def State.i3cRefuse (s : State) (op : Nat) : Nat :=
  if s.rf F.I3C_CMDSET_VER_MAJOR = 0 ∧ op ≠ 0 then 6
  else if 11 < op then 5
  else if !s.i3cEnabled op then 7
  else if !i3cAllowed op (op == 8 && bitAt (s.i3cArg 1) 16) s.pstate then 2
  else if (op = 2 ∨ op = 5) ∧ s.i3cArg 0 ≠ 0x9C3E then 3
  else if op = 8 ∧ (bits (s.i3cArg 1) 8 0 = 0 ∨ 256 < bits (s.i3cArg 1) 8 0) then 3
  else 0

/-- STATUS (Table 18-11): AGG is returned as it stood before the acknowledgement. -/
def State.i3cStatus (s : State) (tag : Nat) : State :=
  have r0 := s.rf F.PWR_STATE_STATE % 8 + s.agg * 8 + s.rf F.FLT_STATUS_ALIVE_ON * 64 + s.rf F.TSU_STATUS_FREE_RUNNING * 128
  have rets := [r0, s.curBell, s.rf F.FLT_SEQ_SEQ, (s.reg A.BOOT_STATUS).toNat]
  have s := if bitAt (s.i3cArg 0) 0 then s.ackAgg else s
  s.i3cEnd tag 0 rets

/-- SEQ of the next entry the HBM ring takes: that of the oldest entry still in the early buffer, or FLT_SEQ (R351). -/
def State.ringNext (s : State) : Nat :=
  match s.coll.early with
  | e :: _ => e.seq
  | [] => s.rf F.FLT_SEQ_SEQ

/-- Keys of the entries GB_READ copies with the SEQ of the first: from the HBM ring by SEQ, or from the NVM ring in ring order. -/
def State.gbEntries (s : State) (nvm : Bool) (first n : Nat) : Nat × List Nat :=
  if nvm then
    have ks := (List.range 16384).map (fun i => keyBoot 0 (0x3002000 + 256 * ((s.coll.nvmIndex + i) % 16384)))
    have ks := (ks.filter (fun k => s.rdLe k 4 != 0xFFFFFFFF && s.rdLe (k + 252) 4 == crc32c (s.rdN k 252) && decide (first ≤ s.rdLe (k + 16) 4))).take n
    (match ks with | k :: _ => s.rdLe (k + 16) 4 | [] => first, ks)
  else
    have lo := max first (s.ringNext - 196608)
    have m := min n (s.ringNext - lo)
    (if m = 0 then first else lo, (List.range m).map (fun i => keyHbm (s.gradebookBase + 256 * ((lo + i) % 196608))))

/-- GB_READ (Table 18-11). -/
def State.gbRead (s : State) (tag : Nat) : State :=
  let (sq, ks) := s.gbEntries (bitAt (s.i3cArg 1) 16) (s.i3cArg 0) (bits (s.i3cArg 1) 8 0)
  have s := ks.zipIdx.foldl (fun (s : State) (x : Nat × Nat) => s.wrN (s.i3cBuf (256 * x.2)) (s.rdN x.1 256)) s
  s.i3cEnd tag 0 [ks.length, sq]

/-- The commands hardware ends at once. -/
def State.i3cHw (s : State) (op tag : Nat) : State :=
  if op = 0 then s.i3cStatus tag
  else if op = 1 then (s.send srcSafety .SAFE_REQUEST 1).i3cEnd tag 0 []
  else if op = 2 then (s.askReset 1).i3cEnd tag 0 []
  else if op = 6 then (s.wakeStart 2).i3cEnd tag 0 []
  else s.gbRead tag

/-- What the running command will answer. -/
def State.i3cWill (s : State) (op tag code : Nat) (rets : List Nat) : State :=
  { s with i3c := { s.i3c with running := some (op, tag, code, rets) } }

/-- Why SAFE_EXIT is refused, 0 if it is accepted (R327, Table 12-8). -/
def State.exitReason (s : State) : Nat :=
  if s.flag F.FLT_STATUS_SAFE_REQ then 1
  else if s.safety.resetOnly then 2
  else if s.safety.excluded then 4
  else if s.safety.recovering then 5
  else 0

/-- SAFE_EXIT (R327): the recovery bells begin at the next edge. -/
def State.safeExit (s : State) (tag : Nat) : State :=
  have why := s.exitReason
  have s := s.sendSafeExit why
  if why = 0 then
    ({ s with safety := { s.safety with recovering := true, recWait := true } }).i3cWill 3 tag 0 []
  else s.i3cWill 3 tag 4 [why]

/-- Request kind 3 (R387): full BIST, in MAINT only. -/
def State.bistStart (s : State) : State :=
  if s.pstate ≠ .maint then s.refuseRequest 0 3
  else if s.tst.bistEnd.isSome then s
  else { s with tst := { s.tst with bistEnd := some (s.now + 100000000) } }

/-- Request kind 4 (R387): every A-PHY and T1 receiver re-equalises, in MAINT only. Its links go down, and come back by their own events. -/
def State.calibrate (s : State) : State :=
  if s.pstate ≠ .maint then s.refuseRequest 0 4
  else
    have s := (List.range 16).foldl (fun (s : State) c =>
       (s.wf F.CLK_SERDES_APHY_RX (setBits (s.rf F.CLK_SERDES_APHY_RX) c c 0)).camDown c) s
    (List.range 6).foldl (fun (s : State) n => s.ethDown n false) s

/-- Reason a request is refused with (Table 14-7). -/
def State.requestWhy (s : State) (r : TestReq) : Option Nat :=
  if r.kind = 3 ∨ r.kind = 4 then (if s.pstate = .maint then none else some 0)
  else
    have limit := if r.kind = 2 then (if r.detect then 4 else 8) else 66
    if 4 < r.kind ∨ limit ≤ r.target then some 2
    else if s.tst.reqs.contains (if r.kind = 2 then r else { r with detect := false }) then none
    else if 16 ≤ s.tst.reqs.length then some 1 else none

/-- SELF_TEST (R387): ARG0 in the layout of TST_REQ. -/
def State.selfTest (s : State) (tag : Nat) : State :=
  have a := s.i3cArg 0
  have r : TestReq := { kind := bits a 2 0, target := bits a 9 3, detect := bitAt a 10 }
  have why := s.requestWhy r
  have s := if r.kind = 3 then s.bistStart else if r.kind = 4 then s.calibrate else s.request r
  match why with
  | none => s.i3cWill 7 tag 0 []
  | some w => s.i3cWill 7 tag 4 [w]

/-- ATTEST (R430): the report of a signing that runs; otherwise the command ends with the reason. -/
def State.attestI3c (s : State) (tag : Nat) : State :=
  let (code, s) := s.attest 1 (s.rdN (s.i3cBuf 0) 52)
  if code = 0 then s.i3cWill 9 tag 0 [] else s.i3cWill 9 tag 4 [code]

/-- No sender: an I3C staging datagram is not answered on Ethernet. -/
def noPeer : UdpFrom := { mac := 0, ip := 0, udp := 0 }

/-- STAGE (R458): the datagram in the command buffer. The answer set first stands only for a session that ends before its ACK (R460). -/
def State.stageI3c (s : State) (tag : Nat) : State :=
  have len := s.rdLe (s.i3cBuf 16) 2
  have d := s.rdN (s.i3cBuf 0) (24 + min len 1400)
  if !stGood d || decide (stTyp d = 0) || decide (4 < stTyp d) then s.i3cWill 10 tag 3 []
  else (s.i3cWill 10 tag 4 [7]).stageRun none noPeer d true

/-- DECLARE (R504, R506). -/
def State.declareI3c (s : State) (tag : Nat) : State :=
  have a := s.i3cArg 0
  have major := bits a 15 8
  have s := s.declareLink (bits a 1 0) major (bits a 23 16)
  if (agree major (bits a 23 16)).1 = 0 then s.i3cWill 11 tag 4 [1] else s.i3cWill 11 tag 0 []

/-- The commands CP0 firmware handles: they act at issue and end with COMMAND_DONE. -/
def State.i3cFw (s : State) (op tag : Nat) : State :=
  have s := s.wf F.I3C_RESP_BUSY 1
  if s.pairStopped 0 then s.i3cWill op tag 0 []
  else if op = 3 then s.safeExit tag
  else if op = 4 then s.askMaint.i3cWill 4 tag 0 []
  else if op = 5 then s.askPark.i3cWill 5 tag 0 []
  else if op = 7 then s.selfTest tag
  else if op = 9 then s.attestI3c tag
  else if op = 10 then s.stageI3c tag
  else s.declareI3c tag

/-- GO (R510): ignored while a command runs; a command that is refused ends at once with its code. -/
def State.i3cGo (s : State) (op tag : Nat) : State :=
  if s.pstate = .off || s.flag F.I3C_RESP_BUSY then s
  else
    have code := s.i3cRefuse op
    if code ≠ 0 then s.i3cEnd tag code []
    else if i3cHardware op then s.i3cHw op tag
    else s.i3cFw op tag

/-- Write the arguments a command uses, then I3C_CMD with GO. In OFF the target answers nothing. -/
def State.i3cIssue (s : State) (op : Nat) (tag : Byte) (args : List (BitVec 32)) : State :=
  if s.pstate = .off then s
  else
    (args.zipIdx.foldl (fun (s : State) (x : BitVec 32 × Nat) => s.wf (F.I3C_ARG_ARG x.2) x.1.toNat) s).i3cGo op tag.toNat

/-- STATUS (R353, R510). -/
def execStatus (tag : Byte) (arg0 : BitVec 32) (s : State) : Host.Outcome State Fault Refusal := .next (s.i3cIssue 0 tag [arg0])

/-- SAFE_ENTER (R324). -/
def execSafeEnter (tag : Byte) (s : State) : Host.Outcome State Fault Refusal := .next (s.i3cIssue 1 tag [])

/-- RESET (R466). -/
def execReset (tag : Byte) (arg0 : BitVec 32) (s : State) : Host.Outcome State Fault Refusal := .next (s.i3cIssue 2 tag [arg0])

/-- SAFE_EXIT (R327). -/
def execSafeExit (tag : Byte) (s : State) : Host.Outcome State Fault Refusal := .next (s.i3cIssue 3 tag [])

/-- MAINT_ENTER (R474). -/
def execMaintEnter (tag : Byte) (s : State) : Host.Outcome State Fault Refusal := .next (s.i3cIssue 4 tag [])

/-- PARK (R474). -/
def execPark (tag : Byte) (arg0 : BitVec 32) (s : State) : Host.Outcome State Fault Refusal := .next (s.i3cIssue 5 tag [arg0])

/-- WAKE (R476). -/
def execWake (tag : Byte) (s : State) : Host.Outcome State Fault Refusal := .next (s.i3cIssue 6 tag [])

/-- SELF_TEST (R387). -/
def execSelfTest (tag : Byte) (arg0 : BitVec 32) (s : State) : Host.Outcome State Fault Refusal := .next (s.i3cIssue 7 tag [arg0])

/-- GB_READ (R348, R350, R510). -/
def execGbRead (tag : Byte) (arg0 arg1 : BitVec 32) (s : State) : Host.Outcome State Fault Refusal := .next (s.i3cIssue 8 tag [arg0, arg1])

/-- ATTEST (R430): the request stands in the command buffer. -/
def execAttest (tag : Byte) (s : State) : Host.Outcome State Fault Refusal := .next (s.i3cIssue 9 tag [])

/-- STAGE (R458): the datagram stands in the command buffer. -/
def execStage (tag : Byte) (s : State) : Host.Outcome State Fault Refusal := .next (s.i3cIssue 10 tag [])

/-- DECLARE (R506). -/
def execDeclare (tag : Byte) (arg0 : BitVec 32) (s : State) : Host.Outcome State Fault Refusal := .next (s.i3cIssue 11 tag [arg0])

/-- May the running command end? Not while its signing runs, nor while its staging step does. -/
def State.i3cCanEnd (s : State) (op : Nat) : Bool :=
  if op = 9 then s.sec.signing.isNone
  else if op = 10 then
    match s.stage with
    | some g => g.port.isSome || (!g.erasing && g.commit.isNone)
    | none => true
  else true

/-- COMMAND_DONE (R510): after `dt` TIME edges firmware ends the running command; a stopped CP0 ends nothing. -/
def execCommandDone (dt : Nat) (s : State) : Host.Outcome State Fault Refusal :=
  match s.i3c.running with
  | none => .next s
  | some (op, tag, code, rets) =>
    if s.pairStopped 0 || !s.i3cCanEnd op then .next s else .next ((s.advance dt).i3cEnd tag code rets)

/-! ### Versions (R504, R506) -/

/-- A write of I3C_CMDSET_VER: declares a version and negotiates. -/
def State.cmdsetDeclare (s : State) (major minor : Nat) : State :=
  have a := agree major minor
  have s := ((s.wf F.I3C_CMDSET_VER_DECL_MAJOR major).wf F.I3C_CMDSET_VER_DECL_MINOR minor)
  have s := (s.wf F.I3C_CMDSET_VER_MAJOR a.1).wf F.I3C_CMDSET_VER_MINOR a.2
  if a.1 = 0 then s.outPort srcI3c 3 0 0 else s

/-- CMDSET_DECLARE (R506, R514): from the I3C controller, or CP0 in machine mode. -/
def execCmdsetDeclare (req : Requester) (mmode : Bool) (major minor : Byte) (s : State) : Host.Outcome State Fault Refusal :=
  .next (s.cmdWrite req A.I3C_CMDSET_VER (fun s =>
    if decide (req = .i3c) || cp0m req mmode then s.cmdsetDeclare major.toNat minor.toNat else s.deny req A.I3C_CMDSET_VER))

/-! ### Private writes (R508, R509) -/

/-- Register address of a window address outside the buffer page; an unmapped one stands for itself. -/
def windowAddr (w : Nat) : Nat :=
  have o := w % 0x100
  match w / 0x100 with
  | 0x00 => 0x2000080000 + o
  | 0x10 => 0x2000030000 + o
  | 0x11 => 0x2000010100 + o
  | 0x12 => 0x2000020000 + o
  | 0x13 => 0x2000050000 + o
  | 0x14 => 0x2000070000 + o
  | 0x15 => 0x2000130000 + o
  | 0x16 => 0x2000000000 + o
  | 0x17 => 0x2000090000 + o
  | 0x18 => 0x20000C0000 + o
  | _ => w

/-- Write one word at a window address. -/
def State.windowWrite (s : State) (w v : Nat) : State :=
  if 0x2000 ≤ w ∧ w < 0x3000 then s.wrN (s.i3cBuf (s.rf F.I3C_PAGE_PAGE * 0x1000 + (w - 0x2000))) (leBytes 4 v)
  else
    have a := windowAddr w
    if 0x100 ≤ w then s.deny .i3c a
    else if a = A.I3C_CMDSET_VER then s.cmdsetDeclare (bits v 15 8) (bits v 7 0)
    else if a = A.I3C_CMD then (if bitAt v 31 then s.i3cGo (bits v 7 0) (bits v 15 8) else s)
    else s.writeReg .i3c false a 4 v

/-- Write consecutive words, the address advancing by 4. -/
def State.windowWords (s : State) (w : Nat) : List Nat → State
  | [] => { s with i3c := { s.i3c with addr := w % 0x10000 } }
  | v :: vs => (s.windowWrite (w % 0x10000) v).windowWords (w % 0x10000 + 4) vs

/-- The whole words of a list of bytes. -/
def wordsOf (bs : List Byte) : List Nat := (List.range (bs.length / 4)).map (fun i => leAt bs (4 * i) 4)

/-- I3C_PRIVATE_WRITE (R508): a 16-bit window address, low byte first, and data words; a trailing partial word is counted. -/
def execI3cPrivateWrite (bytes : List Byte) (s : State) : Host.Outcome State Fault Refusal :=
  if s.pstate = .off ∨ !s.flag F.I3C_STATUS_DA_VALID then .next s
  else
    have bs := bytes.take s.i3c.mwl
    if bs.length < 2 then .next s
    else
      have d := bs.drop 2
      have s := s.windowWords (leAt bs 0 2) (wordsOf d)
      .next (if d.length % 4 = 0 then s else s.bump F.I3C_ERR_PARTIAL 1)

/-! ### Interrupts and bus errors (R352, R512, R513) -/

/-- IBI_RETRY (R512): the controller NACKed the interrupt; it is sent again at the next bus idle with the latest content. -/
def execIbiRetry (s : State) : Host.Outcome State Fault Refusal :=
  if s.pstate = .off ∨ !s.coll.ibiSent then .next s else .next ((s.bump F.I3C_ERR_IBI_NACK 1).sendIbi)

/-- I3C_BUS_ERROR (R513): a parity or CRC error on the bus. -/
def execI3cBusError (s : State) : Host.Outcome State Fault Refusal :=
  if s.pstate = .off then .next s else .next ((s.bump F.I3C_ERR_PARITY 1).outPort srcI3c 2 0 0)

/-! ### Common command codes (R507, R512) -/

/-- A common command code reaches a target in every state but OFF; it is sent in SDR mode. -/
def State.ccc (s : State) (f : State → State) : Host.Outcome State Fault Refusal :=
  if s.pstate = .off then .next s else .next (f (s.wf F.I3C_STATUS_HDR 0))

/-- A directed one is answered when a dynamic address is held. -/
def State.cccGet (s : State) (bs : List Byte) : Host.Outcome State Fault Refusal :=
  s.ccc (fun s => if s.flag F.I3C_STATUS_DA_VALID then s.out (.i3c bs) else s)

/-- A waiting interrupt is raised (R512). -/
def State.ibiGo (s : State) : State := if s.flag F.FLT_STATUS_IBI_PEND then s.sendIbi else s

/-- Take a dynamic address: interrupts are enabled (R512). -/
def State.takeAddress (s : State) (da : Nat) : State :=
  (((s.wf F.I3C_STATUS_DA da).wf F.I3C_STATUS_DA_VALID 1).wf F.I3C_STATUS_IBI_EN 1).ibiGo

/-- The provisional ID, most significant byte first (R507). -/
def State.pid (s : State) : List Byte :=
  (leBytes 6 (s.regNow A.I3C_PID_HI % 2 ^ 16 * 2 ^ 32 + s.regNow A.I3C_PID_LO)).reverse

/-- ENTDAA (R507): a target without a dynamic address answers with its identity and takes the one it is given. -/
def execEntdaa (da : BitVec 7) (s : State) : Host.Outcome State Fault Refusal :=
  s.ccc (fun s =>
    if s.flag F.I3C_STATUS_DA_VALID then s
    else (s.out (.i3c (s.pid ++ [0x26, 0x00]))).takeAddress da.toNat)

/-- SETDASA (R507): a dynamic address for the static address 0x5C. -/
def execSetdasa (static : BitVec 7) (da : BitVec 7) (s : State) : Host.Outcome State Fault Refusal :=
  s.ccc (fun s => if s.flag F.I3C_STATUS_DA_VALID || static != 0x5C then s else s.takeAddress da.toNat)

/-- RSTDAA (R512). -/
def execRstdaa (s : State) : Host.Outcome State Fault Refusal :=
  s.ccc (fun s => ((s.wf F.I3C_STATUS_DA 0).wf F.I3C_STATUS_DA_VALID 0).wf F.I3C_STATUS_IBI_EN 0)

/-- ENEC (R512): interrupts are enabled and a waiting one is raised. -/
def execEnec (events : Byte) (s : State) : Host.Outcome State Fault Refusal :=
  s.ccc (fun s =>
    if !bitAt events.toNat 0 then s
    else (s.wf F.I3C_STATUS_IBI_EN 1).ibiGo)

/-- DISEC (R512). -/
def execDisec (events : Byte) (s : State) : Host.Outcome State Fault Refusal :=
  s.ccc (fun s => if bitAt events.toNat 0 then s.wf F.I3C_STATUS_IBI_EN 0 else s)

/-- SETMWL (R507): at most 1,026 bytes. -/
def execSetmwl (len : BitVec 16) (s : State) : Host.Outcome State Fault Refusal :=
  s.ccc (fun s => { s with i3c := { s.i3c with mwl := min len.toNat 1026 } })

/-- SETMRL (R507): at most 1,024 bytes. -/
def execSetmrl (len : BitVec 16) (s : State) : Host.Outcome State Fault Refusal :=
  s.ccc (fun s => { s with i3c := { s.i3c with mrl := min len.toNat 1024 } })

/-- GETMWL (R507). -/
def execGetmwl (s : State) : Host.Outcome State Fault Refusal := s.cccGet (leBytes 2 s.i3c.mwl).reverse

/-- GETMRL (R507). -/
def execGetmrl (s : State) : Host.Outcome State Fault Refusal := s.cccGet (leBytes 2 s.i3c.mrl).reverse

/-- GETPID (R507). -/
def execGetpid (s : State) : Host.Outcome State Fault Refusal := s.cccGet s.pid

/-- GETBCR (R507): 0x26. -/
def execGetbcr (s : State) : Host.Outcome State Fault Refusal := s.cccGet [0x26]

/-- GETDCR (R507): 0x00. -/
def execGetdcr (s : State) : Host.Outcome State Fault Refusal := s.cccGet [0x00]

/-- GETSTATUS (R507): the value is not stated (log 4). -/
def execGetstatus (s : State) : Host.Outcome State Fault Refusal :=
  ({ s with freeCount := s.freeCount + 2 }).cccGet (freeBytes s.freeCount 2)

/-- GETMXDS (R507): the value is not stated (log 4). -/
def execGetmxds (s : State) : Host.Outcome State Fault Refusal :=
  ({ s with freeCount := s.freeCount + 2 }).cccGet (freeBytes s.freeCount 2)

/-- ENTHDR0 (R507): the bus enters HDR-DDR. -/
def execEnthdr0 (s : State) : Host.Outcome State Fault Refusal :=
  if s.pstate = .off then .next s else .next (s.wf F.I3C_STATUS_HDR 1)

/-! ### Destructive requests in MAINT (R387) -/

/-- FULL_BIST (R387): TST_REQ with KIND 3. -/
def execFullBist (req : Requester) (mmode : Bool) (s : State) : Host.Outcome State Fault Refusal :=
  .next (s.requestWrite req mmode (fun s => s.bistStart))

/-- CALIBRATION (R387): TST_REQ with KIND 4. -/
def execCalibration (req : Requester) (mmode : Bool) (s : State) : Host.Outcome State Fault Refusal :=
  .next (s.requestWrite req mmode (fun s => s.calibrate))

/-- Every SRAM array reads zero: library, desks, operand buffers, L2, and the locket, which is wiped (R387). -/
def State.clearSrams (s : State) : State :=
  have s := (s.zeroRange (keyLib 0) (keyLib 0x8000000)).zeroRange (keyDesk 0 0) (keyLocket 0)
  have s := s.zeroRange (keyL2 0) (keyL2 0x200000)
  have s := s.wipeLocket
  { s with ecc := s.ecc.filter (fun p => decide (p.1 < 0x600000000)), resid := [], att := Att.reset }

/-- FULL_BIST_DONE (R387): about 250 ms after its start. -/
def execFullBistDone (s : State) : Host.Outcome State Fault Refusal :=
  match s.tst.bistEnd with
  | none => .next s
  | some t =>
    have s := (s.advanceTo t).clearSrams
    .next { s with tst := { s.tst with bistEnd := none } }

end Sys2Proof.Machine
end

