-- ==== Sys2Proof/Machine/Replay.lean ====
section
/-! DEFINITION. Replay of recorded bells in MAINT (15, R416 to R419). -/

namespace Sys2Proof.Machine
open Sys2Proof
set_option Elab.async false

/-! ### Datagrams (Table 15-1) -/

def rpTyp (d : List Byte) : Nat := leAt d 0 1
def rpSession (d : List Byte) : Nat := leAt d 2 2
def rpBell (d : List Byte) : Nat := leAt d 4 2
def rpOff (d : List Byte) : Nat := leAt d 6 4
def rpLen (d : List Byte) : Nat := leAt d 10 2
def rpData (d : List Byte) : List Byte := d.drop 18

/-- A whole datagram with a good CRC. -/
def rpGood (d : List Byte) : Bool :=
  decide (18 ≤ d.length) && d.length == 18 + rpLen d && decide (rpLen d ≤ 1400) && leAt d 14 4 == crc32c (d.take 14 ++ rpData d)

/-- Answer with an ACK on the port to the sender. -/
def State.replayAck (s : State) (port : Nat) (peer : UdpFrom) (status session bell off : Nat) : State :=
  have h := leBytes 1 5 ++ leBytes 1 status ++ leBytes 2 session ++ leBytes 2 bell ++ leBytes 4 off ++ leBytes 2 0 ++ leBytes 2 0
  s.out (.udp port peer.mac.toNat peer.ip.toNat peer.udp.toNat 23065 (h ++ leBytes 4 (crc32c h)))

/-- A replay datagram of a type is read on E4 or E5 with an address and its link up. -/
def State.replayReads (s : State) (port typ : Nat) (d : List Byte) : Bool :=
  rpGood d && rpTyp d == typ && (port == 4 || port == 5) && s.flag (F.ETH_STATUS_LINK port) && s.portIp port != 0 && s.pstate != .off

/-- The session a datagram belongs to. -/
def State.replayOf (s : State) (port : Nat) (peer : UdpFrom) (d : List Byte) : Option Replay :=
  match s.replay with
  | some r => if r.port = port ∧ r.session = rpSession d ∧ r.peer = peer then some r else none
  | none => none

/-! ### OPEN and CLOSE -/

/-- REPLAY_OPEN (R416): the live sensors stop, and nothing is carried over, as before a first bell. -/
def execReplayOpen (port : Fin 6) (peer : UdpFrom) (dg : List Byte) (s : State) : Host.Outcome State Fault Refusal :=
  have p := port.val
  if !s.replayReads p 1 dg then .next s
  else if s.pstate ≠ .maint ∨ s.replay.isSome ∨ !s.pw.ready then .next (s.replayAck p peer 1 (rpSession dg) 0 0)
  else
    have first := leAt (rpData dg) 0 8
    have s := (s.camClear.clearC.wipeFill.resetScales s.ctxPlan (fun _ => true)).phase2All
    have s := { s with pw := { s.pw with first := 4 },
                       replay := some { port := p, session := rpSession dg, first := first, bells := leAt (rpData dg) 8 2, k := 0, data := [],
                                        whole := false, running := false, lastStart := 0, peer := peer, psets := [] } }
    .next ((s.sieveStart first).replayAck p peer 0 (rpSession dg) 0 0)

/-- REPLAY_CLOSE (R416): a bell still running ends, and the session with it. -/
def execReplayClose (port : Fin 6) (peer : UdpFrom) (dg : List Byte) (s : State) : Host.Outcome State Fault Refusal :=
  have p := port.val
  if !s.replayReads p 4 dg then .next s
  else match s.replayOf p peer dg with
    | none => .next (s.replayAck p peer 1 (rpSession dg) (rpBell dg) 0)
    | some _ =>
      have s := if s.bell.running then s.endBell.stopCompute.noBell else s
      have s := { s.camClear with replay := none }
      .next ((s.sieveStart (s.firstBellAt s.timeNs)).replayAck p peer 0 (rpSession dg) (rpBell dg) 0)

/-! ### Items (R417, R418) -/

/-- The items of a stream: kind and body. -/
def replayItems : Nat → List Byte → List (Nat × List Byte)
  | 0, _ => []
  | n + 1, d => if d.length < 8 then [] else (leAt d 0 1, (d.drop 8).take (leAt d 4 4)) :: replayItems n (d.drop (8 + leAt d 4 4))

/-- REPLAY_DATA (R417): bytes that follow what is held are added; a range held already is ignored; a bell that has started refuses. -/
def execReplayData (port : Fin 6) (peer : UdpFrom) (dg : List Byte) (s : State) : Host.Outcome State Fault Refusal :=
  have p := port.val
  if !s.replayReads p 2 dg then .next s
  else match s.replayOf p peer dg with
    | none => .next (s.replayAck p peer 1 (rpSession dg) (rpBell dg) 0)
    | some r =>
      if rpBell dg ≠ r.k ∨ r.bells ≤ r.k then .next (s.replayAck p peer 1 (rpSession dg) (rpBell dg) 0)
      else
        have held := r.data.length
        if r.whole ∨ held < rpOff dg ∨ rpOff dg + rpLen dg ≤ held then .next s
        else .next { s with replay := some { r with data := r.data ++ (rpData dg).drop (held - rpOff dg) } }

/-- REPLAY_INPUT (Table 15-7). -/
def State.replayInput (s : State) (kind k i : Nat) : State := s.send srcShk .REPLAY_INPUT (kind * 2 ^ 32 + k % 2 ^ 16 * 2 ^ 16 + i % 2 ^ 16)

/-- Lines of plane e in the body of a camera item, after its header and the embedded bytes. -/
def itemLines (r : List Byte) (e : Nat) (body : List Byte) : List (List Byte) :=
  have emb := if camHasEmb r then leAt r 16 2 * camEmbBytes r else 0
  have n := planeBytes r e
  have o := if e = 3 then 256 else 256 + emb + e * camLines r * n
  (List.range (planeLines r e)).map (fun i => (body.drop (o + i * n)).take n)

/-- Bytes of a camera item. -/
def itemBytes (r : List Byte) : Nat :=
  256 + (if camHasEmb r then leAt r 16 2 * camEmbBytes r else 0) + camExps r * camLines r * planeBytes r 0

/-- The recorded header agrees with the recomputed values. -/
def itemGood (c : Nat) (r body : List Byte) : Bool :=
  have h := body.take 256
  have data := (List.range 4).map (fun e => if (planes r).contains e then some ((itemLines r e body).flatMap id) else none)
  have crcs := data.map (fun d => match d with | some x => crc32c x | none => 0)
  have digs := data.map (fun d => match d with | some x => shake256 x 32 | none => List.replicate 32 (0 : Byte))
  body.length == itemBytes r && (h.drop 64).take 16 == crcs.flatMap (leBytes 4) && (h.drop 80).take 128 == digs.flatMap id &&
    (h.drop 208).take 32 == sampleDigest c (leAt h 2 2) (leAt h 8 6 * 1000000000 + leAt h 14 4) digs && leAt h 252 4 == crc32c (h.take 252)

/-- A recorded frame takes a buffer (R224) and is COMPLETE with its recorded T_SOF. -/
def State.replayFrame (s : State) (c : Nat) (r body : List Byte) : State :=
  have h := body.take 256
  have b : CamBuf := { st := 2, frame := leAt h 2 2, seq := leAt h 32 4, tag := leAt h 4 2, flags := leAt h 6 2,
                       capt := leAt h 8 6 * 1000000000 + leAt h 14 4, sof := leAt h 18 6 * 1000000000 + leAt h 24 4, repairs := leAt h 28 4 }
  have m := s.cam c
  match takeBuf m with
  | (none, _) => (s.bump (F.CSI_ERR_DROP c) 1).send (srcCam c) .CAM_DROP (camAddr c b.frame)
  | (some k, drop) =>
    have s := if drop then
        (s.bump (F.CSI_ERR_DROP c) 1).send (srcCam c) .CAM_DROP (camAddr c ((m.bufs[k]?).getD CamBuf.reset).frame)
      else s
    have base := s.fbBase c k
    have s := (planes r).foldl (fun (s : State) e =>
       have ls := itemLines r e body
       (List.range ls.length).foldl (fun (s : State) i =>
         have l := (ls[i]?).getD []
         s.store (keyHbm (base + planeOff r e i)) (l ++ List.replicate (up64 l.length - l.length) 0)) s) s
    (s.store (keyHbm base) h).setBuf c k (fun _ => b)

/-- A camera item: dropped with REPLAY_INPUT when a recomputed value differs. Answers whether it was taken. -/
def State.replayCam (s : State) (k i : Nat) (body : List Byte) : Bool × State :=
  have c := leAt body 1 1
  match if c < 16 then s.camRec c else none with
  | none => (false, s.replayInput 1 k i)
  | some r => if itemGood c r body then (true, s.replayFrame c r body) else (false, s.replayInput 1 k i)

/-- Items before SIEVE's: frames, ego-motion messages and parameter sets, in stream order. Answers whether any input differed. -/
def State.replayItem (s : State) (k i : Nat) (x : Nat × List Byte) : Bool × State :=
  have b := x.2
  if x.1 = 1 then s.replayCam k i b
  else if x.1 = 3 then (true, s.egoTake b)
  else if x.1 = 4 then
    match s.replay with
    | some r => (true, { s with replay := some { r with psets := r.psets ++ [(leAt b 0 1, leAt b 2 2, (b.drop 4).take 64)] } })
    | none => (true, s)
  else (true, s)

/-- A lidar item (R417): SIEVE parses it with the recorded ingress time. -/
def State.replayLidar (s : State) (b : List Byte) : State :=
  s.lidarTake (leAt b 0 1) (leAt b 4 4) (leAt b 2 2) true (b.drop 20) (leAt b 8 6 * 1000000000 + leAt b 14 4)

/-- The whole stream of bell k: camera, ego and parameter items in stream order, then the lidar items (R418). -/
def State.replayBell (s : State) (k : Nat) (data : List Byte) : Bool × State :=
  have items := replayItems data.length data
  let (ok, s) := (List.range items.length).foldl (fun (a : Bool × State) i =>
    let (g, s) := a.2.replayItem k i ((items[i]?).getD (0, []))
    (a.1 && g, s)) (true, s)
  (ok, (items.filter (fun (x : Nat × List Byte) => x.1 == 2)).foldl (fun (s : State) (x : Nat × List Byte) => s.replayLidar x.2) s)

/-- REPLAY_BELL_END (R417): answered with the next offset until the stream is whole; then its items are handled. Status 2 says that an
input differed. -/
def execReplayBellEnd (port : Fin 6) (peer : UdpFrom) (dg : List Byte) (s : State) : Host.Outcome State Fault Refusal :=
  have p := port.val
  if !s.replayReads p 3 dg then .next s
  else match s.replayOf p peer dg with
    | none => .next (s.replayAck p peer 1 (rpSession dg) (rpBell dg) 0)
    | some r =>
      if rpBell dg ≠ r.k ∨ r.bells ≤ r.k then .next (s.replayAck p peer 1 (rpSession dg) (rpBell dg) 0)
      else
        have held := r.data.length
        have n := leAt (rpData dg) 0 4
        if r.whole ∨ held < n then .next (s.replayAck p peer 0 r.session r.k held)
        else
          have s := { s with replay := some { r with whole := true, psets := [] } }
          let (ok, s) := s.replayBell r.k (r.data.take n)
          .next (s.replayAck p peer (if ok then 0 else 2) r.session r.k n)

/-- The ISP and SIEVE work of the bell has ended. -/
def State.inputsDone (s : State) : Bool :=
  s.pipes.all (fun j => j.isNone) && s.sieve.queue.isEmpty && s.cams.all (fun (m : Cam) => m.bufs.all (fun (b : CamBuf) => b.st == 0))

/-- REPLAY_BELL_START (R418): bell k starts, at least BELL_PERIOD after bell k − 1, as recorded bell FIRST_BELL + k. -/
def execReplayBellStart (s : State) : Host.Outcome State Fault Refusal :=
  match s.replay with
  | none => .next s
  | some r =>
    if !r.whole || !s.inputsDone || decide (r.bells ≤ r.k) || decide (s.pstate ≠ .maint) then .next s
    else
      have n := r.first + r.k
      have edge := s.bellEdgeNs n
      have s := if r.k = 0 then s else s.advanceTo (max s.now (r.lastStart + ceilDiv (2 * s.bellPeriod) 5))
      have s := if s.bell.running then s.endBell else s
      have s := if r.k = 0 then s.remapEdge else s.remapEdge.gapCheck edge
      have s := s.startBell n edge (r.k = 0)
      .next { s with replay := some { r with k := r.k + 1, data := [], whole := false, running := true, lastStart := s.bell.start, psets := [] } }

end Sys2Proof.Machine
end

