-- ==== Sys2Proof/Machine/Dispatch.lean ====
section
/-! DEFINITION. One arm per command: the meaning of each row of the table. -/

namespace Sys2Proof.Machine
open Sys2Proof

def exec (i : Instr) (s : State) : Host.Outcome State Fault Refusal :=
  match i with
  | .bellEdge => Sys2Proof.Machine.execBellEdge s
  | .healthPoint => Sys2Proof.Machine.execHealthPoint s
  | .scalePhase2 => Sys2Proof.Machine.execScalePhase2 s
  | .gatePoint => Sys2Proof.Machine.execGatePoint s
  | .aliveStart => Sys2Proof.Machine.execAliveStart s
  | .aliveToggle => Sys2Proof.Machine.execAliveToggle s
  | .aliveReadbackCheck a b => Sys2Proof.Machine.execAliveReadbackCheck a b s
  | .heartbeatDeadline => Sys2Proof.Machine.execHeartbeatDeadline s
  | .planReload => Sys2Proof.Machine.execPlanReload s
  | .taskBegin core => Sys2Proof.Machine.execTaskBegin core s
  | .budget core task => Sys2Proof.Machine.execBudget core task s
  | .move core => Sys2Proof.Machine.execMove core s
  | .moveComplete mover extra links => Sys2Proof.Machine.execMoveComplete mover extra links s
  | .deadline mover delivered => Sys2Proof.Machine.execDeadline mover delivered s
  | .mmFormT core => Sys2Proof.Machine.execMmFormT core s
  | .mmFormW core => Sys2Proof.Machine.execMmFormW core s
  | .ew core => Sys2Proof.Machine.execEw core s
  | .mmComplete engine => Sys2Proof.Machine.execMmComplete engine s
  | .vec core => Sys2Proof.Machine.execVec core s
  | .vecComplete core => Sys2Proof.Machine.execVecComplete core s
  | .compress core => Sys2Proof.Machine.execCompress core s
  | .expand core => Sys2Proof.Machine.execExpand core s
  | .codecComplete unit => Sys2Proof.Machine.execCodecComplete unit s
  | .poolMax core => Sys2Proof.Machine.execPoolMax core s
  | .poolAvg core => Sys2Proof.Machine.execPoolAvg core s
  | .anchor2d core => Sys2Proof.Machine.execAnchor2d core s
  | .center2d core => Sys2Proof.Machine.execCenter2d core s
  | .centerBev core => Sys2Proof.Machine.execCenterBev core s
  | .nmsAxis core => Sys2Proof.Machine.execNmsAxis core s
  | .nmsBev core => Sys2Proof.Machine.execNmsBev core s
  | .detectComplete unit => Sys2Proof.Machine.execDetectComplete unit s
  | .attPlan core => Sys2Proof.Machine.execAttPlan core s
  | .attAppend core => Sys2Proof.Machine.execAttAppend core s
  | .attFetch core => Sys2Proof.Machine.execAttFetch core s
  | .attSpread core => Sys2Proof.Machine.execAttSpread core s
  | .attendComplete late => Sys2Proof.Machine.execAttendComplete late s
  | .attReleaseFrame => Sys2Proof.Machine.execAttReleaseFrame s
  | .rubricRun core => Sys2Proof.Machine.execRubricRun core s
  | .proctorCompare core => Sys2Proof.Machine.execProctorCompare core s
  | .rubricComplete => Sys2Proof.Machine.execRubricComplete s
  | .emitRelease core => Sys2Proof.Machine.execEmitRelease core s
  | .emitReleaseComplete => Sys2Proof.Machine.execEmitReleaseComplete s
  | .digest core => Sys2Proof.Machine.execDigest core s
  | .digestCompare region => Sys2Proof.Machine.execDigestCompare region s
  | .evidenceCaptureDone slot dt => Sys2Proof.Machine.execEvidenceCaptureDone slot dt s
  | .swap core => Sys2Proof.Machine.execSwap core s
  | .swapComplete engine => Sys2Proof.Machine.execSwapComplete engine s
  | .strandProgramDone phys engine fails => Sys2Proof.Machine.execStrandProgramDone phys engine fails s
  | .suspectReplayDone slot suspect equal => Sys2Proof.Machine.execSuspectReplayDone slot suspect equal s
  | .recess core => Sys2Proof.Machine.execRecess core s
  | .unitSegmentDone unit index pass => Sys2Proof.Machine.execUnitSegmentDone unit index pass s
  | .recessEnd core => Sys2Proof.Machine.execRecessEnd core s
  | .barrier core => Sys2Proof.Machine.execBarrier core s
  | .endTask core => Sys2Proof.Machine.execEnd core s
  | .remapLoadDone core => Sys2Proof.Machine.execRemapLoadDone core s
  | .faultRecord => Sys2Proof.Machine.execFaultRecord s
  | .earlyBufferRelease => Sys2Proof.Machine.execEarlyBufferRelease s
  | .nvmEntryWritten => Sys2Proof.Machine.execNvmEntryWritten s
  | .retirementMapWritten => Sys2Proof.Machine.execRetirementMapWritten s
  | .sramScrub upset => Sys2Proof.Machine.execSramScrub upset s
  | .l2Scrub line wrong => Sys2Proof.Machine.execL2Scrub line wrong s
  | .patrolScrub upset => Sys2Proof.Machine.execPatrolScrub upset s
  | .hbmTempPoll reading => Sys2Proof.Machine.execHbmTempPoll reading s
  | .bankPowerDown lib core bank => Sys2Proof.Machine.execBankPowerDown lib core bank s
  | .bankDrainTimeout lib core bank => Sys2Proof.Machine.execBankDrainTimeout lib core bank s
  | .weightDigestCheck => Sys2Proof.Machine.execWeightDigestCheck s
  | .digestPassTimeout => Sys2Proof.Machine.execDigestPassTimeout s
  | .testLaneRound missed => Sys2Proof.Machine.execTestLaneRound missed s
  | .lockstepMismatch pair group cycle => Sys2Proof.Machine.execLockstepMismatch pair group cycle s
  | .sequencerMismatch phys => Sys2Proof.Machine.execSequencerMismatch phys s
  | .collectorMismatch => Sys2Proof.Machine.execCollectorMismatch s
  | .phaseMismatch clock => Sys2Proof.Machine.execPhaseMismatch clock s
  | .clockLoss cause => Sys2Proof.Machine.execClockLoss cause s
  | .warmReset env => Sys2Proof.Machine.execWarmReset env s
  | .powerOnStart env => Sys2Proof.Machine.execPowerOnStart env s
  | .imageLoadWatchdog us => Sys2Proof.Machine.execImageLoadWatchdog us s
  | .undervoltage vin => Sys2Proof.Machine.execUndervoltage vin s
  | .overvoltage vin => Sys2Proof.Machine.execOvervoltage vin s
  | .holdUpEnd => Sys2Proof.Machine.execHoldUpEnd s
  | .inputWarning vin => Sys2Proof.Machine.execInputWarning vin s
  | .railFault rail => Sys2Proof.Machine.execRailFault rail s
  | .dieTempSample die vin iin pin poc mw => Sys2Proof.Machine.execDieTempSample die vin iin pin poc mw s
  | .coolantTempSample inlet => Sys2Proof.Machine.execCoolantTempSample inlet s
  | .pocTrip camera => Sys2Proof.Machine.execPocTrip camera s
  | .pocRestore camera => Sys2Proof.Machine.execPocRestore camera s
  | .safeReqAssert => Sys2Proof.Machine.execSafeReqAssert s
  | .safeReqRelease => Sys2Proof.Machine.execSafeReqRelease s
  | .wakeRequest => Sys2Proof.Machine.execWakeRequest s
  | .wakeReady us reading missed => Sys2Proof.Machine.execWakeReady us reading missed s
  | .tamperTrip monitor => Sys2Proof.Machine.execTamperTrip monitor s
  | .cameraTrigger camera => Sys2Proof.Machine.execCameraTrigger camera s
  | .frameStart camera vc frame ecc latency dt => Sys2Proof.Machine.execFrameStart camera vc frame ecc latency dt s
  | .longPacket camera vc dtype ecc crcOk payload dt => Sys2Proof.Machine.execLongPacket camera vc dtype ecc crcOk payload dt s
  | .frameEnd camera vc ecc dt => Sys2Proof.Machine.execFrameEnd camera vc ecc dt s
  | .frameTimeout camera => Sys2Proof.Machine.execFrameTimeout camera s
  | .camLinkDown camera => Sys2Proof.Machine.execCamLinkDown camera s
  | .camLinkUp camera gear scriptOk => Sys2Proof.Machine.execCamLinkUp camera gear scriptOk s
  | .ispFrameStart pipe => Sys2Proof.Machine.execIspFrameStart pipe s
  | .ispFrameDone pipe dropped => Sys2Proof.Machine.execIspFrameDone pipe dropped s
  | .i2cWrite req camera queue cmd data => Sys2Proof.Machine.execI2cWrite req camera queue cmd data s
  | .i2cRead req camera queue cmd => Sys2Proof.Machine.execI2cRead req camera queue cmd s
  | .groupOpen req camera queue cmd => Sys2Proof.Machine.execGroupOpen req camera queue cmd s
  | .groupCommit req camera queue cmd => Sys2Proof.Machine.execGroupCommit req camera queue cmd s
  | .i2cTransactionDone camera nack data dt => Sys2Proof.Machine.execI2cTransactionDone camera nack data dt s
  | .i2cTimeout camera step => Sys2Proof.Machine.execI2cTimeout camera step s
  | .psetCommit req camera tag => Sys2Proof.Machine.execPsetCommit req camera tag s
  | .lidarDatagram port srcIp dstUdp checksumOk payload dt => Sys2Proof.Machine.execLidarDatagram port srcIp dstUdp checksumOk payload dt s
  | .egoMessage port dstUdp record dt => Sys2Proof.Machine.execEgoMessage port dstUdp record dt s
  | .voxelInsert => Sys2Proof.Machine.execVoxelInsert s
  | .batchReadyDeadline batch late => Sys2Proof.Machine.execBatchReadyDeadline batch late s
  | .ptpSync m => Sys2Proof.Machine.execPtpSync m s
  | .ptpFollowUp m => Sys2Proof.Machine.execPtpFollowUp m s
  | .ptpDelayReq m => Sys2Proof.Machine.execPtpDelayReq m s
  | .ptpDelayResp m => Sys2Proof.Machine.execPtpDelayResp m s
  | .ptpPdelayReq m => Sys2Proof.Machine.execPtpPdelayReq m s
  | .ptpPdelayResp m => Sys2Proof.Machine.execPtpPdelayResp m s
  | .ptpPdelayRespFollowUp m => Sys2Proof.Machine.execPtpPdelayRespFollowUp m s
  | .ptpAnnounce a => Sys2Proof.Machine.execPtpAnnounce a s
  | .ptpSyncSend => Sys2Proof.Machine.execPtpSyncSend s
  | .ptpAnnounceSend => Sys2Proof.Machine.execPtpAnnounceSend s
  | .ptpDelayReqSend => Sys2Proof.Machine.execPtpDelayReqSend s
  | .syncLoss => Sys2Proof.Machine.execSyncLoss s
  | .holdoverMax => Sys2Proof.Machine.execHoldoverMax s
  | .lockTimeout => Sys2Proof.Machine.execLockTimeout s
  | .jxHello m => Sys2Proof.Machine.execJxHello m s
  | .jxHelloSend => Sys2Proof.Machine.execJxHelloSend s
  | .jxReady m => Sys2Proof.Machine.execJxReady m s
  | .jxReadySend => Sys2Proof.Machine.execJxReadySend s
  | .jxArm m => Sys2Proof.Machine.execJxArm m s
  | .armSend => Sys2Proof.Machine.execArmSend s
  | .readyTimeout => Sys2Proof.Machine.execReadyTimeout s
  | .armFallback => Sys2Proof.Machine.execArmFallback s
  | .goDrive => Sys2Proof.Machine.execGoDrive s
  | .goEdge late => Sys2Proof.Machine.execGoEdge late s
  | .goTimeout => Sys2Proof.Machine.execGoTimeout s
  | .goLoopCheck returned => Sys2Proof.Machine.execGoLoopCheck returned s
  | .jxHeartbeat m => Sys2Proof.Machine.execJxHeartbeat m s
  | .jxJoin m => Sys2Proof.Machine.execJxJoin m s
  | .jxJoinSend => Sys2Proof.Machine.execJxJoinSend s
  | .jxRefuse m => Sys2Proof.Machine.execJxRefuse m s
  | .arpRequest port target peer => Sys2Proof.Machine.execArpRequest port target peer s
  | .ethFrameDiscard port => Sys2Proof.Machine.execEthFrameDiscard port s
  | .ethLinkDown port pll => Sys2Proof.Machine.execEthLinkDown port pll s
  | .ethLinkUp port => Sys2Proof.Machine.execEthLinkUp port s
  | .resultHello port peer data => Sys2Proof.Machine.execResultHello port peer data s
  | .resultSegmentSend dest => Sys2Proof.Machine.execResultSegmentSend dest s
  | .csiRecordSend link => Sys2Proof.Machine.execCsiRecordSend link s
  | .csiOutLinkDown link => Sys2Proof.Machine.execCsiOutLinkDown link s
  | .csiOutLinkUp link => Sys2Proof.Machine.execCsiOutLinkUp link s
  | .stageOpen port peer dg => Sys2Proof.Machine.execStageOpen port peer dg s
  | .stageEraseDone ok => Sys2Proof.Machine.execStageEraseDone ok s
  | .stageData port peer dg ok => Sys2Proof.Machine.execStageData port peer dg ok s
  | .stageCommit port peer dg => Sys2Proof.Machine.execStageCommit port peer dg s
  | .stageCommitVerified => Sys2Proof.Machine.execStageCommitVerified s
  | .stageAbort port peer dg => Sys2Proof.Machine.execStageAbort port peer dg s
  | .stageSessionTimeout => Sys2Proof.Machine.execStageSessionTimeout s
  | .replayOpen port peer dg => Sys2Proof.Machine.execReplayOpen port peer dg s
  | .replayData port peer dg => Sys2Proof.Machine.execReplayData port peer dg s
  | .replayBellEnd port peer dg => Sys2Proof.Machine.execReplayBellEnd port peer dg s
  | .replayBellStart => Sys2Proof.Machine.execReplayBellStart s
  | .replayClose port peer dg => Sys2Proof.Machine.execReplayClose port peer dg s
  | .status tag arg0 => Sys2Proof.Machine.execStatus tag arg0 s
  | .safeEnter tag => Sys2Proof.Machine.execSafeEnter tag s
  | .reset tag arg0 => Sys2Proof.Machine.execReset tag arg0 s
  | .safeExit tag => Sys2Proof.Machine.execSafeExit tag s
  | .maintEnter tag => Sys2Proof.Machine.execMaintEnter tag s
  | .park tag arg0 => Sys2Proof.Machine.execPark tag arg0 s
  | .wake tag => Sys2Proof.Machine.execWake tag s
  | .selfTest tag arg0 => Sys2Proof.Machine.execSelfTest tag arg0 s
  | .gbRead tag arg0 arg1 => Sys2Proof.Machine.execGbRead tag arg0 arg1 s
  | .attest tag => Sys2Proof.Machine.execAttest tag s
  | .stage tag => Sys2Proof.Machine.execStage tag s
  | .declare tag arg0 => Sys2Proof.Machine.execDeclare tag arg0 s
  | .commandDone dt => Sys2Proof.Machine.execCommandDone dt s
  | .i3cPrivateWrite bytes => Sys2Proof.Machine.execI3cPrivateWrite bytes s
  | .cmdsetDeclare req mmode major minor => Sys2Proof.Machine.execCmdsetDeclare req mmode major minor s
  | .ibiRetry => Sys2Proof.Machine.execIbiRetry s
  | .entdaa da => Sys2Proof.Machine.execEntdaa da s
  | .setdasa static da => Sys2Proof.Machine.execSetdasa static da s
  | .rstdaa => Sys2Proof.Machine.execRstdaa s
  | .enec events => Sys2Proof.Machine.execEnec events s
  | .disec events => Sys2Proof.Machine.execDisec events s
  | .setmwl len => Sys2Proof.Machine.execSetmwl len s
  | .setmrl len => Sys2Proof.Machine.execSetmrl len s
  | .getmwl => Sys2Proof.Machine.execGetmwl s
  | .getmrl => Sys2Proof.Machine.execGetmrl s
  | .getpid => Sys2Proof.Machine.execGetpid s
  | .getbcr => Sys2Proof.Machine.execGetbcr s
  | .getdcr => Sys2Proof.Machine.execGetdcr s
  | .getstatus => Sys2Proof.Machine.execGetstatus s
  | .getmxds => Sys2Proof.Machine.execGetmxds s
  | .enthdr0 => Sys2Proof.Machine.execEnthdr0 s
  | .fltHeartbeat req mmode value => Sys2Proof.Machine.execFltHeartbeat req mmode value s
  | .fltAck req mmode value => Sys2Proof.Machine.execFltAck req mmode value s
  | .fltSw req mmode value => Sys2Proof.Machine.execFltSw req mmode value s
  | .fltSeverityWrite req mmode addr value => Sys2Proof.Machine.execFltSeverityWrite req mmode addr value s
  | .injectMessage req mmode => Sys2Proof.Machine.execInjectMessage req mmode s
  | .injectSram req mmode => Sys2Proof.Machine.execInjectSram req mmode s
  | .injectHbm req mmode => Sys2Proof.Machine.execInjectHbm req mmode s
  | .injectLockstep req mmode => Sys2Proof.Machine.execInjectLockstep req mmode s
  | .injectSequencer req mmode => Sys2Proof.Machine.execInjectSequencer req mmode s
  | .injectDigest req mmode => Sys2Proof.Machine.execInjectDigest req mmode s
  | .injectTileCrc req mmode => Sys2Proof.Machine.execInjectTileCrc req mmode s
  | .injectAlive req mmode => Sys2Proof.Machine.execInjectAlive req mmode s
  | .pwrCtrlReset req mmode value => Sys2Proof.Machine.execPwrCtrlReset req mmode value s
  | .pwrCtrlPark req mmode value => Sys2Proof.Machine.execPwrCtrlPark req mmode value s
  | .strandExtendedRequest req mmode target => Sys2Proof.Machine.execStrandExtendedRequest req mmode target s
  | .unitExtendedRequest req mmode target => Sys2Proof.Machine.execUnitExtendedRequest req mmode target s
  | .stationExtendedRequest req mmode detect target => Sys2Proof.Machine.execStationExtendedRequest req mmode detect target s
  | .fullBist req mmode => Sys2Proof.Machine.execFullBist req mmode s
  | .calibration req mmode => Sys2Proof.Machine.execCalibration req mmode s
  | .secAttest req mmode => Sys2Proof.Machine.execSecAttest req mmode s
  | .signingDone dt => Sys2Proof.Machine.execSigningDone dt s
  | .unlock req mmode => Sys2Proof.Machine.execUnlock req mmode s
  | .lcTransition req mmode => Sys2Proof.Machine.execLcTransition req mmode s
  | .advanceArb req mmode => Sys2Proof.Machine.execAdvanceArb req mmode s
  | .arbStepDone => Sys2Proof.Machine.execArbStepDone s
  | .ownerKey req mmode => Sys2Proof.Machine.execOwnerKey req mmode s
  | .ocmCounterClear req value => Sys2Proof.Machine.execOcmCounterClear req value s
  | .registerWrite req mmode addr size value => Sys2Proof.Machine.execRegisterWrite req mmode addr size value s
  | .readClear req mmode addr size => Sys2Proof.Machine.execReadClear req mmode addr size s
  | .loLatchRead req mmode addr => Sys2Proof.Machine.execLoLatchRead req mmode addr s
  | .locketDataRead req mmode => Sys2Proof.Machine.execLocketDataRead req mmode s
  | .debugAttach hart => Sys2Proof.Machine.execDebugAttach hart s
  | .debugDetach hart => Sys2Proof.Machine.execDebugDetach hart s
  | .debugHalt hart => Sys2Proof.Machine.execDebugHalt hart s
  | .debugResume hart => Sys2Proof.Machine.execDebugResume hart s
  | .debugAbstractCommand hart => Sys2Proof.Machine.execDebugAbstractCommand hart s
  | .debugProgbufExec hart => Sys2Proof.Machine.execDebugProgbufExec hart s
  | .debugTrigger hart => Sys2Proof.Machine.execDebugTrigger hart s
  | .debugSysbusAccess hart kind addr size data => Sys2Proof.Machine.execDebugSysbusAccess hart kind addr size data s
  | .planReloadDone core => Sys2Proof.Machine.execPlanReloadDone core s
  | .evidenceHoldEnd slot => Sys2Proof.Machine.execEvidenceHoldEnd slot s
  | .controlPairAccess req mmode kind addr size data => Sys2Proof.Machine.execControlPairAccess req mmode kind addr size data s
  | .i3cBusError => Sys2Proof.Machine.execI3cBusError s
  | .inputWarningClear vin => Sys2Proof.Machine.execInputWarningClear vin s
  | .fullBistDone => Sys2Proof.Machine.execFullBistDone s
  | .factoryJtagTransition grade serial mac seed key0 key1 => Sys2Proof.Machine.execFactoryJtagTransition grade serial mac seed key0 key1 s

end Sys2Proof.Machine
end

