-- ==== Sys2Proof/Machine/Step.lean ====
section
/-! DEFINITION. One step: run the command at the front of the queue, or let one TIME edge pass on an empty queue (log 5). -/

namespace Sys2Proof.Machine
open Sys2Proof
set_option Elab.async false

/-- One step of the block. -/
def step (s : State) : Host.Outcome State Fault Refusal :=
  match s.pending with
  | [] => .next (idleTick s)
  | c :: rest => exec c { s with pending := rest }

/-- No row of the table gives bits, so no word spells a command: the state is unchanged (log 6). -/
def State.withFetchWord (s : State) (nbits w : Nat) : State :=
  match Sys2Proof.decodeTableWord nbits w with
  | some c => { s with pending := c :: s.pending }
  | none => s

end Sys2Proof.Machine
end

