-- ==== Sys2Proof/Safety.lean ====
section
/-! DEFINITION. What counts as a sound state of the part, in the terms the statements use. -/

namespace Sys2Proof.Machine
open Sys2Proof
set_option Elab.async false

/-- A sound state: the sparse storage is in its canonical form; the part has 64 sequencers, 4 peers, 3 control harts, 16 camera paths,
4 ISP pipelines, 8 lidars, 36 output queues and 4 key slots; TSU time is a legal time of R277 (NS below 10^9). -/
structure State.Sound (s : State) : Prop where
  regs : smWf regReset s.regs
  mem : Memory.wf s.mem = true
  ecc : smWf (fun _ => 0) s.ecc
  seqs : s.tt.seqs.length = 64
  peers : s.jx.peers.length = 4
  harts : s.harts.length = 3
  cams : s.cams.length = 16
  pipes : s.pipes.length = 4
  gens : s.sieve.gens.length = 8
  queues : s.emit.queues.length = 36
  keys : s.sec.keys.length = 4
  sec : s.tsu.sec < 2 ^ 48
  ns : s.tsu.ns < 1000000000
  frac : s.tsu.frac < 4294967296

/-- The next word of logical core n's list is w, at place i, and nothing stops its reading: the sequencer runs its list, no stored word is
bad and every bank is on. -/
structure State.Next (s : State) (n w i : Nat) : Prop where
  runs : s.seqRuns n = true
  pc : s.rf (F.TT_PC_PC (s.phys n)) = i
  count : i < s.dir (s.phys n) 4
  word : s.insWord (s.phys n) i = w
  good : s.ecc = []
  on : s.memc.bankOff = []

/-- The command takes the word w of logical core n into its station: the next state holds an operation of kind k there, of that word and
task, of which `len` holds. -/
def Starts (c : Instr) (s : State) (k : JobKind) (n w : Nat) (len : Job → Prop) : Prop :=
  ∃ (t : State) (j : Job), exec c s = .next t ∧ j ∈ t.tt.jobs ∧ j.kind = k ∧ j.core = n ∧ j.unit = insArg w 55 40 ∧ j.task = insTask w ∧
    j.instr = w ∧ len j

/-- A message as a block fills it (R338): SOURCE, KIND and ADDRESS, and whether an injection made it. -/
def plainMsg (src kind addr : Nat) (inj : Bool) : Msg :=
  { src := src, kind := kind, addr := addr, merges := 0, injected := inj, ev := 0, evBytes := 0, detail := [] }

/-- The message a source sends (R338): it waits at the source when none waited there before. -/
def SentMsg (s t : State) (src : Nat) (k : Kind) (addr : Nat) : Prop :=
  smFind s.coll.pend src = none →
    smFind t.coll.pend src = some (plainMsg src k.code (addr % 2 ^ 40) false)

/-- No byte of any memory differs. -/
def SameMem (s t : State) : Prop := ∀ k, t.rd k = s.rd k

/-- Every memory byte outside the keys [lo, lo + n) is unchanged. -/
def SameMemBut (s t : State) (lo n : Nat) : Prop := ∀ k, k < lo ∨ lo + n ≤ k → t.rd k = s.rd k

/-- Every register outside a list of addresses is unchanged. -/
def SameRegsBut (s t : State) (l : List Nat) : Prop := ∀ a, a ∉ l → t.reg a = s.reg a

/-- Beyond registers and what the fault collector holds, nothing differs. -/
def OnlyRegs (s t : State) : Prop := t = { s with regs := t.regs, coll := t.coll }

/-- A write was ignored and REG_DENIED sent (R368): beyond the message, and the source's count of merged messages, nothing differs. -/
def Denied (s t : State) (r : Requester) (addr : Nat) : Prop :=
  SentMsg s t srcColl .REG_DENIED (reqCode r * 2 ^ 36 + addr % 2 ^ 32) ∧ OnlyRegs s t ∧
    ∀ a, a ≠ (F.FLT_SRC_CNT_MERGED srcColl).addr → t.reg a = s.reg a

end Sys2Proof.Machine
end

