-- ==== Sys2Proof/WellFormed.lean ====
section
/-! DEFINITION. Well-formed commands: the checks on operands that their Lean types do not already make. -/

namespace Sys2Proof
set_option Elab.async false

/-- The longest UDP payload a port takes: the IP MTU is 9,000 bytes on E0 to E3 and 1,500 bytes on E4 and E5 (chapter 19). -/
def udpMax (port : Fin 6) : Nat := (if port.val < 4 then 9000 else 1500) - 28

/-- A received time stamp is 48 bits of seconds and nanoseconds below 10^9 (R277), a correction 64 bits. -/
def PtpMsg.wf (m : PtpMsg) : Bool := decide (m.ts < 2 ^ 48 * 1000000000) && decide (-(2 ^ 63) ≤ m.corr ∧ m.corr < 2 ^ 63)

/-- A Jexong payload is 40 bytes (R295). -/
def JxMsg.wf (m : JxMsg) : Bool := decide (m.payload.length = 40)

/-- A start measures seven steps, no step longer than the image load watchdog's 10 s, and names no part twice. -/
def StartEnv.wf (e : StartEnv) : Bool :=
  decide (e.us.length = 7) && decide e.hbmBad.Nodup && decide e.lanesBad.Nodup && decide e.coresBad.Nodup && decide e.strandsBad.Nodup &&
    decide e.unitsBad.Nodup

/-- A list of upset granules names no key twice, and each has an error. -/
def upsetWf (l : List (Nat × Fin 3)) : Bool := decide (l.map (fun p => p.1)).Nodup && l.all (fun p => p.2.val != 0)

/-- Data of an access: a read or a fetch carries none, a write its size in bytes. -/
def accessWf (kind : Fin 3) (size : Fin 65) (data : List Byte) : Bool :=
  decide (0 < size.val) && decide (data.length = if kind.val = 1 then size.val else 0)

/-- The checks of each command; a command without an arm of its own is well-formed as it is typed. -/
def Instr.wf : Instr → Bool
  | .ptpSync m | .ptpFollowUp m | .ptpDelayReq m | .ptpDelayResp m | .ptpPdelayReq m | .ptpPdelayResp m | .ptpPdelayRespFollowUp m => m.wf
  | .jxHello m | .jxReady m | .jxArm m | .jxHeartbeat m | .jxJoin m | .jxRefuse m => m.wf
  | .testLaneRound l => decide l.Nodup
  | .wakeReady us _ l => decide (us ≤ 20000) && decide l.Nodup
  | .sramScrub l | .patrolScrub l => upsetWf l
  | .controlPairAccess _ _ k _ z d => accessWf k z d
  | .debugSysbusAccess _ k _ z d => accessWf k z d
  | .longPacket _ _ _ _ _ p _ => decide (p.length < 65536)
  | .ispFrameDone _ l => decide l.Nodup
  | .lidarDatagram port _ _ _ p _ => decide (p.length ≤ udpMax port)
  | .egoMessage port _ p _ => decide (p.length ≤ udpMax port)
  | .resultHello port _ p => decide (p.length ≤ udpMax port)
  | .stageOpen port _ p | .stageCommit port _ p | .stageAbort port _ p => decide (p.length ≤ udpMax port)
  | .stageData port _ p _ => decide (p.length ≤ udpMax port)
  | .replayOpen port _ p | .replayData port _ p | .replayBellEnd port _ p | .replayClose port _ p => decide (p.length ≤ udpMax port)
  | .strandProgramDone _ _ l => decide (l.map (fun p => p.1)).Nodup
  | .factoryJtagTransition _ _ _ seed k0 k1 => decide (seed.length = 32 ∧ k0.length = 32 ∧ k1.length = 32)
  | .dieTempSample _ _ _ _ _ mw => decide (mw.length = 16)
  | .powerOnStart e | .warmReset e => e.wf
  | .registerWrite _ _ _ z _ | .readClear _ _ _ z => decide (0 < z.val)
  | .i3cPrivateWrite bs => decide (2 ≤ bs.length)
  | .bellEdge | .healthPoint | .scalePhase2 | .gatePoint | .aliveStart | .aliveToggle | .aliveReadbackCheck _ _ | .heartbeatDeadline
  | .planReload | .taskBegin _ | .budget _ _ | .move _ | .moveComplete _ _ _ | .deadline _ _ | .mmFormT _ | .mmFormW _ | .ew _ | .mmComplete _
  | .vec _ | .vecComplete _ | .compress _ | .expand _ | .codecComplete _ | .poolMax _ | .poolAvg _ | .anchor2d _ | .center2d _ | .centerBev _
  | .nmsAxis _ | .nmsBev _ | .detectComplete _ | .attPlan _ | .attAppend _ | .attFetch _ | .attSpread _ | .attendComplete _ | .attReleaseFrame
  | .rubricRun _ | .proctorCompare _ | .rubricComplete | .emitRelease _ | .emitReleaseComplete | .digest _ | .digestCompare _
  | .evidenceCaptureDone _ _ | .swap _ | .swapComplete _ | .suspectReplayDone _ _ _ | .recess _ | .unitSegmentDone _ _ _ | .recessEnd _
  | .barrier _ | .endTask _ | .remapLoadDone _ | .faultRecord | .earlyBufferRelease | .nvmEntryWritten | .retirementMapWritten | .l2Scrub _ _
  | .hbmTempPoll _ | .bankPowerDown _ _ _ | .bankDrainTimeout _ _ _ | .weightDigestCheck | .digestPassTimeout | .lockstepMismatch _ _ _
  | .sequencerMismatch _ | .collectorMismatch | .phaseMismatch _ | .clockLoss _ | .imageLoadWatchdog _ | .undervoltage _ | .overvoltage _
  | .holdUpEnd | .inputWarning _ | .railFault _ | .coolantTempSample _ | .pocTrip _ | .pocRestore _ | .safeReqAssert | .safeReqRelease
  | .wakeRequest | .tamperTrip _ | .cameraTrigger _ | .frameStart _ _ _ _ _ _ | .frameEnd _ _ _ _ | .frameTimeout _ | .camLinkDown _
  | .camLinkUp _ _ _ | .ispFrameStart _ | .i2cWrite _ _ _ _ _ | .i2cRead _ _ _ _ | .groupOpen _ _ _ _ | .groupCommit _ _ _ _
  | .i2cTransactionDone _ _ _ _ | .i2cTimeout _ _ | .psetCommit _ _ _ | .voxelInsert | .batchReadyDeadline _ _ | .ptpAnnounce _ | .ptpSyncSend
  | .ptpAnnounceSend | .ptpDelayReqSend | .syncLoss | .holdoverMax | .lockTimeout | .jxHelloSend | .jxReadySend | .armSend | .readyTimeout
  | .armFallback | .goDrive | .goEdge _ | .goTimeout | .goLoopCheck _ | .jxJoinSend | .arpRequest _ _ _ | .ethFrameDiscard _ | .ethLinkDown _ _
  | .ethLinkUp _ | .resultSegmentSend _ | .csiRecordSend _ | .csiOutLinkDown _ | .csiOutLinkUp _ | .stageEraseDone _ | .stageCommitVerified
  | .stageSessionTimeout | .replayBellStart | .status _ _ | .safeEnter _ | .reset _ _ | .safeExit _ | .maintEnter _ | .park _ _ | .wake _
  | .selfTest _ _ | .gbRead _ _ _ | .attest _ | .stage _ | .declare _ _ | .commandDone _ | .cmdsetDeclare _ _ _ _ | .ibiRetry | .entdaa _
  | .setdasa _ _ | .rstdaa | .enec _ | .disec _ | .setmwl _ | .setmrl _ | .getmwl | .getmrl | .getpid | .getbcr | .getdcr | .getstatus
  | .getmxds | .enthdr0 | .fltHeartbeat _ _ _ | .fltAck _ _ _ | .fltSw _ _ _ | .fltSeverityWrite _ _ _ _ | .injectMessage _ _ | .injectSram _ _
  | .injectHbm _ _ | .injectLockstep _ _ | .injectSequencer _ _ | .injectDigest _ _ | .injectTileCrc _ _ | .injectAlive _ _
  | .pwrCtrlReset _ _ _ | .pwrCtrlPark _ _ _ | .strandExtendedRequest _ _ _ | .unitExtendedRequest _ _ _ | .stationExtendedRequest _ _ _ _
  | .fullBist _ _ | .calibration _ _ | .secAttest _ _ | .signingDone _ | .unlock _ _ | .lcTransition _ _ | .advanceArb _ _ | .arbStepDone
  | .ownerKey _ _ | .ocmCounterClear _ _ | .loLatchRead _ _ _ | .locketDataRead _ _ | .debugAttach _ | .debugDetach _ | .debugHalt _
  | .debugResume _ | .debugAbstractCommand _ | .debugProgbufExec _ | .debugTrigger _ | .planReloadDone _ | .evidenceHoldEnd _ | .i3cBusError
  | .inputWarningClear _ | .fullBistDone => true

end Sys2Proof
end

