-- ==== Sys2Proof/Certificates/Slice0/Obligations.lean ====
section
/-! DEFINITION. The statements about the model, for the provers. Each docstring says what the definition states. -/

open Sys2Proof Sys2Proof.Machine

/-- A step of a state whose queue starts with a command is exec of that command on the state with the queue's rest. The queue is the model's own form of a block that takes commands. -/
def Obligations.StepRunsFrontCommand : Prop :=
  ∀ (c : Instr) (rest : List Instr) (s : State), s.pending = c :: rest → step s = exec c { s with pending := rest }

/-- For every state, with any command at the front of its queue or with none, step answers a next state: no fault and no refusal. (A property of the whole model: the spec stops no command.) (Where the spec leaves a detail of this open, the model reads it as log 18 says.) -/
def Obligations.StepAlwaysAnswersNext : Prop :=
  ∀ s : State, ∃ t : State, step s = .next t

/-- An invariant of the whole model. If a state is sound (sparse storage in canonical form; the part's fixed numbers of sequencers, harts, cameras, pipelines, lidars, queues and key slots; TSU fields within the ranges of R277), every next state of a step is sound, whichever command runs and from any sound state, not only states a run reaches. -/
def Obligations.StepKeepsSound : Prop :=
  ∀ s t : State, s.Sound → step s = .next t → t.Sound

/-- From a sound state, whatever command exec runs, a next state holds the same queue of waiting commands. The queue is the model's own. -/
def Obligations.CommandsLeaveTheQueue : Prop :=
  ∀ (c : Instr) (s t : State), s.Sound → exec c s = .next t → t.pending = s.pending

/-- The state after reset alignment meets the invariant of StepKeepsSound, and its queue is empty. -/
def Obligations.ResetStateIsSound : Prop :=
  State.reset.Sound ∧ State.reset.pending = []

/-- After reset alignment the part is in BOOT, TSU_STATUS.FREE_RUNNING is 1, the servo is FREE and RATE is 0, every CORE_ID.PHYS holds its physical core, both CHIP_SPARE entries are 127, CHIP_GEOM_OB holds 32,768 and 16,384, no response state is SAFE, and the I3C target holds no dynamic address with maximum lengths 1,026 and 1,024. -/
def Obligations.ResetRegisterValues : Prop :=
  State.reset.pstate = .boot ∧ State.reset.rf F.TSU_STATUS_FREE_RUNNING = 1 ∧ State.reset.rf F.TSU_RATE_RATE = 0 ∧
  (∀ p : Fin 66, (State.reset.reg (0x2010000000 + p.val * 0x100000)).toNat % 128 = p.val) ∧
  bits (State.reset.reg 0x2000000500).toNat 6 0 = 127 ∧ bits (State.reset.reg 0x2000000500).toNat 14 8 = 127 ∧
  (State.reset.reg 0x2000000104).toNat = 16384 * 65536 + 32768 ∧ State.reset.rf F.FLT_STATUS_STATE = 0 ∧
  State.reset.rf F.I3C_STATUS_DA_VALID = 0 ∧ State.reset.i3c.mwl = 1026 ∧ State.reset.i3c.mrl = 1024

/-- On a sound state with an empty queue and clocks running, a step is one TIME edge (the model's choice, log 5): the tick count grows by 1, and TSU time, counted in 2^-32 ns, grows by INC_NS 2, INC_FRAC 0x8000_0000 plus RATE, with SEC wrapping at 48 bits, as the pseudocode of R277 computes it field by field. No register of another block and no memory byte changes on account of it. -/
def Obligations.IdleStepIsOneTimeEdge : Prop :=
  ∀ s : State, s.Sound → s.pending = [] → s.pstate ≠ .off → -2147483 ≤ s.rate → s.rate ≤ 2147483 →
    ∃ t : State, step s = .next t ∧ t.now = s.now + 1 ∧
      t.tsu.units = (s.tsu.units + (10737418240 + s.rate).toNat) % (2 ^ 48 * 1000000000 * 4294967296) ∧
      t.mem = s.mem ∧ t.tt = s.tt ∧ t.pstate = s.pstate

/-- For every state with its memory in canonical form, every key and every list of bytes: reading as many bytes at that key after the write gives the bytes written, and every byte outside them reads as before. -/
def Obligations.MemoryReadsBackWrites : Prop :=
  ∀ (s : State) (k : Nat) (bs : List Byte), Memory.wf s.mem = true →
    (s.wrN k bs).rdN k bs.length = bs ∧ SameMemBut s (s.wrN k bs) k bs.length

/-- When a MOVE is next in a core's list (its sequencer runs, nothing it reads is bad) and its mover is idle, exec answers a next state in which that mover, and no other unit, has taken up the operation: its descriptor is the one DESC indexes in the core's desk (R48), it ends after the nominal duration of R47 (TILES x TILE_BYTES over 256 bytes a cycle for a core mover, 128 for an HBM mover, in ARITH cycles of two ticks), its deadline is the DEADLINE edge of the second word, both words have been passed, and no byte of memory has changed. (Where the spec leaves a detail of this open, the model reads it as log 20, log 21 says.) -/
def Obligations.MoveStartsItsTransfer : Prop :=
  ∀ (core : Fin 64) (s : State) (w i : Nat), s.Sound → s.Next core.val w i → insOp w = 0x08 → s.unitBusy (insArg w 55 40) = false →
    ∃ (t : State) (j : Job), exec (.move core) s = .next t ∧ t.tt.jobs = s.tt.jobs ++ [j] ∧ SameMem s t ∧
      j.kind = .move ∧ j.core = core.val ∧ j.unit = insArg w 55 40 ∧ j.task = insTask w ∧ j.instr = w ∧
      j.desc = s.rdN (keyDesk (s.phys core.val) (s.dir (s.phys core.val) 8 + 32 * insArg w 39 24)) 32 ∧
      j.due = j.at0 + 2 * ceilDiv (leAt j.desc 16 2 * leAt j.desc 20 4) (if stKind j.unit = 5 then 256 else 128) ∧
      j.deadline = s.bell.start + 2 * bits (s.insWord (s.phys core.val) (i + 1)) 55 28 ∧
      t.rf (F.TT_PC_PC (s.phys core.val)) = (i + 2) % 2 ^ 24

/-- When the instruction is next in the core's list, exec answers a next state, with no byte of memory and no unit's operation changed. TASK_BEGIN adds a running budget counter for its TASK that starts on the issue edge with BUDGET from the word (R45). BARRIER counts one more instance of its group at this core, and that instance has been checked (R52). DIGEST, when its region has not been judged and no fault is injected, submits region, run, core, partner, digest and tile count to the comparator and restarts the digest of the partner (R50). -/
def Obligations.SequencerKeepsTaskBarrierAndDigestState : Prop :=
  ∀ (core : Fin 64) (s : State) (w i : Nat), s.Sound → s.Next core.val w i →
    (insOp w = 0x01 → ∃ t : State, exec (.taskBegin core) s = .next t ∧ SameMem s t ∧ t.tt.jobs = s.tt.jobs ∧
      (t.seqOf core.val).tasks = (s.seqOf core.val).tasks ++
        [{ task := insTask w, start := t.now, budget := insArg w 55 28, stopped := false, sent := false }]) ∧
    (insOp w = 0x38 → ∃ t : State, exec (.barrier core) s = .next t ∧ SameMem s t ∧ t.tt.jobs = s.tt.jobs ∧
      (t.seqOf core.val).barriers = smSet (fun _ => 0) (s.seqOf core.val).barriers (insArg w 55 48)
        (barCount (s.seqOf core.val).barriers (insArg w 55 48) + 1) ∧
      (insArg w 55 48, barCount (s.seqOf core.val).barriers (insArg w 55 48)) ∈ t.tt.barChecked) ∧
    (insOp w = 0x28 → insArg w 55 48 ∉ s.tt.judged → core.val ∉ s.inj.digest →
      ∃ (t : State) (d : DigSub), exec (.digest core) s = .next t ∧ SameMem s t ∧ t.tt.jobs = s.tt.jobs ∧ t.tt.subs = s.tt.subs ++ [d] ∧
        d.region = insArg w 55 48 ∧ d.run = insArg w 47 47 ∧ d.core = core.val ∧ d.partner = insPartner w ∧ d.at0 = t.now ∧
        (∀ x ∈ (t.seqOf core.val).digs, x.partner ≠ insPartner w))

/-- When END is next in a core's list and no operation of the core is in progress, exec answers a next state in which TT_STATUS.ENDED of the physical core is 1, TT_STATUS.RUNNING is 0, TT_SLACK_MIN shows the smallest slack of the bell, and no byte of memory has changed. -/
def Obligations.EndStopsTheSequencer : Prop :=
  ∀ (core : Fin 64) (s : State) (w i : Nat), s.Sound → s.Next core.val w i → insOp w = 0xFF → (∀ j ∈ s.tt.jobs, j.core ≠ core.val) →
    ∃ t : State, exec (.endTask core) s = .next t ∧ SameMem s t ∧ t.rf (F.TT_STATUS_ENDED (s.phys core.val)) = 1 ∧
      t.rf (F.TT_STATUS_RUNNING (s.phys core.val)) = 0 ∧
      t.rf (F.TT_SLACK_MIN_SLACK (s.phys core.val)) = (s.seqOf core.val).slack % 2 ^ 28

/-- When a core's task counter still runs and has not been reported, exec answers a next state in which it is marked as reported, a message of the core's sequencer waits, no operation has been taken from a unit (the task runs on), and no byte of memory has changed. -/
def Obligations.BudgetReportsARunawayTask : Prop :=
  ∀ (core : Fin 64) (task : Byte) (s : State) (c : Task), s.Sound →
    (s.seqOf core.val).tasks.find? (fun t => t.task == task.toNat && !t.stopped && !t.sent) = some c →
    ∃ t : State, exec (.budget core task) s = .next t ∧ SameMem s t ∧ t.tt.jobs = s.tt.jobs ∧
      (t.seqOf core.val).tasks = (s.seqOf core.val).tasks.map (fun x => if x.task == c.task then { x with sent := true } else x) ∧
      (smFind t.coll.pend (srcSeq (s.phys core.val))).isSome

/-- For a transfer in progress at a mover: MOVE_COMPLETE with its last write no later than the DEADLINE edge, and DEADLINE with fewer tiles delivered than the transfer has, each answer a next state in which that mover has no operation. After DEADLINE a message of the mover's checker waits (R46). (Where the spec leaves a detail of this open, the model reads it as log 20, log 21 says.) -/
def Obligations.TransfersFreeTheirMover : Prop :=
  ∀ (mover : BitVec 16) (s : State) (j : Job), s.jobAt mover.toNat = some j → j.kind = .move →
    (∀ (extra : Nat) (links : List (Nat × Fin 6)), j.due + 2 * extra ≤ j.deadline → ∃ t : State, exec (.moveComplete mover extra links) s = .next t ∧ t.unitBusy mover.toNat = false) ∧
    (∀ delivered : Nat, delivered < leAt j.desc 16 2 → ∃ t : State, exec (.deadline mover delivered) s = .next t ∧
      t.unitBusy mover.toNat = false ∧ (smFind t.coll.pend (t.moverSrc j.unit)).isSome)

/-- When an MM (op 0x10), EW (op 0x11) or VEC (op 0x18) word is next in a core's list and the unit it names is free, exec answers a next state in which that unit holds the operation. MM takes the form its descriptor names (T, FORM 0; W, FORM 1), EW form 2. An MM or EW operation carries the descriptor DESC indexes in the core's desk and ends its duration D of R83 after its issue, in ARITH cycles of two ticks. (Where the spec leaves a detail of this open, the model reads it as log 22 says.) -/
def Obligations.EnginesAndVectorStart : Prop :=
  ∀ (core : Fin 64) (s : State) (w i : Nat), s.Sound → s.Next core.val w i → s.unitBusy (insArg w 55 40) = false →
    (insOp w = 0x10 → s.opdForm (s.phys core.val) w = 0 → Starts (.mmFormT core) s .mm core.val w (fun j =>
      j.desc = s.rdN (keyDesk (s.phys core.val) (s.dir (s.phys core.val) 16 + 64 * insArg w 39 24)) 64 ∧
      j.due = j.at0 + 2 * (parseOpd j.desc).duration)) ∧
    (insOp w = 0x10 → s.opdForm (s.phys core.val) w = 1 → Starts (.mmFormW core) s .mm core.val w (fun j =>
      j.desc = s.rdN (keyDesk (s.phys core.val) (s.dir (s.phys core.val) 16 + 64 * insArg w 39 24)) 64 ∧
      j.due = j.at0 + 2 * (parseOpd j.desc).duration)) ∧
    (insOp w = 0x11 → s.opdForm (s.phys core.val) w = 2 → Starts (.ew core) s .ew core.val w (fun j =>
      j.desc = s.rdN (keyDesk (s.phys core.val) (s.dir (s.phys core.val) 16 + 64 * insArg w 39 24)) 64 ∧
      j.due = j.at0 + 2 * (parseOpd j.desc).duration)) ∧
    (insOp w = 0x18 → Starts (.vec core) s .vec core.val w (fun j => j.at0 ≤ j.due))

/-- When an STA (op 0x20) to a station of the kind is next in a core's list, its descriptor names the command, and the station (for ATTEND, every ATTEND command) is free, exec answers a next state in which the station holds the operation. COMPRESS and EXPAND last TILES x (ceil(W x H x C / 256) + 16) ARITH cycles (R134), the seven DETECT commands the cycles of R127, RUBRIC_RUN and PROCTOR_COMPARE those of R396; an ATTEND command lasts at least one cycle. (Where the spec leaves a detail of this open, the model reads it as log 32, log 43 says.) -/
def Obligations.StationsStart : Prop :=
  ∀ (core : Fin 64) (s : State) (w i : Nat), s.Sound → s.Next core.val w i → s.unitBusy (insArg w 55 40) = false → insOp w = 0x20 →
    (stKind (insArg w 55 40) = 6 →
      have len := fun (j : Job) => j.due = j.at0 + 2 * (leAt (s.codecDesc w) 14 2 *
        (ceilDiv (leAt (s.codecDesc w) 4 2 * leAt (s.codecDesc w) 6 2 * leAt (s.codecDesc w) 8 2) 256 + 16))
      (leAt (s.codecDesc w) 0 1 = 1 → Starts (.compress core) s .codec core.val w len) ∧
      (leAt (s.codecDesc w) 0 1 = 2 → Starts (.expand core) s .codec core.val w len)) ∧
    (stKind (insArg w 55 40) = 8 →
      have len := fun (j : Job) => j.due = j.at0 + 2 * detCycles (parseDet (s.detDesc w))
        (parseWin (recElem (s.recBytes recWindow s.ctxPlan) 32 (parseDet (s.detDesc w)).win))
      (leAt (s.detDesc w) 0 1 = 0 → Starts (.poolMax core) s .detect core.val w len) ∧
      (leAt (s.detDesc w) 0 1 = 1 → Starts (.poolAvg core) s .detect core.val w len) ∧
      (leAt (s.detDesc w) 0 1 = 2 → Starts (.anchor2d core) s .detect core.val w len) ∧
      (leAt (s.detDesc w) 0 1 = 3 → Starts (.center2d core) s .detect core.val w len) ∧
      (leAt (s.detDesc w) 0 1 = 4 → Starts (.centerBev core) s .detect core.val w len) ∧
      (leAt (s.detDesc w) 0 1 = 5 → Starts (.nmsAxis core) s .detect core.val w len) ∧
      (leAt (s.detDesc w) 0 1 = 6 → Starts (.nmsBev core) s .detect core.val w len)) ∧
    (stKind (insArg w 55 40) = 7 → s.attBusy = false →
      have len := fun (j : Job) => j.at0 < j.due
      (leAt (s.attDesc w) 0 1 = 0 → Starts (.attPlan core) s .attend core.val w len) ∧
      (leAt (s.attDesc w) 0 1 = 1 → Starts (.attAppend core) s .attend core.val w len) ∧
      (leAt (s.attDesc w) 0 1 = 2 → Starts (.attFetch core) s .attend core.val w len) ∧
      (leAt (s.attDesc w) 0 1 = 3 → Starts (.attSpread core) s .attend core.val w len)) ∧
    (stKind (insArg w 55 40) = 9 →
      have len := fun (j : Job) => j.due = j.at0 + 2 * s.rubricCycles w
      (bitAt w 15 = false → Starts (.rubricRun core) s .rubric core.val w len) ∧
      (bitAt w 15 = true → Starts (.proctorCompare core) s .rubric core.val w len))

/-- When a SWAP (op 0x30) is next in a core's list and its engine is free, exec answers a next state in which the engine holds an operation of 12 ARITH cycles (24 ticks), ENG_STATUS.BUSY is 1, and its strands are one rotation step of R77 further. No memory byte changes. -/
def Obligations.SwapRotatesOneStep : Prop :=
  ∀ (core : Fin 64) (s : State) (w i : Nat), s.Sound → s.Next core.val w i → s.unitBusy (insArg w 55 40) = false → insOp w = 0x30 →
    ∃ (t : State) (j : Job), exec (.swap core) s = .next t ∧ t.tt.jobs = s.tt.jobs ++ [j] ∧ j.kind = .swap ∧ j.unit = insArg w 55 40 ∧
      j.due = j.at0 + 24 ∧
      t.eng (s.phys core.val) (stLoc (insArg w 55 40) % 8) = (s.eng (s.phys core.val) (stLoc (insArg w 55 40) % 8)).rotate ∧ t.rf (F.ENG_STATUS_BUSY (s.phys core.val) (stLoc (insArg w 55 40) % 8)) = 1 ∧ SameMem s t

/-- For an operation in progress, its completion event answers a next state in which its unit holds no operation: MM_COMPLETE for an MM or EW, SWAP_COMPLETE for a SWAP (and a strand program starts on the engine), VEC_COMPLETE, CODEC_COMPLETE, DETECT_COMPLETE, ATTEND_COMPLETE (late or not), RUBRIC_COMPLETE and EMIT_RELEASE_COMPLETE for the first operation of their kind and unit; RECESS_END for a core's recess, of which none of that word is left. (Where the spec leaves a detail of this open, the model reads it as log 20, log 37 says.) -/
def Obligations.CompletionsFreeTheirUnit : Prop :=
  ∀ (s : State) (j : Job), s.Sound →
    (∀ u : BitVec 16, s.jobAt u.toNat = some j → j.kind = .mm ∨ j.kind = .ew →
      ∃ t : State, exec (.mmComplete u) s = .next t ∧ t.unitBusy u.toNat = false) ∧
    (∀ u : BitVec 16, s.jobAt u.toNat = some j → j.kind = .swap →
      ∃ t : State, exec (.swapComplete u) s = .next t ∧ t.unitBusy u.toNat = false ∧ t.tst.progs ≠ []) ∧
    (∀ c : Fin 64, s.tt.jobs.find? (fun j => j.kind == .vec && j.core == c.val) = some j →
      ∃ t : State, exec (.vecComplete c) s = .next t ∧ t.unitBusy j.unit = false) ∧
    (∀ u : Fin 8, s.tt.jobs.find? (fun j => j.kind == .codec && stLoc j.unit == u.val) = some j →
      ∃ t : State, exec (.codecComplete u) s = .next t ∧ t.unitBusy j.unit = false) ∧
    (∀ u : Fin 4, s.tt.jobs.find? (fun j => j.kind == .detect && stLoc j.unit == u.val) = some j →
      ∃ t : State, exec (.detectComplete u) s = .next t ∧ t.unitBusy j.unit = false) ∧
    (∀ late : Bool, s.tt.jobs.find? (fun j => j.kind == .attend) = some j →
      ∃ t : State, exec (.attendComplete late) s = .next t ∧ t.unitBusy j.unit = false) ∧
    (s.tt.jobs.find? (fun j => j.kind == .rubric) = some j → ∃ t : State, exec .rubricComplete s = .next t ∧ t.unitBusy j.unit = false) ∧
    (s.tt.jobs.find? (fun j => j.kind == .emit) = some j → ∃ t : State, exec .emitReleaseComplete s = .next t ∧ t.unitBusy j.unit = false) ∧
    (∀ c : Fin 64, s.tt.jobs.find? (fun j => j.kind == .recess && j.core == c.val) = some j →
      ∃ t : State, exec (.recessEnd c) s = .next t ∧ ∀ x ∈ t.tt.jobs, ¬ (x.kind = .recess ∧ x.core = j.core ∧ x.idx = j.idx))

/-- While a bell runs outside a replay, and with no held time step, MAINT entry or PARK entry waiting when it ends, a BELL_EDGE answers a next state in which the bell with the next number runs, its edge is the boundary that was due, and none of its points (health point, gate point, phase 2, plan reload, heartbeat deadline) has passed. (Where the spec leaves a detail of this open, the model reads it as log 19 says.) -/
def Obligations.BellEdgeStartsNextBell : Prop :=
  ∀ s e : State, s.bellPeriod ≠ 0 → s.replay = none → s.pstate ≠ .off → s.bell.running = true →
    e = (s.advanceToNs s.bell.nextB).endBell → e.tsu.held = none → e.flag F.PWR_STATE_MAINT_PENDING = false →
    e.flag F.PWR_STATE_PARK_PENDING = false →
    ∃ t : State, exec .bellEdge s = .next t ∧ t.bell.running = true ∧ t.bell.n = s.bell.n + 1 ∧ t.bell.edge = s.bell.nextB ∧
      t.bell.healthDone = false ∧ t.bell.gateDone = false ∧ t.bell.verdict = false ∧ t.bell.gatePassed = false ∧
      t.bell.phase2Done = false ∧ t.bell.reloadDone = false ∧ t.bell.hbDone = false

/-- While bell N runs, HEALTH_POINT answers a next state whose verdict is healthy exactly when, at H_N, no fault of SAFE or HALT was recorded since the last health point, the part is not in HALT, and every sequencer that ran is at its end with no code error. GATE_POINT answers a next state in which the gate passed exactly when the verdict is healthy and CP0 has written N (32 bits) as its heartbeat; outside a replay, a gate that fails leaves ALIVE stopped and a gate that passes does not stop it. (Where the spec leaves a detail of this open, the model reads it as log 28 says.) -/
def Obligations.HealthAndGatePoints : Prop :=
  ∀ s h : State, s.Sound → s.bell.running = true → h = s.advanceTo (s.bell.start + 2 * s.healthAt) →
    (s.bell.healthDone = false → ∃ t : State, exec .healthPoint s = .next t ∧ t.bell.healthDone = true ∧ t.bell.n = s.bell.n ∧
      (t.bell.verdict = true ↔ h.bell.bad = false ∧ h.pstate ≠ .halt ∧ ∀ n < 64, (h.seqOf n).codeUe = false ∧
        ((h.seqOf n).runs = true → h.flag (F.TT_STATUS_ENDED (h.phys n)) = true))) ∧
    (s.bell.healthDone = true → s.bell.gateDone = false → ∃ t : State, exec .gatePoint s = .next t ∧ t.bell.gateDone = true ∧
      (t.bell.gatePassed = true ↔ s.bell.verdict = true ∧ s.bell.n % 2 ^ 32 ∈ s.bell.hb) ∧
      (s.replay = none → t.bell.gatePassed = false → t.alive.toggling = false) ∧
      (t.bell.gatePassed = true → t.alive.toggling = s.alive.toggling))

/-- Each answers a next state. SCALE_PHASE2 and PLAN_RELOAD mark their point as passed, at their tick after the health point; with more than one module HEARTBEAT_DEADLINE does so after the gate point. PLAN_RELOAD_DONE takes the core out of the reloads in progress, and REMAP_LOAD_DONE marks the core's remap as loaded and CORE_STATE.LOADING of the spare as 0. A BATCH_READY_DEADLINE with every tile written changes no memory and nothing of the timetable. (Where the spec leaves a detail of this open, the model reads it as log 19, log 36 says.) -/
def Obligations.PointsOfTheBell : Prop :=
  ∀ s : State, s.Sound → s.bell.running = true → s.pstate ≠ .halt →
    (s.bell.healthDone = true → s.bell.phase2Done = false → ∃ t : State, exec .scalePhase2 s = .next t ∧ t.bell.phase2Done = true ∧
      t.bell.verdict = s.bell.verdict) ∧
    (s.modules > 1 → s.replay = none → s.bell.gateDone = true → s.bell.hbDone = false →
      ∃ t : State, exec .heartbeatDeadline s = .next t ∧ t.bell.hbDone = true ∧ SameMem s t) ∧
    (∀ f, s.jx.switches.find? (fun x => x.1 == s.bell.n + 1) = some (s.bell.n + 1, f) → s.bell.healthDone = true → s.bell.reloadDone = false →
      ∃ t : State, exec .planReload s = .next t ∧ t.bell.reloadDone = true ∧ SameMem s t ∧
        ∀ n g, (n, g) ∈ t.jx.reload ↔ n < 64 ∧ g = f ∧ s.runsCore f n = true ∧ s.coreImages f n ≠ s.coreImages s.jx.failSet n) ∧
    (∀ n : Fin 64, (∃ f, s.jx.reload.find? (fun x => x.1 == n.val) = some (n.val, f)) →
      ∃ t : State, exec (.planReloadDone n) s = .next t ∧ t.jx.reload = s.jx.reload.filter (fun x => x.1 != n.val)) ∧
    (∀ (n : Fin 64) (r : Remap), s.tt.remaps.find? (fun r => r.logical == n.val && !r.done) = some r →
      ∃ t : State, exec (.remapLoadDone n) s = .next t ∧ t.rf (F.CORE_STATE_LOADING r.dst) = 0 ∧ { r with done := true } ∈ t.tt.remaps) ∧
    (∀ (k : Fin 32) (b : List Byte), s.batches[k.val]? = some b →
      ∃ t : State, exec (.batchReadyDeadline k none) s = .next t ∧ SameMem s t ∧ t.tt = s.tt)

/-- With a start due, ALIVE_START answers a next state in which ALIVE toggles and ALIVE_ON is 1. While ALIVE toggles, ALIVE_TOGGLE drives A when TSU NS div the half-period is even and B when it is odd (with no inversion injected). ALIVE_READBACK_CHECK answers a next state that shows both readbacks; when one differs from its drive ALIVE_FB is sent, and when both agree nothing is. -/
def Obligations.AliveOutputs : Prop :=
  ∀ s : State, s.Sound →
    (s.alive.starting = true → ∃ t : State, exec .aliveStart s = .next t ∧ t.alive.toggling = true ∧ t.alive.starting = false ∧
      t.rf F.FLT_STATUS_ALIVE_ON = 1 ∧ SameMem s t) ∧
    (s.alive.toggling = true → s.alive.inject = none → ∃ t : State, exec .aliveToggle s = .next t ∧ SameMem s t ∧
      (t.alive.driveA = true ↔ (t.tsu.ns / t.aliveHalf) % 2 = 0) ∧ t.alive.driveB = !t.alive.driveA) ∧
    (∀ a b : Bool, ∃ t : State, exec (.aliveReadbackCheck a b) s = .next t ∧ OnlyRegs s t ∧
      t.rf F.FLT_ALIVE_A_RB = (if a then 1 else 0) ∧ t.rf F.FLT_ALIVE_B_RB = (if b then 1 else 0) ∧
      (a ≠ s.alive.driveA ∨ b ≠ s.alive.driveB →
        SentMsg s t srcColl .ALIVE_FB ((if b = s.alive.driveB then 0 else 2) + (if a = s.alive.driveA then 0 else 1))) ∧
      (a = s.alive.driveA → b = s.alive.driveB → t.coll = s.coll))

/-- Where SAFE_REQ_N is used, a qualified assertion answers a next state that shows SAFE_REQ 1 and, outside MAINT and OFF, sends SAFE_REQUEST with source 0; in MAINT it sends nothing. The release shows SAFE_REQ 0 and sends nothing. Neither changes any memory. -/
def Obligations.SafeRequestInput : Prop :=
  ∀ s : State, s.Sound →
    (s.flag F.FLT_STATUS_SAFE_REQ_USED = true → s.pstate ≠ .off → ∃ t : State, exec .safeReqAssert s = .next t ∧
      t.rf F.FLT_STATUS_SAFE_REQ = 1 ∧ SameMem s t ∧ t.pstate = s.pstate ∧
      (s.pstate = .maint → t.coll = s.coll) ∧
      (s.pstate ≠ .maint → s.safety.recovering = false → SentMsg s t srcSafety .SAFE_REQUEST 0)) ∧
    (∃ t : State, exec .safeReqRelease s = .next t ∧ t.rf F.FLT_STATUS_SAFE_REQ = 0 ∧ OnlyRegs s t ∧ t.coll = s.coll)

/-- While registers answer (not in OFF, not in PARK): for a write of FLT_SW in machine mode with a KIND of 0xF8 to 0xFF by CP0, CP1 (or CP1A) or CP1B, exec answers a next state in which, unless a message waited at that source, the message waits there: SOURCE is 0xA00, 0xA40 or 0xA80 plus OFFSET, KIND is FLT_SW.KIND, and ADDRESS joins FLT_SW.ADDR_HI and FLT_SW_ADDR. A write outside machine mode sends no firmware message, and a KIND outside the range sends nothing and REG_DENIED is sent. FW_0 to FW_7 default to LOG in both fields of FLT_KSEV, and no state of the part but the collector changes. -/
def Obligations.FirmwareReportsAFault : Prop :=
  (∀ (s : State) (v : BitVec 32) (r : Requester) (base : Nat), s.Sound → s.pstate ≠ .off → s.parked = false → (r = .cp0 ∧ base = 0xA00) ∨ (r = .cp1 ∧ base = 0xA40) ∨ (r = .cp1b ∧ base = 0xA80) →
    (0xF8 ≤ bits v.toNat 15 8 → ∃ t : State, exec (.fltSw r true v) s = .next t ∧ OnlyRegs s t ∧
      (smFind s.coll.pend (base + bits v.toNat 21 16) = none → smFind t.coll.pend (base + bits v.toNat 21 16) =
        some (plainMsg (base + bits v.toNat 21 16) (bits v.toNat 15 8) (bits v.toNat 7 0 * 2 ^ 32 + s.rf F.FLT_SW_ADDR_ADDR) false))) ∧
    (bits v.toNat 15 8 < 0xF8 → ∃ t : State, exec (.fltSw r true v) s = .next t ∧ Denied s t r A.FLT_SW ∧
      ∀ x, x ≠ srcColl → smFind t.coll.pend x = smFind s.coll.pend x)) ∧
  (∀ (s : State) (v : BitVec 32) (r : Requester), s.Sound → s.pstate ≠ .off → s.parked = false → ∃ t : State, exec (.fltSw r false v) s = .next t ∧ OnlyRegs s t ∧
    ∀ x, x ≠ srcColl → smFind t.coll.pend x = smFind s.coll.pend x) ∧
  (∀ k : Fin 8, State.reset.rf (F.FLT_KSEV_CORE (0xF8 + k.val)) = 0 ∧ State.reset.rf (F.FLT_KSEV_CHIP (0xF8 + k.val)) = 0)

/-- A write of FLT_KSEV or FLT_SEV from CP0 in machine mode in BOOT or MAINT answers a next state in which a KSEV field holds its new value unless that is 6 or 7, and a SEV nibble unless that is 6. Any other write, where registers answer (not in OFF, not in PARK), is ignored and REG_DENIED is sent. The floor of a kind (R323) applies whatever the two tables hold: no effective severity lies below it. -/
def Obligations.SeverityTablesWrite : Prop :=
  (∀ (s : State) (v : BitVec 32), s.Sound → s.pstate = .boot ∨ s.pstate = .maint →
    (∀ k : Fin 256, ∃ t : State, exec (.fltSeverityWrite .cp0 true (BitVec.ofNat 40 (A.FLT_KSEV k.val)) v) s = .next t ∧
      t.rf (F.FLT_KSEV_CORE k.val) = (if bits v.toNat 2 0 = 6 ∨ bits v.toNat 2 0 = 7 then s.rf (F.FLT_KSEV_CORE k.val) else bits v.toNat 2 0) ∧
      t.rf (F.FLT_KSEV_CHIP k.val) = (if bits v.toNat 6 4 = 6 ∨ bits v.toNat 6 4 = 7 then s.rf (F.FLT_KSEV_CHIP k.val) else bits v.toNat 6 4) ∧
      SameRegsBut s t [A.FLT_KSEV k.val]) ∧
    (∀ r : Fin 512, ∃ t : State, exec (.fltSeverityWrite .cp0 true (BitVec.ofNat 40 (A.FLT_SEV r.val)) v) s = .next t ∧
      SameRegsBut s t [A.FLT_SEV r.val] ∧ ∀ i : Fin 8, t.rf ⟨A.FLT_SEV r.val, 4 * i.val + 2, 4 * i.val⟩ =
        (if bits v.toNat (4 * i.val + 2) (4 * i.val) = 6 then s.rf ⟨A.FLT_SEV r.val, 4 * i.val + 2, 4 * i.val⟩
         else bits v.toNat (4 * i.val + 2) (4 * i.val)))) ∧
  (∀ (s : State) (v : BitVec 32) (r : Requester) (m : Bool) (a : BitVec 40), s.Sound → s.pstate ≠ .off → s.parked = false →
    ¬ (r = .cp0 ∧ m = true ∧ (s.pstate = .boot ∨ s.pstate = .maint)) →
    ∃ t : State, exec (.fltSeverityWrite r m a v) s = .next t ∧ Denied s t r a.toNat) ∧
  (∀ (s : State) (src kind : Nat), kindFloor kind ≤ (s.effective src kind).1)

/-- While registers answer (not in OFF, not in PARK), a write of FLT_HEARTBEAT from CP0 in machine mode answers a next state that shows the value as the heartbeat value seen and adds it, and no other, to the values of this bell that the gate looks at. From any other master or mode the write counts for nothing: the heartbeats and the value seen are unchanged. -/
def Obligations.HeartbeatWrite : Prop :=
  ∀ (s : State) (v : BitVec 32), s.Sound → s.pstate ≠ .off → s.parked = false →
    (∃ t : State, exec (.fltHeartbeat .cp0 true v) s = .next t ∧ t.rf F.FLT_HB_SEEN_VALUE = v.toNat ∧
      (∀ n, n ∈ t.bell.hb ↔ n = v.toNat ∨ n ∈ s.bell.hb) ∧ t.bell.gatePassed = s.bell.gatePassed ∧ SameRegsBut s t [A.FLT_HB_SEEN] ∧ SameMem s t) ∧
    (∀ (r : Requester) (m : Bool), ¬ (r = .cp0 ∧ m = true) →
      ∃ t : State, exec (.fltHeartbeat r m v) s = .next t ∧ t.bell = s.bell ∧ t.rf F.FLT_HB_SEEN_VALUE = s.rf F.FLT_HB_SEEN_VALUE ∧
        Denied s t r A.FLT_HEARTBEAT) ∧
    (s.bell.running = true → s.bell.healthDone = true → s.bell.gateDone = false → s.bell.n % 2 ^ 32 ∉ s.bell.hb →
      ∃ t : State, exec .gatePoint s = .next t ∧ t.bell.gatePassed = false)

/-- While registers answer (not in OFF, not in PARK): a write of 1 to FLT_ACK.AGG from CP0 in machine mode answers a next state in which no interrupt is pending and AGG, as FLT_STATUS and STATUS show it, is 0, but 4 in SAFE and 5 in HALT; a write with AGG 0 changes nothing; from any other master or mode REG_DENIED is sent. -/
def Obligations.AcknowledgeAgg : Prop :=
  ∀ (s : State) (floor : Nat), s.Sound → s.pstate ≠ .off → s.parked = false → floor = (if s.pstate = .safe then 4 else if s.pstate = .halt then 5 else 0) →
    (∀ v : BitVec 32, bitAt v.toNat 0 = true → ∃ t : State, exec (.fltAck .cp0 true v) s = .next t ∧ t.agg = floor ∧ t.rf F.FLT_STATUS_AGG = 0 ∧
      t.rf F.FLT_STATUS_IBI_PEND = 0 ∧ t.coll.ibi = none ∧ SameRegsBut s t [A.FLT_STATUS] ∧ OnlyRegs s t) ∧
    (∀ v : BitVec 32, bitAt v.toNat 0 = false → exec (.fltAck .cp0 true v) s = .next s) ∧
    (∀ (r : Requester) (m : Bool) (v : BitVec 32), ¬ (r = .cp0 ∧ m = true) →
      ∃ t : State, exec (.fltAck r m v) s = .next t ∧ Denied s t r A.FLT_ACK)

/-- While registers answer (not in OFF, not in PARK): in the FACTORY_TEST life cycle (code 1), from CP0 in machine mode, each injection command answers a next state with the effect of Table 13-6: a message at SOURCE that carries INJECTED; an armed SRAM, HBM, digest, tile CRC or ALIVE injection; a stopped pair with LOCKSTEP; a sequencer mismatch. Otherwise each is ignored, and REG_DENIED is sent. -/
def Obligations.FaultInjection : Prop :=
  ∀ s : State, s.Sound → s.pstate ≠ .off → s.parked = false →
    (s.rf F.SEC_STATUS_LC = 1 →
      (∃ t : State, exec (.injectMessage .cp0 true) s = .next t ∧ OnlyRegs s t ∧ ∀ src kind hi : Nat,
        src = bits (s.rf F.FLT_INJ_ARG1_ARG) 31 20 → kind = bits (s.rf F.FLT_INJ_ARG1_ARG) 19 12 → hi = bits (s.rf F.FLT_INJ_ARG1_ARG) 7 0 →
        smFind s.coll.pend src = none → smFind t.coll.pend src = 
          some (plainMsg src kind (hi * 2 ^ 32 + s.rf F.FLT_INJ_ARG0_ARG) true)) ∧
      (∃ t : State, exec (.injectSram .cp0 true) s = .next t ∧ t.inj.sram = some (s.rf F.FLT_INJ_ARG0_ARG, s.rf F.FLT_INJ_ARG1_ARG) ∧ t = { s with inj := t.inj }) ∧
      (∃ t : State, exec (.injectHbm .cp0 true) s = .next t ∧ t.inj.hbm = some (s.rf F.FLT_INJ_ARG0_ARG, s.rf F.FLT_INJ_ARG1_ARG) ∧ t = { s with inj := t.inj }) ∧
      (∃ t : State, exec (.injectDigest .cp0 true) s = .next t ∧ bits (s.rf F.FLT_INJ_ARG1_ARG) 5 0 ∈ t.inj.digest ∧ t = { s with inj := t.inj }) ∧
      (∃ t : State, exec (.injectTileCrc .cp0 true) s = .next t ∧ bits (s.rf F.FLT_INJ_ARG1_ARG) 11 0 ∈ t.inj.tile ∧ t = { s with inj := t.inj }) ∧
      (∃ t : State, exec (.injectAlive .cp0 true) s = .next t ∧ t.alive.inject = some (bits (s.rf F.FLT_INJ_ARG1_ARG) 0 0) ∧ t = { s with alive := t.alive }) ∧
      (bits (s.rf F.FLT_INJ_ARG1_ARG) 0 0 = 0 → s.pairStopped 0 = false →
        ∃ t : State, exec (.injectLockstep .cp0 true) s = .next t ∧ t.pairStopped 0 = true ∧ SameMem s t) ∧
      (bits (s.rf F.FLT_INJ_ARG1_ARG) 6 0 < 66 →
        ∃ t : State, exec (.injectSequencer .cp0 true) s = .next t ∧ t.rf (F.TT_SEQ_CMP_MISMATCH (bits (s.rf F.FLT_INJ_ARG1_ARG) 6 0)) = 1 ∧ SameMem s t)) ∧
    (∀ (r : Requester) (m : Bool), ¬ (r = .cp0 ∧ m = true ∧ s.rf F.SEC_STATUS_LC = 1) →
      ∀ c ∈ [Instr.injectMessage r m, .injectSram r m, .injectHbm r m, .injectLockstep r m, .injectSequencer r m, .injectDigest r m, .injectTileCrc r m,
             .injectAlive r m], ∃ t : State, exec c s = .next t ∧ Denied s t r A.FLT_INJ_CTRL)

/-- A lockstep difference of a pair that is not stopped (and not CP1 in split mode) answers a next state in which the pair is stopped, LKS_MM holds the group and the cycle, and LOCKSTEP is sent; of a stopped pair it changes nothing. A sequencer mismatch sets its flag and sends SEQ_MISMATCH. A collector mismatch sets COLL_ERR, enters HALT with ALIVE stopped, and writes no gradebook entry. A test-lane round in BOOT, RUN, SAFE or MAINT with no missed lane counts a pass and sends nothing. (Where the spec leaves a detail of this open, the model reads it as log 9, log 74 says.) -/
def Obligations.ComparatorsStopTheirUnit : Prop :=
  ∀ s : State, s.Sound →
    (∀ (p : Fin 2) (g : Fin 5) (c : BitVec 32), s.pairStopped p.val = false → (p.val = 1 → s.flag F.LKS_STATUS_SPLIT = false) →
      ∃ t : State, exec (.lockstepMismatch p g c) s = .next t ∧ t.pairStopped p.val = true ∧ t.rf (F.LKS_MM_CYC_CYCLE p.val) = c.toNat ∧
        t.rf (F.LKS_MM_INFO_GROUP p.val) = g.val ∧ t.rf (F.LKS_MM_INFO_VALID p.val) = 1 ∧ SameMem s t ∧
        SentMsg s t (srcPair p.val) .LOCKSTEP (p.val * 2 ^ 36 + g.val * 2 ^ 32 + c.toNat)) ∧
    (∀ (p : Fin 2) (g : Fin 5) (c : BitVec 32), s.pairStopped p.val = true → exec (.lockstepMismatch p g c) s = .next s) ∧
    (∀ p : Fin 66, ∃ t : State, exec (.sequencerMismatch p) s = .next t ∧ t.rf (F.TT_SEQ_CMP_MISMATCH p.val) = 1 ∧
      t.rf (F.TT_LAST_FLT_KIND p.val) = Kind.SEQ_MISMATCH.code ∧ OnlyRegs s t ∧
      SentMsg s t (srcSeqCmp p.val) .SEQ_MISMATCH (s.cycle % 2 ^ 28)) ∧
    (s.pstate ≠ .halt → s.pstate ≠ .off → ∃ t : State, exec .collectorMismatch s = .next t ∧ t.pstate = .halt ∧ t.rf F.LKS_STATUS_COLL_ERR = 1 ∧
      t.alive.driveA = false ∧ t.alive.driveB = false ∧ t.rf F.FLT_SEQ_SEQ = s.rf F.FLT_SEQ_SEQ ∧ SameMem s t ∧ t.coll.nvmq = s.coll.nvmq) ∧
    (s.pstate = .boot ∨ s.pstate = .run ∨ s.pstate = .safe ∨ s.pstate = .maint → s.rf F.LKS_LATENT_PASSES < 2 ^ 32 - 1 →
      ∃ t : State, exec (.testLaneRound []) s = .next t ∧ t.rf F.LKS_LATENT_PASSES = s.rf F.LKS_LATENT_PASSES + 1 ∧ OnlyRegs s t ∧
        t.coll = s.coll ∧ SameRegsBut s t [A.LKS_LATENT])

/-- On a hart whose debug module JTAG may reach: attaching marks it attached, shows it in LKS_STATUS and sends DEBUG_ACTIVE; detaching an attached hart sends DEBUG_ACTIVE with the detach bit. At an attached hart of a pair that is not stopped, a halt or a trigger halts the lead, a resume lets it go on, an abstract command and program-buffer execution leave that as it is, and each adds 1 to LKS_DBG_ACT. At a hart that is not attached each changes nothing. -/
def Obligations.DebuggerActions : Prop :=
  ∀ (s : State) (h : Fin 3) (x : Hart), s.Sound → s.harts[h.val]? = some x → s.dbgOpen h.val = true →
    (x.attached = false → ∃ t : State, exec (.debugAttach h) s = .next t ∧ (t.hart h.val).attached = true ∧ t.rf (hartBit h.val) = 1 ∧
      SentMsg s t (srcPair h.val) .DEBUG_ACTIVE (h.val * 2 ^ 36) ∧ SameMem s t) ∧
    (x.attached = true → ∃ t : State, exec (.debugDetach h) s = .next t ∧ (t.hart h.val).attached = false ∧
      SentMsg s t (srcPair h.val) .DEBUG_ACTIVE (h.val * 2 ^ 36 + 2 ^ 32) ∧ SameMem s t) ∧
    (x.attached = true → x.stopped = false → s.rf F.LKS_DBG_ACT_ACTIONS < 2 ^ 32 - 1 →
      ∀ c halted, (c, halted) ∈ [(Instr.debugHalt h, true), (.debugTrigger h, true), (.debugResume h, false), (.debugAbstractCommand h, x.halted),
                                 (.debugProgbufExec h, x.halted)] →
        ∃ t : State, exec c s = .next t ∧ (t.hart h.val).halted = halted ∧ t.rf F.LKS_DBG_ACT_ACTIONS = s.rf F.LKS_DBG_ACT_ACTIONS + 1 ∧
          SameMem s t ∧ t.coll = s.coll ∧ SameRegsBut s t [A.LKS_DBG_ACT]) ∧
    (x.attached = false → ∀ c ∈ [Instr.debugHalt h, .debugTrigger h, .debugResume h, .debugAbstractCommand h, .debugProgbufExec h, .debugDetach h],
      exec c s = .next s)

/-- With a message pending, the copies of the collector agreeing and the rings open (outside PARK and OFF), FAULT_RECORD answers a next state in which round robin stands at the message's source, its kind is among those seen, FLT_SEQ has advanced by 1 (mod 2^32), and AGG is at least the effective severity (R343). A record of severity SAFE in RUN enters SAFE and one of HALT enters HALT, both with ALIVE stopped. With nothing pending it changes nothing. -/
def Obligations.CollectorRecordsAMessage : Prop :=
  ∀ (s : State) (m : Msg), s.Sound → s.parked = false → s.pstate ≠ .off → s.rf F.LKS_STATUS_COLL_ERR = 0 →
    (s.nextPending = none → exec .faultRecord s = .next s) ∧
    (s.nextPending = some m → s.coll.ringsOpen = true → ∃ t : State, exec .faultRecord s = .next t ∧ t.coll.rr = m.src ∧
      m.kind ∈ t.coll.kindsSeen ∧ t.rf F.FLT_SEQ_SEQ = (s.rf F.FLT_SEQ_SEQ + 1) % 2 ^ 32 ∧
      (s.effective m.src m.kind).1 ≤ t.rf F.FLT_STATUS_AGG ∧
      ((s.effective m.src m.kind).1 = 4 → s.pstate = .run → t.pstate = .safe ∧ t.alive.toggling = false) ∧
      ((s.effective m.src m.kind).1 = 5 → s.pstate = .run ∨ s.pstate = .safe → t.pstate = .halt ∧ t.alive.toggling = false))

/-- Once step 5 of a start is reached, EARLY_BUFFER_RELEASE answers a next state with the rings open and the early buffer empty. NVM_ENTRY_WRITTEN answers one in which the boot store holds the 256 bytes of the entry that was being written at its place of the ring, the index has advanced by 1 (mod 16,384) and the written count by 1. RETIREMENT_MAP_WRITTEN answers one in which the queued copy holds the map of 528 words with its CRC. With nothing waiting, the last two change nothing. -/
def Obligations.CollectorStoresAreWritten : Prop :=
  ∀ s : State, s.Sound →
    (s.coll.ringsOpen = false → 5 ≤ s.rf F.BOOT_STATUS_STEP → s.parked = false → ∃ t : State, exec .earlyBufferRelease s = .next t ∧
      t.coll.ringsOpen = true ∧ t.coll.early = [] ∧ t.coll.earlyLost = false) ∧
    (∀ e : Entry, s.coll.nvmBusy = some e → e.bytes.length = 256 → s.coll.nvmIndex < 16384 → s.rf F.FLT_PERSIST_WRITTEN < 2 ^ 16 - 1 →
      ∃ t : State, exec .nvmEntryWritten s = .next t ∧ t.rdN (keyBoot 0 (0x3002000 + 256 * s.coll.nvmIndex)) 256 = e.bytes ∧
        t.coll.nvmIndex = (s.coll.nvmIndex + 1) % 16384 ∧ t.rf F.FLT_PERSIST_WRITTEN = s.rf F.FLT_PERSIST_WRITTEN + 1) ∧
    (s.coll.nvmBusy = none → exec .nvmEntryWritten s = .next s) ∧
    (∀ d r, s.tst.mapq = d :: r → ∃ t : State, exec .retirementMapWritten s = .next t ∧ t.tst.mapq = r ∧
      t.rdN (keyBoot d 0x3502000) 2116 = s.retireMap ∧ SameMemBut s t (keyBoot d 0x3502000) 2116 ∧ t.regs = s.regs) ∧
    (s.tst.mapq = [] → exec .retirementMapWritten s = .next s)

/-- On a powered part that is not parked, each scrub answers a next state. SRAM_SCRUB advances the row and changes no memory byte, whatever bits have flipped; with no wrong bit anywhere it sends nothing. L2_SCRUB of a good line changes nothing, of a line with one wrong bit corrects it and sends L2_CE, and of a line with two sends L2_UE. PATROL_SCRUB advances to the next burst, changes no byte of HBM, and with no wrong symbol anywhere sends nothing. -/
def Obligations.ScrubsReadEveryMemory : Prop :=
  ∀ s : State, s.Sound → s.pstate ≠ .off → s.parked = false →
    (∀ upset, ∃ t : State, exec (.sramScrub upset) s = .next t ∧ t.memc.scrubRow = s.memc.scrubRow + 1 ∧ SameMem s t ∧
      (s.ecc = [] → upset = [] → t.coll = s.coll)) ∧
    (∀ line : BitVec 15, s.eccIn (keyL2 (line.toNat * 64)) 64 = [] →
      exec (.l2Scrub line 0) s = .next s ∧
      (∃ t : State, exec (.l2Scrub line 1) s = .next t ∧ SentMsg s t srcL2 .L2_CE line.toNat ∧ SameMem s t ∧ t.eccIn (keyL2 (line.toNat * 64)) 64 = []) ∧
      (∃ t : State, exec (.l2Scrub line 2) s = .next t ∧ SentMsg s t srcL2 .L2_UE line.toNat ∧ SameMem s t)) ∧
    (s.flag F.MEM_STATUS_TRAINED = true → s.memc.patrol < 25165824 → ∀ upset, ∃ t : State, exec (.patrolScrub upset) s = .next t ∧
      t.memc.patrol = (s.memc.patrol + 1) % 25165824 ∧ (∀ k < 0x600000000, t.rd k = s.rd k) ∧ (s.ecc = [] → upset = [] → t.coll = s.coll))

/-- On a powered part with HBM trained and out of self refresh, a poll answers a next state. A reading in the NORMAL state is shown in MEM_TEMP, and the state is 2 above 95 °C, 1 above 85 °C and 0 otherwise, with the refresh interval 1,560 above 85 °C. With no valid reading HOT is taken from NORMAL, and the fourth failure in a row counts as over temperature; a reading ends the row of failures. No memory byte changes. (Where the spec leaves a detail of this open, the model reads it as log 72 says.) -/
def Obligations.HbmTemperature : Prop :=
  ∀ s : State, s.Sound → s.pstate ≠ .off → s.rf F.MEM_STATUS_TRAINED = 1 → s.rf F.MEM_STATUS_SELF_REFRESH = 0 →
    s.rf F.MEM_STATUS_TEMP_STATE = 0 →
    (∀ r : BitVec 8, ∃ t : State, exec (.hbmTempPoll (some r)) s = .next t ∧ SameMem s t ∧ t.rf F.MEM_TEMP_TEMP = r.toNat ∧
      t.memc.tempFails = 0 ∧ t.rf F.MEM_STATUS_TEMP_STATE = (if 95 < r.toInt then 2 else if 85 < r.toInt then 1 else 0) ∧
      t.rf F.MEM_REFRESH_INTERVAL = (if 85 < r.toInt then 1560 else s.rf F.MEM_REFRESH_INTERVAL)) ∧
    (∃ t : State, exec (.hbmTempPoll none) s = .next t ∧ SameMem s t ∧ t.memc.tempFails = s.memc.tempFails + 1 ∧
      t.rf F.MEM_STATUS_TEMP_STATE = (if s.memc.tempFails = 3 then 2 else 1) ∧ t.rf F.MEM_REFRESH_INTERVAL = 1560)

/-- A library bank whose power-down was requested and that has no write outstanding powers down: it is off and its OCM_LIB_ON bit is 0. At the drain timeout the request is dropped, the bank stays on and OCM_DRAIN shows it. Outside OFF and PARK a clear written by a control pair or the debugger zeroes every stall counter; the I3C port is denied. Without a request the bank commands change nothing. No memory byte changes. -/
def Obligations.BanksAndStallCounters : Prop :=
  ∀ s : State, s.Sound →
    (∀ (c : Fin 66) (b : Fin 256), s.memc.bankReq.any (fun r => r.1 == b.val) = true → smGet (fun _ => 0) s.memc.bankOut b.val = 0 →
      ∃ t : State, exec (.bankPowerDown true c b) s = .next t ∧ b.val ∈ t.memc.bankOff ∧ t.rf ⟨A.OCM_LIB_ON (b.val / 32), b.val % 32, b.val % 32⟩ = 0 ∧ SameMem s t) ∧
    (∀ (lib : Bool) (c : Fin 66) (b : Fin 256), s.memc.bankReq = [] → exec (.bankPowerDown lib c b) s = .next s ∧ exec (.bankDrainTimeout lib c b) s = .next s) ∧
    (∀ (c : Fin 66) (b : Fin 256) (r : Nat × Nat), s.memc.bankReq.find? (fun r => r.1 == b.val) = some r →
      ∃ t : State, exec (.bankDrainTimeout true c b) s = .next t ∧ t.memc.bankOff = s.memc.bankOff ∧ (∀ x ∈ t.memc.bankReq, x.1 ≠ b.val) ∧
        t.rf F.OCM_DRAIN_VALID = 1 ∧ t.rf F.OCM_DRAIN_BANK = b.val ∧ t.rf F.OCM_DRAIN_MEM = 2 ∧ SameMem s t) ∧
    (∀ (r : Requester) (v : BitVec 32), s.pstate ≠ .off → s.parked = false → r ≠ .i3c → bitAt v.toNat 0 = true → ∃ t : State, exec (.ocmCounterClear r v) s = .next t ∧
      (∀ m : Fin 5, t.rf (F.OCM_LIB_STALL_CYCLES m.val) = 0) ∧ (∀ p : Fin 66, t.rf (F.OCM_DESK_STALL_CYCLES p.val) = 0) ∧ OnlyRegs s t ∧ t.coll = s.coll) ∧
    (s.pstate ≠ .off → s.parked = false → ∀ v : BitVec 32, ∃ t : State, exec (.ocmCounterClear .i3c v) s = .next t ∧ Denied s t .i3c A.OCM_CNT_CTRL)

/-- For a region with submissions, exec answers a next state in which the region has been judged. Two submissions with equal CRC and count void nothing. Two that differ void every stream of both, mark their results as failed by the digest, and count an evidence event. A single one voids its streams and marks them likewise. With no submission nothing changes. (Where the spec leaves a detail of this open, the model reads it as log 42 says.) -/
def Obligations.DigestVerdict : Prop :=
  ∀ (s : State) (r : Byte), s.Sound →
    (s.tt.subs.filter (fun x => x.region == r.toNat) = [] → exec (.digestCompare r) s = .next s) ∧
    (∀ x y l, s.tt.subs.filter (fun x => x.region == r.toNat) = x :: y :: l → x.crc = y.crc → x.count = y.count →
      ∃ t : State, exec (.digestCompare r) s = .next t ∧ r.toNat ∈ t.tt.judged ∧ t.tt.voidStreams = s.tt.voidStreams ∧ t.tst = s.tst ∧ SameMem s t) ∧
    (∀ x y l, s.tt.subs.filter (fun x => x.region == r.toNat) = x :: y :: l → x.crc ≠ y.crc ∨ x.count ≠ y.count →
      ∃ t : State, exec (.digestCompare r) s = .next t ∧ r.toNat ∈ t.tt.judged ∧ t.tst.evNext = s.tst.evNext + 1 ∧
        ∀ z ∈ x.streams ++ y.streams, z ∈ t.tt.voidStreams ∧ (z, 2, false) ∈ t.tst.marks) ∧
    (∀ x, s.tt.subs.filter (fun x => x.region == r.toNat) = [x] →
      ∃ t : State, exec (.digestCompare r) s = .next t ∧ r.toNat ∈ t.tt.judged ∧ t.tst.evNext = s.tst.evNext ∧
        ∀ z ∈ x.streams, z ∈ t.tt.voidStreams ∧ (z, 2, false) ∈ t.tst.marks)

/-- EVIDENCE_CAPTURE_DONE before the hold ends leaves no event of the slot uncaptured; EVIDENCE_HOLD_END ends the event with outcome 2 (NONE) in its tile. STRAND_PROGRAM_DONE ends the engine's program: each failing recess strand is retired or waits to be, and each other recess strand counts as tested. SUSPECT_REPLAY_DONE of a waiting suspect at recess retires its strand when the replay differs and changes no strand when it is equal. (Where the spec leaves a detail of this open, the model reads it as log 37, log 42 says.) -/
def Obligations.EvidenceAndStrandPrograms : Prop :=
  ∀ s : State, s.Sound →
    (∀ (slot : Byte) (v : Evid), s.tst.evs.find? (fun v => v.slot == slot.toNat && !v.captured) = some v →
      (∀ dt, s.now + dt ≤ v.holdEnd → ∃ t : State, exec (.evidenceCaptureDone slot dt) s = .next t ∧ ∀ x ∈ t.tst.evs, x.slot = slot.toNat → x.captured = true) ∧
      (s.gradebookBase ≤ 0x600000000 → ∃ t : State, exec (.evidenceHoldEnd slot) s = .next t ∧ (∀ x ∈ t.tst.evs, x.slot ≠ slot.toNat) ∧
        t.rd (s.evKey slot.toNat + 1) = 2)) ∧
    (∀ (p : Fin 66) (e : Fin 8) (x : Nat × Nat × Bool) (fails : List (Fin 100 × BitVec 16)),
      s.tst.progs.find? (fun x => x.1 == p.val * 8 + e.val) = some x → ∃ t : State, exec (.strandProgramDone p e fails) s = .next t ∧
        (∀ y ∈ t.tst.progs, y.1 ≠ p.val * 8 + e.val) ∧
        (∀ f ∈ fails, f.1.val ∈ (s.eng p.val e.val).rec0 → f.1.val ∈ (t.eng p.val e.val).ret ∨ f.1.val ∈ (t.eng p.val e.val).pend) ∧
        (∀ k ∈ (s.eng p.val e.val).rec0, (∀ f ∈ fails, f.1.val ≠ k) → (p.val * 8 + e.val, k) ∈ t.tst.tested)) ∧
    (∀ (slot : Byte) (k : Fin 8) (v : Evid) (u : Sus), s.tst.evs.find? (fun v => v.slot == slot.toNat && v.captured) = some v → v.sus[k.val]? = some u →
      u.status = 0 → s.tt.jobs = [] → s.tst.progs = [] → u.strand ∈ (s.eng u.phys u.engine).rec0 → s.fenced u.phys = false →
      (∃ t : State, exec (.suspectReplayDone slot k true) s = .next t ∧ t.engs = s.engs) ∧
      (∃ t : State, exec (.suspectReplayDone slot k false) s = .next t ∧
        (u.strand ∈ (t.eng u.phys u.engine).ret ∨ u.strand ∈ (t.eng u.phys u.engine).pend)))

/-- Where the register answers, a request from CP0 in machine mode for a target that exists, not queued yet and with room, joins the queue and TST_STATUS.QUEUE shows the new length. One already queued changes nothing. One for an unknown target is refused with reason 2 and one for a full queue with reason 1 by TEST_REQUEST. From any other master or mode it is denied. (Where the spec leaves a detail of this open, the model reads it as log 38, log 39 says.) -/
def Obligations.TestRequestsQueue : Prop :=
  ∀ (s : State) (c : Instr) (q : TestReq) (tgt : BitVec 7), s.Sound → s.regAnswers A.TST_REQ = true → q.target = tgt.toNat →
    (c = .strandExtendedRequest .cp0 true tgt ∧ q.kind = 0 ∧ q.detect = false) ∨ (c = .unitExtendedRequest .cp0 true tgt ∧ q.kind = 1 ∧ q.detect = false) ∨
      (∃ d, c = .stationExtendedRequest .cp0 true d tgt ∧ q.kind = 2 ∧ q.detect = d) →
    ∃ t : State, exec c s = .next t ∧ SameMem s t ∧ ∀ limit, limit = (if q.kind = 2 then (if q.detect then 4 else 8) else 66) →
      (limit ≤ tgt.toNat → OnlyRegs s t ∧ SentMsg s t srcSafety .TEST_REQUEST (2 * 2 ^ 36 + q.kind * 2 ^ 32)) ∧
      (tgt.toNat < limit → q ∈ s.tst.reqs → t = s) ∧
      (tgt.toNat < limit → q ∉ s.tst.reqs → 16 ≤ s.tst.reqs.length → OnlyRegs s t ∧ SentMsg s t srcSafety .TEST_REQUEST (2 ^ 36 + q.kind * 2 ^ 32)) ∧
      (tgt.toNat < limit → q ∉ s.tst.reqs → s.tst.reqs.length < 16 → t.tst.reqs = s.tst.reqs ++ [q] ∧ t.coll = s.coll ∧
        t.rf F.TST_STATUS_QUEUE = s.tst.reqs.length + 1 ∧ SameRegsBut s t [A.TST_STATUS])

/-- From CP0 in machine mode in MAINT, FULL_BIST starts and is due 100,000,000 ticks later, and CALIBRATION shows every A-PHY receiver untrained; outside MAINT each is refused with reason 0 by TEST_REQUEST. From any other master or mode each is denied. When a full BIST ends, every byte of the tile library reads 0 and no byte of HBM differs; with none running FULL_BIST_DONE changes nothing. (Where the spec leaves a detail of this open, the model reads it as log 66 says.) -/
def Obligations.DestructiveTests : Prop :=
  ∀ s : State, s.Sound → s.regAnswers A.TST_REQ = true →
    (s.pstate = .maint → s.tst.bistEnd = none → ∃ t : State, exec (.fullBist .cp0 true) s = .next t ∧ t.tst.bistEnd = some (s.now + 100000000) ∧
      t.regs = s.regs ∧ SameMem s t) ∧
    (s.pstate = .maint → ∃ t : State, exec (.calibration .cp0 true) s = .next t ∧ SameMem s t ∧
      ∀ c : Fin 16, bitAt (t.rf F.CLK_SERDES_APHY_RX) c.val = false) ∧
    (s.pstate ≠ .maint → (∃ t : State, exec (.fullBist .cp0 true) s = .next t ∧ OnlyRegs s t ∧ SentMsg s t srcSafety .TEST_REQUEST (3 * 2 ^ 32)) ∧
      (∃ t : State, exec (.calibration .cp0 true) s = .next t ∧ OnlyRegs s t ∧ SentMsg s t srcSafety .TEST_REQUEST (4 * 2 ^ 32))) ∧
    (∀ (r : Requester) (m : Bool), ¬ (r = .cp0 ∧ m = true) → (∃ t : State, exec (.fullBist r m) s = .next t ∧ Denied s t r A.TST_REQ) ∧
      (∃ t : State, exec (.calibration r m) s = .next t ∧ Denied s t r A.TST_REQ)) ∧
    (∀ e, s.tst.bistEnd = some e → ∃ t : State, exec .fullBistDone s = .next t ∧ t.tst.bistEnd = none ∧ (∀ k < 0x600000000, t.rd k = s.rd k) ∧
      ∀ o < 0x8000000, t.rd (keyLib o) = 0) ∧
    (s.tst.bistEnd = none → exec .fullBistDone s = .next s)

/-- A RECESS next in a core's list reserves each unit its word names until AT plus LENGTH. UNIT_SEGMENT_DONE ends the running segment: a failed one leaves UNIT_TEST_FAIL waiting at its source, and a passed base segment moves the pass to the next. With the pass enabled outside HALT, WEIGHT_DIGEST_CHECK with enough allowance moves to the next object (or to object 0 after the last); with a readable object it is put on the bad map exactly when its SHAKE256 digest differs. DIGEST_PASS_TIMEOUT of a pass in progress that has not reported yet reports missed coverage. (Where the spec leaves a detail of this open, the model reads it as log 38, log 52, log 68 says.) -/
def Obligations.RecessSegmentsAndWeightDigest : Prop :=
  ∀ s : State, s.Sound →
    (∀ (core : Fin 64) (w i : Nat), s.Next core.val w i → insOp w = 0x31 → ∃ t : State, exec (.recess core) s = .next t ∧ SameMem s t ∧
      ∀ x ∈ s.recessUnits core.val w, ∃ j ∈ t.tt.jobs, j.kind = .recess ∧ j.core = core.val ∧ j.unit = x.1 ∧
        j.due = s.bell.start + 2 * (insAt w + insArg w 55 28)) ∧
    (∀ (u : Fin 6) (k : Fin 66) (seg e : Nat), (s.unitT (unitKey u.val k.val)).run = some (seg, e) →
      (∃ t : State, exec (.unitSegmentDone u k false) s = .next t ∧ SameMem s t ∧
        (smFind t.coll.pend (if u.val = 4 then srcCodec k.val else if u.val = 5 then srcDetect k.val else srcRecess k.val)).isSome = true) ∧
      ((s.unitT (unitKey u.val k.val)).complete = false → ∃ t : State, exec (.unitSegmentDone u k true) s = .next t ∧ SameMem s t ∧
        (t.unitT (unitKey u.val k.val)).next = seg + 1 ∧ ((t.unitT (unitKey u.val k.val)).complete = true ↔ s.baseCount u.val ≤ seg + 1))) ∧
    (∀ o n len : Nat, o = s.rf F.TST_DIGEST_NEXT → n = recCount (s.recBytes recDigest 0) 48 → o < n → n ≤ 4096 →
      len = leAt (recElem (s.recBytes recDigest 0) 48 o) 8 4 → len ≤ s.tst.dleft → s.ecc = [] → s.memc.bankOff = [] → s.tst.bad.length < 64 →
      s.flag F.TST_STATUS_DIGEST_BUSY = true → s.pstate ≠ .halt → (s.limited = true → s.inRegion (keyHbm (leAt (recElem (s.recBytes recDigest 0) 48 o) 0 5)) len = true) →
      ∃ t : State, exec .weightDigestCheck s = .next t ∧ SameMem s t ∧ t.tst.dleft = s.tst.dleft - len ∧
        t.rf F.TST_DIGEST_NEXT = (if o + 1 < n then o + 1 else 0) ∧
        (o ∉ s.tst.bad → (o ∈ t.tst.bad ↔ shake256 (s.rdN (keyHbm (leAt (recElem (s.recBytes recDigest 0) 48 o) 0 5)) len) 32 ≠
          ((recElem (s.recBytes recDigest 0) 48 o).drop 16).take 32))) ∧
    (s.flag F.TST_STATUS_DIGEST_BUSY = true → s.tst.dlate = false → s.pstate ≠ .halt → ∃ t : State, exec .digestPassTimeout s = .next t ∧ SameMem s t ∧
      (smFind t.coll.pend srcShk).isSome = true)

/-- While PTP runs: a message with a parse error or a foreign domain is dropped, counted at its port and reported (PTP_BAD waits at the TSU's source), and neither the chosen master nor the servo state changes. A Sync of the chosen master takes a free servo to ACQUIRE and, when two-step, waits for its Follow_Up, which completes it. A delay request is answered on a GM port with its receive time, a peer delay request with its turnaround; a matching response of either mechanism sets the mean path delay of R285. The first Announce selects its sender, and the other ports of SLAVE_PORTS become passive (log 71). Times are in 2^-16 ns. (Where the spec leaves a detail of this open, the model reads it as log 11, log 12, log 29, log 71 says.) -/
def Obligations.PtpMessagesReceived : Prop :=
  ∀ s a : State, ∀ m : PtpMsg, s.Sound → s.ptpOn = true → a = s.advance m.dt →
    (s.ptpGood m.port.val m.ok m.domain = false → ∀ c ∈ [Instr.ptpSync m, .ptpFollowUp m, .ptpDelayReq m, .ptpDelayResp m, .ptpPdelayReq m, .ptpPdelayResp m,
        .ptpPdelayRespFollowUp m], ∃ t : State, exec c s = .next t ∧ (smFind t.coll.pend srcTsu).isSome = true ∧ t.tsu.best = s.tsu.best ∧ t.servo = s.servo ∧ SameMem s t) ∧
    (s.ptpGood m.port.val m.ok m.domain = true →
      (∀ b : PtpAnn, bitAt s.slavePorts m.port.val = true → s.staticPtp = false → s.tsu.best = some b → b.port = m.port → b.clock = m.clock → b.sport = m.sport →
        (m.twoStep = true → ∃ t : State, exec (.ptpSync m) s = .next t ∧ t.tsu.sync2 = some (m.seq.toNat, a.rxTime m.port.val, m.corr + a.asym m.port.val) ∧
          t.tsu.lastSync = a.now ∧ t.servo = (if s.servo = 0 then 1 else s.servo)) ∧
        (∀ t2 c, s.tsu.sync2 = some (m.seq.toNat, t2, c) → ∃ t : State, exec (.ptpFollowUp m) s = .next t ∧ t.tsu.sync2 = none ∧
          t.tsu.lastT1 = some ((m.ts : Int) * 65536 + (c + m.corr), t2))) ∧
      (bitAt s.gmPorts m.port.val = true → s.p2p = false → ∃ t : State, exec (.ptpDelayReq m) s = .next t ∧
        t.sent = a.sent ++ [Out.ptpDelayResp m.port.val m.clock.toNat m.seq.toNat (a.rxTime m.port.val)] ∧ SameMem s t) ∧
      (s.p2p = true → ∃ t : State, exec (.ptpPdelayReq m) s = .next t ∧ t.sent = a.sent ++ [Out.ptpPdelayResp m.port.val m.clock.toNat m.seq.toNat
        (m.corr + (m.ts : Int) * 65536 + (a.txTime m.port.val - a.rxTime m.port.val))] ∧ SameMem s t) ∧
      (∀ t3 t1 t2 : Int, s.fromMaster m = true → s.p2p = false → s.tsu.req = some (m.seq.toNat, t3) → s.tsu.lastT1 = some (t1, t2) → m.reqClock.toNat = s.clockId →
        ∃ t : State, exec (.ptpDelayResp m) s = .next t ∧ t.tsu.req = none ∧ t.tsu.delayValid = true ∧
          t.tsu.delay = ((t2 - t1) + ((m.ts : Int) * 65536 - m.corr - t3)) / 2 ∧ t.rf F.TSU_PDELAY_DELAY = sat32 (t.tsu.delay / 65536)) ∧
      (∀ t1 : Int, bitAt s.slavePorts m.port.val = true → s.p2p = true → s.tsu.req = some (m.seq.toNat, t1) → m.reqClock.toNat = s.clockId →
        (m.twoStep = false → ∃ t : State, exec (.ptpPdelayResp m) s = .next t ∧ t.tsu.req = none ∧ t.tsu.delayValid = true ∧
          t.tsu.delay = (a.rxTime m.port.val - t1 - m.corr - a.asym m.port.val) / 2) ∧
        (m.twoStep = true → ∃ t : State, exec (.ptpPdelayResp m) s = .next t ∧ t.tsu.pd2 = some (m.seq.toNat, (m.ts : Int) * 65536, a.rxTime m.port.val, m.corr + a.asym m.port.val)) ∧
        (∀ t2 t4 c : Int, s.tsu.pd2 = some (m.seq.toNat, t2, t4, c) → ∃ t : State, exec (.ptpPdelayRespFollowUp m) s = .next t ∧ t.tsu.req = none ∧
          t.tsu.pd2 = none ∧ t.tsu.delay = ((t4 - t1) - ((m.ts : Int) * 65536 - t2) - c - m.corr) / 2))) ∧
    (∀ b : PtpAnn, s.ptpGood b.port.val b.ok b.domain = true → bitAt s.slavePorts b.port.val = true → s.staticPtp = false → s.tsu.best = none →
      ∃ t : State, exec (.ptpAnnounce b) s = .next t ∧ t.tsu.best = some b ∧ t.rf F.TSU_STATUS_SLAVE = b.port.val ∧
        t.rf (F.TSU_PORT_STAT_ROLE b.port.val) = 1 ∧
        (∀ p < 6, bitAt s.slavePorts p = true → p ≠ b.port.val → t.rf (F.TSU_PORT_STAT_ROLE p) = 3) ∧ SameMem s t)

/-- While PTP runs and Abnos is not parked: PTP_SYNC_SEND puts a Sync with SEC, NS and FRAC of the corrected send time on every GM port, PTP_ANNOUNCE_SEND an Announce with the locked or the unlocked clock class, and PTP_DELAY_REQ_SEND a request with the next sequence number and the port's asymmetry as its correction, kept with its send time. SYNC_LOSS takes a LOCKED servo to HOLDOVER, HOLDOVER_MAX sets FREE_RUNNING, and LOCK_TIMEOUT of a part never locked sets TIMEOUT; each leaves its message waiting at the TSU's source. The three timeouts and the sends change no memory. -/
def Obligations.PtpSendsAndServoTimeouts : Prop :=
  ∀ s : State, s.Sound → s.ptpOn = true → s.parked = false →
    (∃ t : State, exec .ptpSyncSend s = .next t ∧ t = { s with sent := t.sent } ∧ ∀ p < 6, ∀ n, bitAt s.gmPorts p = true → n = (s.txTime p).toNat →
      Out.ptpSync p (n / 65536 / 1000000000) (n / 65536 % 1000000000) (n % 65536) ∈ t.sent) ∧
    (∃ t : State, exec .ptpAnnounceSend s = .next t ∧ t = { s with sent := t.sent } ∧ ∀ p < 6, bitAt s.gmPorts p = true →
      Out.ptpAnnounce p (s.recLe recTime 21 1) 255 (if s.servo = 3 then s.recLe recTime 22 1 else 248) (if s.servo = 3 then 0x40 else 0xA0) ∈ t.sent) ∧
    (s.slavePort < 6 → ∃ t : State, exec .ptpDelayReqSend s = .next t ∧ t.tsu.req = some ((s.tsu.reqSeq + 1) % 65536, s.txTime s.slavePort) ∧
      t.sent = s.sent ++ [if s.p2p then Out.ptpPdelayReq s.slavePort ((s.tsu.reqSeq + 1) % 65536) (-(s.asym s.slavePort))
        else Out.ptpDelayReq s.slavePort ((s.tsu.reqSeq + 1) % 65536) (-(s.asym s.slavePort))] ∧
      SameMem s t ∧ t.regs = s.regs) ∧
    (s.servo = 3 → ∃ t : State, exec .syncLoss s = .next t ∧ t.servo = 4 ∧ (smFind t.coll.pend srcTsu).isSome = true ∧ SameMem s t) ∧
    (s.servo = 4 → ∃ t : State, exec .holdoverMax s = .next t ∧ t.rf F.TSU_STATUS_FREE_RUNNING = 1 ∧ t.servo = 4 ∧
      (smFind t.coll.pend srcTsu).isSome = true ∧ SameMem s t) ∧
    (s.tsu.locked = false → s.flag F.TSU_STATUS_TIMEOUT = false → ∃ t : State, exec .lockTimeout s = .next t ∧ t.rf F.TSU_STATUS_TIMEOUT = 1 ∧
      t.servo = s.servo ∧ (smFind t.coll.pend srcTsu).isSome = true ∧ SameMem s t)

/-- A message that is not valid (R295) changes nothing. HELLO of version 1 with this plan's digest is held; another version is refused with code 1 and another digest with code 2, the peer counts as absent and JXL_VERSION is sent. READY is held with its lock state. HEARTBEAT keeps its bell and verdict; when its failure set names this module and bells run, the module is excluded from the bell after it and SAFE_REQUEST 2 is sent. JOIN of another module is kept; of this one, when LOCKED, it sets the join bell, and outside MAINT and HALT arms it. REFUSE is counted and changes no peer. The sends put one message on the link, and JOIN_BELL is at least two bells after the current one, a free lead beyond that (log 13). (Where the spec leaves a detail of this open, the model reads it as log 71 says.) -/
def Obligations.JexongPeerMessages : Prop :=
  ∀ (s : State) (m : JxMsg) (k : Nat), s.Sound → k < 4 →
    (∀ c n, (c, n) ∈ [(Instr.jxHello m, 1), (.jxReady m, 2), (.jxArm m, 3), (.jxHeartbeat m, 4), (.jxJoin m, 5), (.jxRefuse m, 6)] → s.jxFrom m n = none →
      exec c s = .next s) ∧
    (s.jxFrom m 1 = some k →
      (leAt m.payload 4 1 = 1 → m.payload.drop 8 = s.planDigest → ∃ t : State, exec (.jxHello m) s = .next t ∧ (t.peer k).helloMajor = some 1 ∧
        (t.peer k).absent = false ∧ t.coll = s.coll ∧ SameMem s t) ∧
      (∀ code, code = (if leAt m.payload 4 1 = 1 then 2 else 1) → (leAt m.payload 4 1 = 1 → m.payload.drop 8 ≠ s.planDigest) →
        ∃ t : State, exec (.jxHello m) s = .next t ∧ (t.peer k).absent = true ∧ SentMsg s t srcJx .JXL_VERSION (k * 2 ^ 32 + code * 2 ^ 8 + leAt m.payload 4 1))) ∧
    (s.jxFrom m 2 = some k → (s.peer k).absent = false → ∃ t : State, exec (.jxReady m) s = .next t ∧ (t.peer k).ready = true ∧
      ((t.peer k).readyLocked = true ↔ leAt m.payload 6 1 = 3) ∧ t = { s with jx := t.jx }) ∧
    (s.jxFrom m 4 = some k → ∃ t : State, exec (.jxHeartbeat m) s = .next t ∧ (t.peer k).hbBell = some (leAt m.payload 8 8) ∧
      ((t.peer k).hbVerdict = true ↔ leAt m.payload 4 1 = 1) ∧ t.rf (F.JXL_PEER_BELL_BELL k) = leAt m.payload 8 8 % 2 ^ 32 ∧ SameMem s t ∧
      (bitAt (leAt m.payload 5 1) s.moduleId = false → t.safety = s.safety ∧ t.coll = s.coll) ∧
      (bitAt (leAt m.payload 5 1) s.moduleId = true → s.bell.running = true → s.safety.excluded = false →
        t.safety.excluded = true ∧ t.safety.exclFrom = leAt m.payload 8 8 + 1 ∧ SentMsg s t srcSafety .SAFE_REQUEST 2)) ∧
    (∀ j b, s.jxFrom m 5 = some k → j = leAt m.payload 4 1 → b = leAt m.payload 8 8 →
      (j ≠ s.moduleId → j < s.modules → ∃ t : State, exec (.jxJoin m) s = .next t ∧ t.jx.joiners = s.jx.joiners ++ [(j, b)] ∧ t = { s with jx := t.jx }) ∧
      (j = s.moduleId → s.servo = 3 → ∃ t : State, exec (.jxJoin m) s = .next t ∧ t.jx.joinBell = some b ∧ SameMem s t ∧
        (s.bell.running = false → s.pstate ≠ .maint → s.pstate ≠ .halt → t.bell.armed = true ∧ t.bell.nextB = s.bellEdgeNs b))) ∧
    (s.jxFrom m 6 = some k → ∃ t : State, exec (.jxRefuse m) s = .next t ∧ t.jx = s.jx ∧ t.coll = s.coll ∧ SameMem s t ∧
      t.rf F.JXL_EVENTS_REFUSED = min (s.rf F.JXL_EVENTS_REFUSED + 1) 255) ∧
    (1 < s.modules → s.pstate ≠ .off → s.parked = false → s.others.all (fun k => (s.peer k).helloMajor.isSome) = false → ∃ (t : State) (x : List Byte), exec .jxHelloSend s = .next t ∧
      t = { s with sent := s.sent ++ [Out.jx x] }) ∧
    (1 < s.modules → s.pw.ready = true → s.pstate ≠ .maint → s.pstate ≠ .halt → s.outside = true → s.servo = 3 → ∃ (t : State) (x : List Byte), exec .jxReadySend s = .next t ∧
      t.sent = s.sent ++ [Out.jx x] ∧ t.jx.readySent = some (s.jx.readySent.getD s.now) ∧ t.rf F.JXL_STATUS_PHASE ≠ 0 ∧ SameMem s t) ∧
    (s.bell.running = true → s.actingMaster = some s.moduleId → s.servo = 3 →
      s.others.find? (fun m => bitAt s.announced m && (s.peer m).ready && (s.peer m).readyLocked) = some k →
      ∃ (t : State) (x : List Byte), exec .jxJoinSend s = .next t ∧ t.sent = s.sent ++ [Out.jx x] ∧ t.jx.joiners = s.jx.joiners ++ [(k, s.bell.n + 2 + Config.joinLead s.bell.n)] ∧
        (t.peer k).ready = false ∧ SameMem s t)

/-- A module of several that holds READY and no ARM arms in each of three ways: the master when every READY is held or at READY_TIMEOUT, and the lowest locked ready module at the fallback; then ARM is held and the phase is 2. An ARM that names this module, in time and before its bells, and that no ARM of its own outranks, is held with its members, first bell and GO time. GO_DRIVE drives SYNC once. GO_EDGE with no ARM held is reported as stray; with one in time it is shown in GO_SEEN and arms the first bell at its edge, and a free-running module takes GO time for its own. GO_TIMEOUT reports that no GO came. GO_LOOP_CHECK shows up to 200 cycles, and otherwise reports the link. (Where the spec leaves a detail of this open, the model reads it as log 71 says.) -/
def Obligations.JexongArmAndGo : Prop :=
  ∀ s : State, s.Sound →
    (s.canArm = true → s.isMaster = true →
      (s.others.all (fun m => (s.peer m).ready) = true → ∃ (t : State) (members f : Nat), exec .armSend s = .next t ∧ f = s.firstBellAt (s.timeUp + 50000000) ∧
        t.jx.arm = some (members, f, s.bellEdgeNs f - 1000000) ∧ t.jx.armSent = true ∧ t.rf F.JXL_STATUS_PHASE = 2 ∧ t.coll = s.coll ∧ SameMem s t) ∧
      (∃ t : State, exec .readyTimeout s = .next t ∧ t.jx.arm.isSome = true ∧ t.jx.armSent = true ∧ t.rf F.JXL_STATUS_PHASE = 2 ∧ SameMem s t)) ∧
    (s.canArm = true → s.isMaster = false → s.servo = 3 →
      s.others.any (fun m => decide (m < s.moduleId) && (s.peer m).ready && (s.peer m).readyLocked) = false →
      ∃ t : State, exec .armFallback s = .next t ∧ t.jx.arm.isSome = true ∧ t.jx.armSent = true ∧ t.rf F.JXL_STATUS_PHASE = 2 ∧ SameMem s t) ∧
    (∀ (m : JxMsg) (k members first go : Nat), s.jxFrom m 3 = some k → members = leAt m.payload 4 1 → first = leAt m.payload 8 8 →
      go = leAt m.payload 16 6 * 1000000000 + leAt m.payload 22 4 → s.armNames members = true → s.bell.running = false →
      s.flag F.JXL_STATUS_GO_SEEN = false → s.pw.first = 1 → s.timeUp ≤ go + 100000 →
      (s.jx.armSent = true → k = s.recLe recJexong 2 1 ∨ (s.isMaster = false ∧ k < s.moduleId)) → ∃ t : State, exec (.jxArm m) s = .next t ∧ t.jx.arm = some (members, first, go) ∧ t.rf F.JXL_STATUS_PHASE = 2 ∧ t.coll = s.coll ∧ SameMem s t) ∧
    (∀ members first go : Nat, s.jx.arm = some (members, first, go) →
      (s.isMaster = true → s.jx.armSent = true → s.jx.driven = false → ∃ t : State, exec .goDrive s = .next t ∧ t.jx.driven = true ∧ Out.syncGo ∈ t.sent ∧ SameMem s t) ∧
      (∀ late, 1 < s.modules → s.pstate ≠ .off → s.parked = false → s.pstate ≠ .maint → s.pstate ≠ .halt →
        s.armNames members = true → s.bell.running = false → s.flag F.JXL_STATUS_GO_SEEN = false →
        ((s.advanceToNs (go + s.cableNs)).advance late).timeUp ≤ go + 100000 →
        ∃ t : State, exec (.goEdge late) s = .next t ∧ t.rf F.JXL_STATUS_GO_SEEN = 1 ∧ t.bell.armed = true ∧ t.bell.nextB = s.bellEdgeNs first ∧
          t.rf F.JXL_FIRST_LO_BELL = first % 2 ^ 32 ∧ SameMem s t ∧ (s.flag F.TSU_STATUS_FREE_RUNNING = true → t.tsu.ns = (go + s.cableNs + 5) % 1000000000)) ∧
      (s.armNames members = true → s.bell.running = false → s.bell.armed = false → s.flag F.JXL_STATUS_GO_SEEN = false →
        ∃ t : State, exec .goTimeout s = .next t ∧ (smFind t.coll.pend srcJx).isSome = true ∧ SameMem s t ∧
          (s.flag F.TSU_STATUS_FREE_RUNNING = true → t.jx.arm = none))) ∧
    (s.jx.arm = none → 1 < s.modules → s.pstate ≠ .off → s.parked = false → ∀ late, ∃ t : State, exec (.goEdge late) s = .next t ∧ OnlyRegs s t ∧
      SentMsg s t srcJx .JXL_STRAY_GO (if s.bell.running then s.bell.n % 2 ^ 32 else 0)) ∧
    (s.isMaster = true → s.jx.driven = true →
      (∀ c : BitVec 16, c.toNat ≤ 200 → ∃ t : State, exec (.goLoopCheck (some c)) s = .next t ∧ t.rf F.JXL_LOOP_CYCLES = c.toNat ∧ OnlyRegs s t ∧ t.coll = s.coll) ∧
      (∀ r : Option (BitVec 16), (∀ c ∈ r, 200 < c.toNat) → ∃ t : State, exec (.goLoopCheck r) s = .next t ∧ OnlyRegs s t ∧ SentMsg s t srcJx .JXL_LINK 0))

/-- For a receiver with a record: a packet whose header is discarded opens and changes no frame and leaves CAM_HDR waiting. A good FS on the VC of plane 0, with no frame open, no trigger required and buffer 0 free, opens a frame in buffer 0 with its frame number, T_SOF (the TSU time less the latency) and capture time, and shows the number. Where the region may be written, a line with a good CRC of the full length lands at its place of the frame's buffer and is counted. FRAME_END and FRAME_TIMEOUT leave no whole frame open, and a timeout with frames open leaves none at all. (Where the spec leaves a detail of this open, the model reads it as log 33, log 73 says.) -/
def Obligations.CameraFramesReceived : Prop :=
  ∀ (s a : State) (c : Fin 16) (r : List Byte) (dt : Nat), s.Sound → s.camOn c.val = some r → a = s.advance dt →
    (∀ vc frame lat, ∃ t : State, exec (.frameStart c vc frame 2 lat dt) s = .next t ∧ (t.cam c.val).opens = (s.cam c.val).opens ∧
      (smFind t.coll.pend (srcCam c.val)).isSome = true ∧ SameMem s t) ∧
    (∀ (vc : Fin 4) (frame : BitVec 16) (lat : Nat), (vcPlanes r vc.val).contains 0 = true → camFlag r 0 = false → (s.cam c.val).opens = [] →
      (s.cam c.val).bufs.length = 3 → (s.cam c.val).bufSt 0 = 0 → ∃ (t : State) (o : CamOpen), exec (.frameStart c vc frame 0 lat dt) s = .next t ∧
        (t.cam c.val).opens = [o] ∧ o.buf = some 0 ∧ o.frame = frame.toNat ∧ o.sof = a.timeNs - lat ∧ o.capt = o.sof - leAt r 32 4 ∧
        (t.cam c.val).bufSt 0 = 1 ∧ (t.cam c.val).lastFrame = some frame.toNat ∧ t.rf (F.CSI_SOF_FRM_FRAME c.val) = frame.toNat ∧ SameMem s t) ∧
    (∀ (vc : Fin 4) (dtype : BitVec 6) (payload : List Byte) (e i k : Nat) (o : CamOpen), packetPlane r vc.val dtype.toNat = some e →
      (s.cam c.val).opens = [o] → (o.started[e]?).getD false = true → (o.ended[e]?).getD true = false → o.lines[e]? = some i → i < planeLines r e →
      o.buf = some k → payload.length = planeBytes r e → s.memc.bankOff = [] →
      (s.limited = true → s.unlocked (keyHbm (s.fbBase c.val k + planeOff r e i)) (up64 (planeBytes r e)) = true) → ∃ (t : State) (o2 : CamOpen), exec (.longPacket c vc dtype 0 true payload dt) s = .next t ∧
        t.rdN (keyHbm (s.fbBase c.val k + planeOff r e i)) payload.length = payload ∧ (t.cam c.val).opens = [o2] ∧ o2.lines[e]? = some (i + 1) ∧
        o2.repairs = o.repairs) ∧
    (∀ vc, ∃ t : State, exec (.frameEnd c vc 0 dt) s = .next t ∧ ∀ o ∈ (t.cam c.val).opens, o.whole r = false) ∧
    ((s.cam c.val).opens ≠ [] → ∃ t : State, exec (.frameTimeout c) s = .next t ∧ (t.cam c.val).opens = [])

/-- For a receiver with a record: a link that goes down shows 0 and, if it was up, sends CAM_LINK; one that reaches its gear with the script passed, on a port with power, shows up; otherwise CAM_LINK is sent, and a camera whose script failed counts as failed. A trigger of a triggered camera with its link up leaves on its line. PSET_COMMIT with a tag other than 0 puts the staged words behind the waiting sets. ISP_FRAME_START takes the earliest waiting frame into a free pipeline, and ISP_FRAME_DONE frees the pipeline and makes its output set the newest. (Where the spec leaves a detail of this open, the model reads it as log 33, log 73 says.) -/
def Obligations.CameraLinkTriggerAndIsp : Prop :=
  (∀ (s : State) (c : Fin 16) (r : List Byte), s.Sound → s.camOn c.val = some r →
    (∃ t : State, exec (.camLinkDown c) s = .next t ∧ t.rf (F.CSI_LINK_UP c.val) = 0 ∧ bitAt (t.rf F.CLK_SERDES_APHY_RX) c.val = false ∧ OnlyRegs s t ∧
      (s.rf (F.CSI_LINK_UP c.val) = 1 → SentMsg s t (srcCam c.val) .CAM_LINK (c.val * 2 ^ 36)) ∧ (s.rf (F.CSI_LINK_UP c.val) = 0 → t.coll = s.coll)) ∧
    (∀ (g : Fin 6) (ok : Bool), s.rf (F.CSI_LINK_POC_ON c.val) = 1 → ∃ t : State, exec (.camLinkUp c g ok) s = .next t ∧ SameMem s t ∧
      t.rf (F.CSI_LINK_GEAR c.val) = g.val ∧ t.rf (F.CSI_LINK_UP c.val) = (if leAt r 2 1 ≤ g.val ∧ 0 < g.val then 1 else 0) ∧
      (leAt r 2 1 ≤ g.val → 0 < g.val → ok = true → t.coll = s.coll ∧ t.cams = s.cams) ∧
      (¬ (leAt r 2 1 ≤ g.val ∧ 0 < g.val ∧ ok = true) → (ok = false → (t.cam c.val).failed = true) ∧ SentMsg s t (srcCam c.val) .CAM_LINK (c.val * 2 ^ 36))) ∧
    (camFlag r 0 = true → s.rf (F.CSI_LINK_UP c.val) = 1 → s.bellPeriod ≠ 0 → ∃ (t : State) (x : Nat), exec (.cameraTrigger c) s = .next t ∧
      Out.gpio c.val ∈ t.sent ∧ (t.cam c.val).trigs.head? = some x ∧ SameMem s t) ∧
    (∀ (q : Requester) (tag : BitVec 32), q ≠ .i3c → s.regAnswers (A.ISP_PSET_COMMIT c.val) = true → tag.toNat % 65536 ≠ 0 → (s.cam c.val).psets.length < 8 →
      ∃ t : State, exec (.psetCommit q c tag) s = .next t ∧ (t.cam c.val).psets = (s.cam c.val).psets ++
        [(tag.toNat % 65536, (List.range 16).flatMap (fun w => leBytes 4 (s.rf (F.ISP_PSET_WORD c.val w))))] ∧
        t.rf (F.ISP_TAGS_PENDING c.val) = (s.cam c.val).psets.length + 1 ∧ SameMem s t ∧ t.coll = s.coll)) ∧
  (∀ (s : State) (p : Fin 4) (r : List Byte), s.Sound →
    (∀ (sof : Nat) (c : Fin 16) (k : Nat), s.pstate ≠ .off → s.parked = false → s.pipes[p.val]? = some none → earliest (s.waiting p.val) = some (sof, c.val, k) →
      s.camRec c.val = some r → ∃ (t : State) (j : PipeJob), exec (.ispFrameStart p) s = .next t ∧ t.pipes[p.val]? = some (some j) ∧ j.cam = c.val ∧ j.buf = k ∧
        j.due = s.now + ceilDiv (2 * tProc (camWidth r) (camLines r)) 3 ∧ t.rf (F.ISP_STATUS_BUSY p.val) = 1 ∧ t.rf (F.ISP_STATUS_CAMERA p.val) = c.val ∧ SameMem s t) ∧
    (∀ (j : PipeJob) (dropped : List Nat), s.pipes[p.val]? = some (some j) → j.cam < 16 → s.camRec j.cam = some r → ∃ t : State,
      exec (.ispFrameDone p dropped) s = .next t ∧ t.pipes[p.val]? = some none ∧ t.rf (F.ISP_STATUS_BUSY p.val) = 0 ∧ (t.cam j.cam).newest = some j.set))

/-- For a camera with a record, from a master that reaches the register, while the bus is busy: a WRITE or READ joins its queue; a WRITE to queue 0 with a group open joins the group; GROUP_OPEN with a tag opens a group; GROUP_COMMIT puts it on queue 0. A transaction that ends frees the bus when nothing waits: a NACK is shown and left as a message, a group completed is kept with its tag and time. A timeout is shown, left as a message, and frees the bus. No memory changes. -/
def Obligations.I2cTunnel : Prop :=
  ∀ (s : State) (c : Fin 16) (r : List Byte), s.Sound → s.camOn c.val = some r →
    (∀ (q : Requester) (u : Fin 2) (cmd : BitVec 32) (x : Nat × I2cOp) (l : List I2cOp), q ≠ .i3c → s.regAnswers (A.CSI_I2C_CMD c.val u.val) = true →
      (s.cam c.val).running = some x → (s.cam c.val).queues[u.val]? = some l → (s.cam c.val).used u.val < 32 →
      (bits cmd.toNat 31 30 = 1 → ∃ t : State, exec (.i2cRead q c u cmd) s = .next t ∧ SameMem s t ∧
        (t.cam c.val).queues[u.val]? = some (l ++ [.read (cmdDev r cmd.toNat) (bits cmd.toNat 15 0) (bits cmd.toNat 29 28 + 1)])) ∧
      (bits cmd.toNat 31 30 = 0 → ∀ data : BitVec 32,
        ((s.cam c.val).group = none → ∃ t : State, exec (.i2cWrite q c u cmd data) s = .next t ∧ SameMem s t ∧ (t.cam c.val).queues[u.val]? =
          some (l ++ [.write (cmdDev r cmd.toNat) (bits cmd.toNat 15 0) (leBytes (bits cmd.toNat 29 28 + 1) data.toNat)])) ∧
        (∀ tag ws, u.val = 0 → (s.cam c.val).group = some (tag, ws) → ws.length < 24 → ∃ t : State, exec (.i2cWrite q c u cmd data) s = .next t ∧ SameMem s t ∧
          (t.cam c.val).group = some (tag, ws ++ [(cmdDev r cmd.toNat, bits cmd.toNat 15 0, leBytes (bits cmd.toNat 29 28 + 1) data.toNat)]))) ∧
      (bits cmd.toNat 31 30 = 2 → u.val = 0 → (s.cam c.val).group = none → bits cmd.toNat 15 0 ≠ 0 → ∃ t : State, exec (.groupOpen q c u cmd) s = .next t ∧ SameMem s t ∧
        (t.cam c.val).group = some (bits cmd.toNat 15 0, [])) ∧
      (bits cmd.toNat 31 30 = 3 → u.val = 0 → ∀ tag ws, (s.cam c.val).group = some (tag, ws) → ∃ t : State, exec (.groupCommit q c u cmd) s = .next t ∧ SameMem s t ∧
        (t.cam c.val).group = none ∧ (t.cam c.val).queues[0]? = some (l ++ [.group tag ws]))) ∧
    (∀ (u : Fin 2) (op : I2cOp), (s.cam c.val).running = some (u.val, op) → (s.cam c.val).queues = [[], []] →
      (∀ i data dt, ∃ t : State, exec (.i2cTransactionDone c (some i) data dt) s = .next t ∧ (t.cam c.val).running = none ∧
        t.rf (F.CSI_I2C_STAT_NACK c.val u.val) = 1 ∧ (smFind t.coll.pend (srcCam c.val)).isSome = true ∧ SameMem s t) ∧
      (∀ tag ws data dt, op = .group tag ws → ∃ (t : State) (tc : Nat), exec (.i2cTransactionDone c none data dt) s = .next t ∧ (t.cam c.val).running = none ∧
        (t.cam c.val).groups.getLast? = some (tag, tc, 0) ∧ SameMem s t) ∧
      (∀ step, ∃ t : State, exec (.i2cTimeout c step) s = .next t ∧ (t.cam c.val).running = none ∧ t.rf (F.CSI_I2C_STAT_TIMEOUT c.val u.val) = 1 ∧
        (smFind t.coll.pend (srcCam c.val)).isSome = true ∧ SameMem s t))

/-- With SIEVE on, outside a replay and on a port that is up: a datagram no descriptor matches leaves SIEVE as it was; a matching one of the wrong length counts as bad and leaves LID_BAD_PKT waiting; a good one puts points behind those that wait. An ego message of the expected form whose time is after all held ones joins the ring, which keeps the latest 256; one that is not leaves the ring as it was and EGO_REJECT waiting. VOXEL_INSERT takes the front point, and with no wrong bits marked or injected it changes no memory outside the voxel table. (Where the spec leaves a detail of this open, the model reads it as log 34 says.) -/
def Obligations.SieveTakesItsInputs : Prop :=
  ∀ (s : State) (port : Fin 6) (udp : BitVec 16) (dt : Nat), s.Sound → s.sieveOn = true → s.replay = none → s.flag (F.ETH_STATUS_LINK port.val) = true →
    (∀ (ip : BitVec 32) (ck : Bool) (pl : List Byte), port.val < 4 →
      (s.lidMatch port.val ip.toNat udp.toNat = none → ∃ t : State, exec (.lidarDatagram port ip udp ck pl dt) s = .next t ∧ t.sieve = s.sieve ∧ SameMem s t) ∧
      (∀ r : List Byte, s.lidMatch port.val ip.toNat udp.toNat = some r →
        (pl.length ≠ leAt r 10 2 ∨ ck = false → ∃ t : State, exec (.lidarDatagram port ip udp ck pl dt) s = .next t ∧ t.sieve.queue = s.sieve.queue ∧
          (smFind t.coll.pend (srcSieve (leAt r 0 1))).isSome = true ∧ SameMem s t) ∧
        (∃ (t : State) (l : List LidPt), exec (.lidarDatagram port ip udp ck pl dt) s = .next t ∧ t.sieve.queue = s.sieve.queue ++ l ∧ l.length ≤ leAt r 14 2 ∧ SameMem s t))) ∧
    (∀ record : List Byte, bitAt (s.recLe recFusion 16 1) port.val = true → udp.toNat = s.recLe recFusion 12 2 → ∀ ns : Nat,
      ns = leAt record 32 6 * 1000000000 + leAt record 38 4 →
      (record.length = 72 → leAt record 0 2 % 4096 = s.recLe recFusion 14 2 % 4096 → leAt record 2 1 = 1 → leAt record 20 4 = 40 →
        leAt record 28 4 = crc32c (record.take 28 ++ record.drop 32) → (∀ m ∈ s.sieve.ego, m.1 < ns) →
        ∃ t : State, exec (.egoMessage port udp record dt) s = .next t ∧ t.sieve.ego.getLast? = some (ns, record.drop 32) ∧ t.sieve.ego.length ≤ 256 ∧
          t.rf F.SVE_EGO_HELD = t.sieve.ego.length ∧ SameMem s t) ∧
      (record.length ≠ 72 ∨ (∃ m ∈ s.sieve.ego, ns ≤ m.1) → ∃ t : State, exec (.egoMessage port udp record dt) s = .next t ∧ t.sieve.ego = s.sieve.ego ∧
        (smFind t.coll.pend srcSieveAll).isSome = true ∧ SameMem s t)) ∧
    (∀ p rest, s.sieve.queue = p :: rest → s.ecc = [] → s.inj.hbm = none → s.inj.sram = none → ∃ t : State, exec .voxelInsert s = .next t ∧
      t.sieve.queue = rest ∧ t.rf F.SVE_STATUS_QUEUE = min 2047 rest.length ∧ t.rf F.SVE_STATUS_CLEARING = 0 ∧
      SameMemBut s t (keyHbm s.voxBase) (32 * 16777216))

/-- On a CSI link that is up, CSI_RECORD_SEND sends the oldest record as one frame numbered by its bell and leaves every other queue as it was; on a port that is up, RESULT_SEGMENT_SEND sends the next segment of the oldest record, which leaves the queue with its last byte. A link that goes down shows 0, empties its queue and sends OUT_PORT, as does a port for its destinations; coming up shows 1. A frame discarded on a port that is up adds 1 to RX_BAD. No memory changes. (Where the spec leaves a detail of this open, the model reads it as log 56 says.) -/
def Obligations.OutputLinksAndPorts : Prop :=
  ∀ s : State, s.Sound →
    (∀ (l : Fin 4) (r : OutRec) (rest : List OutRec), s.queueOf l.val = r :: rest → s.rf (F.CSO_STATUS_UP l.val) = 1 →
      ∃ t : State, exec (.csiRecordSend l) s = .next t ∧ t.queueOf l.val = rest ∧ (∀ q, q ≠ l.val → t.queueOf q = s.queueOf q) ∧ SameMem s t ∧
        t.sent = s.sent ++ [Out.csi l.val r.vc (r.bell % 65535 + 1) ((csiParts r.bytes).map (fun p => (0x30 + leAt (s.outElem r.output) 0 1, p)))]) ∧
    (∀ (d : Fin 32) (r : OutRec) (rest : List OutRec), s.queueOf (4 + d.val) = r :: rest → s.rf (F.ETH_STATUS_LINK (s.destPort d.val)) = 1 →
      ∃ (t : State) (seg : List Byte), exec (.resultSegmentSend d) s = .next t ∧ SameMem s t ∧ seg = (r.bytes.drop r.off).take (leAt (s.destElem d.val) 2 2) ∧
        t.queueOf (4 + d.val) = (if r.bytes.length ≤ r.off + seg.length then rest else { r with off := r.off + seg.length } :: rest) ∧
        t.sent = s.sent ++ [Out.udp (s.destPort d.val) (leAt (s.destElem d.val) 8 6) (leAt (s.destElem d.val) 4 4) (leAt (s.destElem d.val) 14 2) s.resultUdp
          (s.resultDg 1 r.dataId (r.bell % 2 ^ 32) r.off seg)]) ∧
    (∀ l : Fin 4, (s.rf (F.CSO_STATUS_UP l.val) = 1 → ∃ t : State, exec (.csiOutLinkDown l) s = .next t ∧ t.rf (F.CSO_STATUS_UP l.val) = 0 ∧ t.queueOf l.val = [] ∧
        SentMsg s t srcEmit .OUT_PORT (l.val * 2 ^ 32) ∧ SameMem s t) ∧
      (s.rf (F.CSO_STATUS_UP l.val) = 0 → exec (.csiOutLinkDown l) s = .next s) ∧
      (s.gear l.val ≠ 0 → s.gear l.val < 8 → s.pstate ≠ .off → s.parked = false → ∃ t : State, exec (.csiOutLinkUp l) s = .next t ∧ t.rf (F.CSO_STATUS_UP l.val) = 1 ∧
        t.rf (F.CSO_STATUS_GEAR l.val) = s.gear l.val ∧ OnlyRegs s t ∧ t.coll = s.coll)) ∧
    (∀ (n : Fin 6) (pll : Bool), s.rf (F.ETH_STATUS_LINK n.val) = 1 → ∃ t : State, exec (.ethLinkDown n pll) s = .next t ∧ t.rf (F.ETH_STATUS_LINK n.val) = 0 ∧
      (∀ d < s.nDest, s.destPort d = n.val → t.queueOf (4 + d) = []) ∧ SentMsg s t (srcEth n.val) .OUT_PORT (2 ^ 36 + n.val * 2 ^ 32) ∧ SameMem s t) ∧
    (∀ n : Fin 6, (s.pstate ≠ .off → s.parked = false → ∃ t : State, exec (.ethLinkUp n) s = .next t ∧ t.rf (F.ETH_STATUS_LINK n.val) = 1 ∧
        t.rf (F.ETH_STATUS_PLL n.val) = 1 ∧ OnlyRegs s t ∧ t.coll = s.coll) ∧
      (s.rf (F.ETH_STATUS_LINK n.val) = 1 → s.rf (F.ETH_DROP_RX_BAD n.val) < 65535 → ∃ t : State, exec (.ethFrameDiscard n) s = .next t ∧
        t.rf (F.ETH_DROP_RX_BAD n.val) = s.rf (F.ETH_DROP_RX_BAD n.val) + 1 ∧ OnlyRegs s t ∧ t.coll = s.coll ∧ SameRegsBut s t [A.ETH_DROP n.val]))

/-- A core's next STA to a free EMIT for an output of the image starts with the duration of R487, and the output counts as released in this bell. An ARP request for the port's address is answered. A HELLO from no configured destination is refused with code 3; one from a configured destination marks it, and shows for every class it names whether it is refused. While ATTEND runs no command, an entry due leaves its release queue. ARP, a refused HELLO and ATTEND's release change no memory. (Where the spec leaves a detail of this open, the model reads it as log 56, log 57 says.) -/
def Obligations.ReleasesAndConsumers : Prop :=
  (∀ (core : Fin 64) (s : State) (w i : Nat), s.Sound → s.Next core.val w i → s.unitBusy (insArg w 55 40) = false → insOp w = 0x20 → s.pstate ≠ .halt →
    stKind (insArg w 55 40) = 10 → insArg w 39 24 < s.nOut → ∃ (t : State) (j : Job), exec (.emitRelease core) s = .next t ∧ j ∈ t.tt.jobs ∧ j.kind = .emit ∧
      j.core = core.val ∧ j.unit = insArg w 55 40 ∧ j.instr = w ∧ j.due = j.at0 + 2 * s.emitCycles (insArg w 39 24) ∧ insArg w 39 24 ∈ t.emit.released) ∧
  (∀ (s : State) (n : Fin 6) (peer : UdpFrom), s.Sound → s.portIp n.val ≠ 0 → s.rf (F.ETH_STATUS_LINK n.val) = 1 →
    (∀ ip : BitVec 32, ip.toNat = s.portIp n.val → ∃ t : State, exec (.arpRequest n ip peer) s = .next t ∧
      t = { s with sent := s.sent ++ [Out.arp n.val peer.mac.toNat peer.ip.toNat] }) ∧
    (∀ ip : BitVec 32, ip.toNat ≠ s.portIp n.val → exec (.arpRequest n ip peer) s = .next s) ∧
    (∀ data : List Byte, (∀ d < s.nDest, s.destPort d = n.val → leAt (s.destElem d) 4 4 = peer.ip.toNat → leAt (s.destElem d) 14 2 ≠ peer.udp.toNat) →
      ∃ t : State, exec (.resultHello n peer data) s = .next t ∧ t = { s with sent := s.sent ++
        [Out.udp n.val peer.mac.toNat peer.ip.toNat peer.udp.toNat s.resultUdp (s.resultDg 4 0 0 0 (leBytes 1 3 ++ leBytes 3 0))] }) ∧
    (∀ (data : List Byte) (d : Nat), d < s.nDest → d < 32 → s.destPort d = n.val → leAt (s.destElem d) 4 4 = peer.ip.toNat → leAt (s.destElem d) 14 2 = peer.udp.toNat →
      ∃ t : State, exec (.resultHello n peer data) s = .next t ∧ t.rf (F.ETH_DEST_HELLO d) = 1 ∧ SameMem s t ∧
        ∀ (es : List (List Byte)) (k : Nat), es = (List.range (min (leAt data 0 1) ((data.length - 4) / 4))).map (fun i => (data.drop (4 + 4 * i)).take 4) →
          k < 5 → k ∈ es.map (fun e => leAt e 0 1) → (bitAt (t.rf (F.ETH_DEST_REFUSED d)) k = false ↔ ∃ e ∈ es, leAt e 0 1 = k ∧ leAt e 1 1 = 1))) ∧
  (∀ s : State, s.Sound → s.pstate ≠ .off → s.attBusy = false → s.now ≤ s.att.relAt + 2 → ∀ f rest, s.att.relq = f :: rest →
    ∃ t : State, exec .attReleaseFrame s = .next t ∧ t.att.relq = rest ∧ t.now = s.att.relAt + 2 ∧ SameMem s t)

/-- On E4 or E5 with an address and a link: a datagram that is not whole and good changes nothing. Outside MAINT OPEN is answered with status 2, during a session with 1, and for a refused target or length with 3; otherwise the session is held and erasing. Data of the session at the next offset, within the part, is taken and the next offset moves on. COMMIT before both parts are whole is answered with 4, and otherwise its manifest digest is held for the read-back. ABORT ends the session with status 0. The erase ends with status 0, or ends the session with 6 when a store failed; the read-back ends it with 0 or 5 as its checks say; 60 s of silence end it. (Where the spec leaves a detail of this open, the model reads it as log 61 says.) -/
def Obligations.StagingSession : Prop :=
  ∀ (s : State) (n : Fin 6) (peer : UdpFrom) (dg : List Byte) (ack : Nat → Nat → Nat → Out), s.Sound → n.val = 4 ∨ n.val = 5 → s.pstate ≠ .off →
    s.rf (F.ETH_STATUS_LINK n.val) = 1 → s.portIp n.val ≠ 0 →
    (∀ st x off, ack st x off = Out.udp n.val peer.mac.toNat peer.ip.toNat peer.udp.toNat 23063 (stAck st (stSession dg) x off)) →
    (stGood dg = false → ∀ ok, ∀ c ∈ [Instr.stageOpen n peer dg, .stageData n peer dg ok, .stageCommit n peer dg, .stageAbort n peer dg], exec c s = .next s) ∧
    (stGood dg = true →
      (stTyp dg = 1 → s.pstate ≠ .maint ∨ s.stage.isSome = true ∨ s.openAllowed (some n.val) dg = false → ∃ t : State, exec (.stageOpen n peer dg) s = .next t ∧
        t.stage = s.stage ∧ SameMem s t ∧
        t.sent = s.sent ++ [ack (if s.pstate ≠ .maint then 2 else if s.stage.isSome then 1 else 3) (stStore dg) 0]) ∧
      (stTyp dg = 1 → s.pstate = .maint → s.stage = none → s.openAllowed (some n.val) dg = true → ∃ (t : State) (g : Stage), exec (.stageOpen n peer dg) s = .next t ∧
        t.stage = some g ∧ g.session = stSession dg ∧ g.target = stStore dg ∧ g.erasing = true ∧ t.sent = s.sent) ∧
      (∀ g : Stage, s.pstate = .maint → s.stage = some g → g.port = some n.val → g.session = stSession dg → g.peer = peer →
        (stTyp dg = 2 → g.busy = false → stStore dg ≤ 1 → stOff dg = g.next (stStore dg) → 0 < stLen dg → stOff dg + stLen dg ≤ g.len (stStore dg) →
          ∃ (t : State) (h : Stage), exec (.stageData n peer dg true) s = .next t ∧ t.stage = some h ∧ h.next (stStore dg) = stOff dg + stLen dg ∧
            t.sent = s.sent ++ [ack 0 (stStore dg) (stOff dg + stLen dg)]) ∧
        (stTyp dg = 3 → g.busy = false → g.bootNext < g.bootLen ∨ g.modelNext < g.modelLen → ∃ t : State, exec (.stageCommit n peer dg) s = .next t ∧ SameMem s t ∧
          t.sent = s.sent ++ [ack 4 (stStore dg) (g.next (stStore dg))]) ∧
        (stTyp dg = 3 → g.busy = false → g.bootLen ≤ g.bootNext → g.modelLen ≤ g.modelNext → ∃ (t : State) (h : Stage), exec (.stageCommit n peer dg) s = .next t ∧
          t.stage = some h ∧ h.commit = some ((stData dg).take 32) ∧ t.sent = s.sent ∧ SameMem s t) ∧
        (stTyp dg = 4 → ∃ t : State, exec (.stageAbort n peer dg) s = .next t ∧ t.stage = none ∧ SameMem s t ∧ t.sent = s.sent ++ [ack 0 (stStore dg) 0]))) ∧
    (∀ g : Stage, s.stage = some g → g.port = some n.val → g.peer = peer → g.session = stSession dg →
      (g.erasing = true → (∃ (t : State) (h : Stage), exec (.stageEraseDone true) s = .next t ∧ t.stage = some h ∧ h.erasing = false ∧ h.session = g.session ∧
          t.sent = s.sent ++ [ack 0 g.target 0]) ∧
        (∃ t : State, exec (.stageEraseDone false) s = .next t ∧ t.stage = none ∧ SameMem s t ∧ t.sent = s.sent ++ [ack 6 g.target 0])) ∧
      (∀ man, g.commit = some man → ∃ t : State, exec .stageCommitVerified s = .next t ∧ t.stage = none ∧
        t.sent = s.sent ++ [ack (if s.commitGood g.target man then 0 else 5) g.target 0] ∧ (s.commitGood g.target man = false → SameMem s t)) ∧
      (∃ t : State, exec .stageSessionTimeout s = .next t ∧ t.stage = none ∧ SameMem s t))

/-- In MAINT, with no session and the part ready, a good OPEN on E4 or E5 opens the session at bell 0 with nothing held; otherwise it is answered with status 1 and changes nothing else. Data of the session's bell that starts where the held bytes end is added. BELL_END before the stream is whole is answered with the next offset and changes nothing else; with the stream whole its bytes stay and its items are handled once. With every input handled, a replayed bell starts with the recorded bell's number and edge, and the session moves to the next bell. CLOSE ends the session. (Where the spec leaves a detail of this open, the model reads it as log 62 says.) -/
def Obligations.ReplaySession : Prop :=
  ∀ (s : State) (n : Fin 6) (peer : UdpFrom) (dg : List Byte), s.Sound →
    (s.replayReads n.val 1 dg = true →
      (s.pstate = .maint → s.replay = none → s.pw.ready = true → ∃ (t : State) (r : Replay), exec (.replayOpen n peer dg) s = .next t ∧ t.replay = some r ∧
        r.session = rpSession dg ∧ r.port = n.val ∧ r.peer = peer ∧ r.k = 0 ∧ r.data = [] ∧ r.whole = false ∧ r.first = leAt (rpData dg) 0 8) ∧
      (s.pstate ≠ .maint ∨ s.replay.isSome = true ∨ s.pw.ready = false → ∃ t : State, exec (.replayOpen n peer dg) s = .next t ∧
        t = s.replayAck n.val peer 1 (rpSession dg) 0 0)) ∧
    (∀ r : Replay, s.replayOf n.val peer dg = some r → r.k < r.bells → rpBell dg = r.k → r.whole = false →
      (s.replayReads n.val 2 dg = true → rpOff dg = r.data.length → 0 < rpLen dg → ∃ t : State, exec (.replayData n peer dg) s = .next t ∧
        t = { s with replay := some { r with data := r.data ++ rpData dg } }) ∧
      (s.replayReads n.val 3 dg = true → r.data.length < leAt (rpData dg) 0 4 → ∃ t : State, exec (.replayBellEnd n peer dg) s = .next t ∧
        t = s.replayAck n.val peer 0 r.session r.k r.data.length) ∧
      (s.replayReads n.val 3 dg = true → leAt (rpData dg) 0 4 ≤ r.data.length → ∃ (t : State) (q : Replay), exec (.replayBellEnd n peer dg) s = .next t ∧
        t.replay = some q ∧ q.whole = true ∧ q.data = r.data ∧ q.k = r.k)) ∧
    (∀ r : Replay, s.replay = some r → r.whole = true → s.inputsDone = true → r.k < r.bells → s.pstate = .maint →
      ∃ (t : State) (q : Replay), exec .replayBellStart s = .next t ∧ t.bell.running = true ∧ t.bell.n = r.first + r.k ∧ t.bell.edge = s.bellEdgeNs (r.first + r.k) ∧
        t.replay = some q ∧ q.k = r.k + 1 ∧ q.whole = false ∧ q.data = []) ∧
    (∀ r : Replay, s.replayReads n.val 4 dg = true → s.replayOf n.val peer dg = some r → ∃ t : State, exec (.replayClose n peer dg) s = .next t ∧ t.replay = none)

/-- Outside OFF, with no command running, the command set agreed (not asked of STATUS), the opcode enabled and the state one of its states: STATUS returns state, AGG, ALIVE_ON and FREE_RUNNING, the low word of the bell, FLT_SEQ and BOOT_STATUS, and with ACK set AGG falls to the floor of the state; SAFE_ENTER sends SAFE_REQUEST of source 1; RESET with the key stops ALIVE and asks for a warm reset; WAKE starts a wake of source 2; GB_READ of the HBM ring copies as many entries as the ring holds from the first SEQ, at most the count asked for. Each ends with code 0 and its TAG, DONE set and BUSY clear. (Where the spec leaves a detail of this open, the model reads it as log 60, log 64 says.) -/
def Obligations.I3cHardwareCommands : Prop :=
  ∀ (s : State) (tag : Byte) (done : State → Nat → Prop), s.Sound → s.pstate ≠ .off → s.rf F.I3C_RESP_BUSY = 0 →
    (∀ t code, done t code ↔ t.rf F.I3C_RESP_CODE = code ∧ t.rf F.I3C_RESP_TAG = tag.toNat ∧ t.rf F.I3C_RESP_DONE = 1 ∧ t.rf F.I3C_RESP_BUSY = 0 ∧
      t.i3c.running = none) →
    (∀ a : BitVec 32, ∃ t : State, exec (.status tag a) s = .next t ∧ done t 0 ∧ SameMem s t ∧
      t.rf (F.I3C_RET_RET 0) = s.rf F.PWR_STATE_STATE % 8 + s.agg * 8 + s.rf F.FLT_STATUS_ALIVE_ON * 64 + s.rf F.TSU_STATUS_FREE_RUNNING * 128 ∧
      t.rf (F.I3C_RET_RET 1) = s.curBell % 2 ^ 32 ∧ t.rf (F.I3C_RET_RET 2) = s.rf F.FLT_SEQ_SEQ ∧ t.rf (F.I3C_RET_RET 3) = (s.reg A.BOOT_STATUS).toNat ∧
      t.agg = (if bitAt a.toNat 0 then s.aggFloor else s.agg)) ∧
    (s.rf F.I3C_CMDSET_VER_MAJOR ≠ 0 →
      (s.i3cEnabled 1 = true → s.pstate = .boot ∨ s.pstate = .run ∨ s.pstate = .safe → ∃ t : State, exec (.safeEnter tag) s = .next t ∧ done t 0 ∧ SameMem s t ∧
        SentMsg s t srcSafety .SAFE_REQUEST 1) ∧
      (∃ t : State, exec (.reset tag 0x9C3E) s = .next t ∧ done t 0 ∧ SameMem s t ∧ t.pw.warm = some 1 ∧ t.alive.driveA = false ∧ t.alive.driveB = false ∧
        t.alive.toggling = false ∧ t.rf F.FLT_STATUS_ALIVE_ON = 0) ∧
      (s.i3cEnabled 6 = true → s.parked = true → s.pw.under = none → ∃ t : State, exec (.wake tag) s = .next t ∧ done t 0 ∧ t.pw.wake = some t.now ∧
        t.rf F.PWR_WAKE_SOURCE = 2 ∧ t.rf F.MEM_STATUS_SELF_REFRESH = 0 ∧ t.rf F.OCM_STATUS_CLEARING = 1 ∧ t.harts = List.replicate 3 Hart.reset) ∧
      (∀ first cnt : BitVec 32, s.i3cEnabled 8 = true → s.pstate ≠ .park → bitAt cnt.toNat 16 = false → 1 ≤ bits cnt.toNat 8 0 → bits cnt.toNat 8 0 ≤ 256 →
        ∀ lo m, lo = max first.toNat (s.ringNext - 196608) → m = min (bits cnt.toNat 8 0) (s.ringNext - lo) →
        ∃ t : State, exec (.gbRead tag first cnt) s = .next t ∧ done t 0 ∧ t.rf (F.I3C_RET_RET 0) = m ∧
          (0 < m → t.rf (F.I3C_RET_RET 1) = lo % 2 ^ 32) ∧
          (m = 1 → t.rdN (s.i3cBuf 0) 256 = s.rdN (keyHbm (s.gradebookBase + 256 * (lo % 196608))) 256)))

/-- With CP0 running, no command running, the command set agreed, the opcode enabled and the state one of its states, each command has its effect and runs until COMMAND_DONE: SAFE_EXIT sends its message and, with no reason against it, begins the recovery bells; MAINT_ENTER and PARK leave their request pending; SELF_TEST answers code 0, or 4 with the reason of a refused request; ATTEST starts a signing, or is refused with 6 while one runs; STAGE of a datagram that is not whole and good ends with code 3 and changes no session, and a good OPEN opens one; DECLARE gives the link its agreed version, or code 4 when refused. COMMAND_DONE puts code, TAG and returns in the registers, sets DONE and clears BUSY; a stopped CP0 ends nothing. (Where the spec leaves a detail of this open, the model reads it as log 60, log 61, log 64 says.) -/
def Obligations.I3cFirmwareCommands : Prop :=
  ∀ (s : State) (tag : Byte) (runs : State → Nat → Nat → List Nat → Prop) (free : Nat → Prop), s.Sound →
    (∀ t op code rets, runs t op code rets ↔ t.i3c.running = some (op, tag.toNat, code, rets)) →
    (∀ op, free op ↔ s.pstate ≠ .off ∧ s.rf F.I3C_RESP_BUSY = 0 ∧ s.rf F.I3C_CMDSET_VER_MAJOR ≠ 0 ∧ s.i3cEnabled op = true ∧ s.pairStopped 0 = false) →
    (free 3 → s.pstate = .safe → ∀ why, why = s.exitReason → ∃ t : State, exec (.safeExit tag) s = .next t ∧ runs t 3 (if why = 0 then 0 else 4) (if why = 0 then [] else [why]) ∧
      t.rf F.I3C_RESP_BUSY = 1 ∧ SameMem s t ∧ SentMsg s t srcSafety .SAFE_EXIT (why * 2 ^ 36 + s.curBell % 2 ^ 32) ∧
      (why = 0 → t.safety.recovering = true ∧ t.safety.recWait = true) ∧ (why ≠ 0 → t.safety = s.safety)) ∧
    (free 4 → s.pstate = .boot ∨ s.pstate = .run ∨ s.pstate = .safe → ∃ t : State, exec (.maintEnter tag) s = .next t ∧ runs t 4 0 [] ∧ t.rf F.I3C_RESP_BUSY = 1 ∧
      t.rf F.PWR_STATE_MAINT_PENDING = 1 ∧ t.rf F.PWR_STATE_PARK_PENDING = 0 ∧ SameMem s t ∧ t.coll = s.coll) ∧
    (free 5 → s.pstate = .run → s.rf F.PWR_STATE_MAINT_PENDING = 0 → ∃ t : State, exec (.park tag 0x9C3E) s = .next t ∧ runs t 5 0 [] ∧ t.rf F.I3C_RESP_BUSY = 1 ∧
      t.rf F.PWR_STATE_PARK_PENDING = 1 ∧ t.rf F.PWR_STATE_MAINT_PENDING = 0 ∧ SameMem s t ∧ t.coll = s.coll) ∧
    (∀ a : BitVec 32, free 7 → s.pstate = .run ∨ s.pstate = .safe ∨ s.pstate = .maint → ∃ t : State, exec (.selfTest tag a) s = .next t ∧
      (match s.requestWhy { kind := bits a.toNat 2 0, target := bits a.toNat 9 3, detect := bitAt a.toNat 10 } with
       | none => runs t 7 0 []
       | some w => runs t 7 4 [w])) ∧
    (free 9 → s.pstate = .run ∨ s.pstate = .safe ∨ s.pstate = .maint →
      (s.sec.signing.isSome = true → ∃ t : State, exec (.attest tag) s = .next t ∧ runs t 9 4 [6] ∧ t.sec = s.sec ∧ SameMem s t) ∧
      (s.sec.signing = none → s.rf F.SEC_STATUS_KEYS = 1 → s.rf F.OCM_STATUS_LOCKET_BAD = 0 → s.rdLe (s.i3cBuf 32) 1 = 0 →
        ∃ (t : State) (doc : List Byte), exec (.attest tag) s = .next t ∧ runs t 9 0 [] ∧ t.sec.signing = some (1, s.now, doc) ∧
          t.rf F.SHK_STATUS_SIGNING = 1 ∧ SameMem s t)) ∧
    (free 10 → s.pstate = .maint → ∀ dg, dg = s.rdN (s.i3cBuf 0) (24 + min (s.rdLe (s.i3cBuf 16) 2) 1400) →
      (stGood dg = false → ∃ t : State, exec (.stage tag) s = .next t ∧ runs t 10 3 [] ∧ t.stage = s.stage ∧ SameMem s t) ∧
      (stGood dg = true → stTyp dg = 1 → s.stage = none → s.openAllowed none dg = true → ∃ (t : State) (g : Stage), exec (.stage tag) s = .next t ∧
        (∃ code rets, runs t 10 code rets) ∧ t.stage = some g ∧ g.session = stSession dg ∧ g.port = none ∧ g.erasing = true)) ∧
    (∀ a : BitVec 32, free 11 → s.pstate ≠ .park → ∃ t : State, exec (.declare tag a) s = .next t ∧ SameMem s t ∧ t.rf F.I3C_RESP_BUSY = 1 ∧
      (bits a.toNat 15 8 = 1 → runs t 11 0 [] ∧ t.rf (F.CSO_STATUS_MAJOR (bits a.toNat 1 0)) = 1 ∧ t.coll = s.coll) ∧
      (bits a.toNat 15 8 ≠ 1 → runs t 11 4 [1] ∧ t.rf (F.CSO_STATUS_MAJOR (bits a.toNat 1 0)) = 0 ∧
        SentMsg s t srcEmit .OUT_PORT (3 * 2 ^ 36 + bits a.toNat 1 0 * 2 ^ 32))) ∧
    (∀ dt op code rets, s.i3c.running = some (op, tag.toNat, code, rets) → code < 256 → rets.length ≤ 4 →
      (s.pairStopped 0 = true → exec (.commandDone dt) s = .next s) ∧
      (s.pairStopped 0 = false → s.i3cCanEnd op = true → ∃ t : State, exec (.commandDone dt) s = .next t ∧ t.i3c.running = none ∧ SameMem s t ∧
        t.rf F.I3C_RESP_CODE = code ∧ t.rf F.I3C_RESP_TAG = tag.toNat ∧ t.rf F.I3C_RESP_DONE = 1 ∧ t.rf F.I3C_RESP_BUSY = 0 ∧
        ∀ i v, rets[i]? = some v → t.rf (F.I3C_RET_RET i) = v % 2 ^ 32))

/-- For each of the twelve commands: in OFF nothing happens. While a command runs, only the argument registers take the arguments. Otherwise a command that is refused changes nothing but the I3C registers and ends with code 6 when the command set is refused (except STATUS), else with 7 when its CMD_EN bit is clear, else with 2 when the state does not allow it, else with 3 for a RESET or PARK without its key and a GB_READ of no entries or more than 256. The order in which the codes are tested is the model's (log 60). (Where the spec leaves a detail of this open, the model reads it as log 60 says.) -/
def Obligations.I3cRefusals : Prop :=
  ∀ (s : State) (tag : Byte) (a b : BitVec 32) (c : Instr) (op : Nat), s.Sound →
    (c, op) ∈ [(Instr.status tag a, 0), (Instr.safeEnter tag, 1), (Instr.reset tag a, 2), (Instr.safeExit tag, 3), (Instr.maintEnter tag, 4), (Instr.park tag a, 5),
      (Instr.wake tag, 6), (Instr.selfTest tag a, 7), (Instr.gbRead tag a b, 8), (Instr.attest tag, 9), (Instr.stage tag, 10), (Instr.declare tag a, 11)] →
    (s.pstate = .off → exec c s = .next s) ∧
    (s.pstate ≠ .off → s.rf F.I3C_RESP_BUSY = 1 → ∃ t : State, exec c s = .next t ∧ SameRegsBut s t [A.I3C_ARG 0, A.I3C_ARG 1] ∧ t = { s with regs := t.regs }) ∧
    (∀ code, s.pstate ≠ .off → s.rf F.I3C_RESP_BUSY = 0 →
      code = (if s.rf F.I3C_CMDSET_VER_MAJOR = 0 ∧ op ≠ 0 then 6
        else if s.i3cEnabled op = false then 7
        else if i3cAllowed op (op == 8 && bitAt b.toNat 16) s.pstate = false then 2
        else if (op = 2 ∨ op = 5) ∧ a ≠ 0x9C3E ∨ op = 8 ∧ (bits b.toNat 8 0 = 0 ∨ 256 < bits b.toNat 8 0) then 3
        else 0) → code ≠ 0 →
      ∃ t : State, exec c s = .next t ∧ t.rf F.I3C_RESP_CODE = code ∧ t.rf F.I3C_RESP_TAG = tag.toNat ∧ t.rf F.I3C_RESP_DONE = 1 ∧ t.rf F.I3C_RESP_BUSY = 0 ∧
        SameRegsBut s t [A.I3C_RESP, A.I3C_ARG 0, A.I3C_ARG 1] ∧ t = { s with regs := t.regs, i3c := t.i3c })

/-- In every state but OFF: ENTDAA answers with the provisional ID, BCR 0x26 and DCR 0x00 and takes the address given, if none is held; SETDASA takes one for static address 0x5C; both enable interrupts; RSTDAA gives the address up. ENEC and DISEC set and clear IBI_EN. SETMWL and SETMRL set the lengths, at most 1,026 and 1,024. GETMWL, GETMRL, GETPID, GETBCR and GETDCR answer with their values, GETSTATUS and GETMXDS with two bytes the text does not state. ENTHDR0 enters HDR; every other code leaves it. In OFF nothing happens. (Where the spec leaves a detail of this open, the model reads it as log 4, log 65 says.) -/
def Obligations.I3cCommonCommandCodes : Prop :=
  ∀ (s : State) (da st : BitVec 7) (ev : Byte) (len : BitVec 16), s.Sound →
    (s.pstate = .off → ∀ c ∈ [Instr.entdaa da, .setdasa st da, .rstdaa, .enec ev, .disec ev, .setmwl len, .setmrl len, .enthdr0], exec c s = .next s) ∧
    (s.pstate ≠ .off →
      (s.rf F.I3C_STATUS_DA_VALID = 0 → ∃ (t : State) (more : List Out), exec (.entdaa da) s = .next t ∧
        t.sent = s.sent ++ Out.i3c (s.pid ++ [0x26, 0x00]) :: more ∧
        t.rf F.I3C_STATUS_DA = da.toNat ∧ t.rf F.I3C_STATUS_DA_VALID = 1 ∧ t.rf F.I3C_STATUS_IBI_EN = 1 ∧ t.rf F.I3C_STATUS_HDR = 0) ∧
      (s.rf F.I3C_STATUS_DA_VALID = 0 → st = 0x5C → ∃ t : State, exec (.setdasa st da) s = .next t ∧
        t.rf F.I3C_STATUS_DA = da.toNat ∧ t.rf F.I3C_STATUS_DA_VALID = 1 ∧ t.rf F.I3C_STATUS_IBI_EN = 1 ∧ t.rf F.I3C_STATUS_HDR = 0) ∧
      (s.rf F.I3C_STATUS_DA_VALID = 1 ∨ st ≠ 0x5C → ∃ t : State, exec (.setdasa st da) s = .next t ∧ t = { s with regs := t.regs } ∧
        t.rf F.I3C_STATUS_DA = s.rf F.I3C_STATUS_DA ∧ t.rf F.I3C_STATUS_DA_VALID = s.rf F.I3C_STATUS_DA_VALID) ∧
      (∃ t : State, exec .rstdaa s = .next t ∧ t = { s with regs := t.regs } ∧ SameRegsBut s t [A.I3C_STATUS] ∧
        t.rf F.I3C_STATUS_DA = 0 ∧ t.rf F.I3C_STATUS_DA_VALID = 0) ∧
      (∃ t : State, exec (.enec ev) s = .next t ∧ SameMem s t ∧ t.rf F.I3C_STATUS_IBI_EN = (if bitAt ev.toNat 0 then 1 else s.rf F.I3C_STATUS_IBI_EN)) ∧
      (∃ t : State, exec (.disec ev) s = .next t ∧ t = { s with regs := t.regs } ∧
        t.rf F.I3C_STATUS_IBI_EN = (if bitAt ev.toNat 0 then 0 else s.rf F.I3C_STATUS_IBI_EN)) ∧
      (∃ t : State, exec (.setmwl len) s = .next t ∧ t = { s with regs := t.regs, i3c := { s.i3c with mwl := min len.toNat 1026 } }) ∧
      (∃ t : State, exec (.setmrl len) s = .next t ∧ t = { s with regs := t.regs, i3c := { s.i3c with mrl := min len.toNat 1024 } }) ∧
      (∃ t : State, exec .enthdr0 s = .next t ∧ t = { s with regs := t.regs } ∧ SameRegsBut s t [A.I3C_STATUS] ∧ t.rf F.I3C_STATUS_HDR = 1) ∧
      (s.rf F.I3C_STATUS_DA_VALID = 1 →
        (∀ c bs, (c, bs) ∈ [(Instr.getmwl, [BitVec.ofNat 8 (s.i3c.mwl / 256), BitVec.ofNat 8 s.i3c.mwl]), (.getmrl, [BitVec.ofNat 8 (s.i3c.mrl / 256), BitVec.ofNat 8 s.i3c.mrl]),
            (.getpid, s.pid), (.getbcr, [0x26]), (.getdcr, [0x00])] →
          ∃ t : State, exec c s = .next t ∧ t.sent = s.sent ++ [.i3c bs] ∧ t = { s with regs := t.regs, sent := t.sent }) ∧
        (∀ c ∈ [Instr.getstatus, .getmxds], ∃ (t : State) (x y : Byte), exec c s = .next t ∧ t.sent = s.sent ++ [.i3c [x, y]] ∧
          t = { s with regs := t.regs, sent := t.sent, freeCount := s.freeCount + 2 })))

/-- With a dynamic address held, a private write of one word to the buffer page stores it at its place of the command buffer and the address advances by 4; a word outside the I3C block and the buffer page is denied as writer 3; a trailing partial word is dropped and counted. A declaration by the I3C controller gives I3C_CMDSET_VER the declared and the agreed version, and sends OUT_PORT cause 3 when it is refused. A NACKed interrupt is counted and sent again. A bus error is counted and sends OUT_PORT cause 2. (Where the spec leaves a detail of this open, the model reads it as log 57, log 63, log 65 says.) -/
def Obligations.I3cPrivateWritesAndInterrupts : Prop :=
  ∀ s : State, s.Sound → s.pstate ≠ .off →
    (s.rf F.I3C_STATUS_DA_VALID = 1 → 6 ≤ s.i3c.mwl → ∀ lo hi b0 b1 b2 b3 : Byte, ∀ w, w = lo.toNat + 256 * hi.toNat →
      (0x2000 ≤ w → w < 0x3000 → ∃ t : State, exec (.i3cPrivateWrite [lo, hi, b0, b1, b2, b3]) s = .next t ∧
        t.rdN (s.i3cBuf (s.rf F.I3C_PAGE_PAGE * 0x1000 + (w - 0x2000))) 4 = [b0, b1, b2, b3] ∧ t.i3c.addr = w + 4 ∧ t.regs = s.regs) ∧
      (0x100 ≤ w → w < 0x2000 ∨ 0x3000 ≤ w → w < 0xFFFC → ∃ (t u : State), exec (.i3cPrivateWrite [lo, hi, b0, b1, b2, b3]) s = .next t ∧
        t = { u with i3c := { u.i3c with addr := w + 4 } } ∧ Denied s u .i3c (windowAddr w)) ∧
      (∃ t : State, exec (.i3cPrivateWrite [lo, hi, b0]) s = .next t ∧ t.rf F.I3C_ERR_PARTIAL = min 255 (s.rf F.I3C_ERR_PARTIAL + 1) ∧
        t.i3c.addr = w ∧ SameMem s t ∧ t.coll = s.coll)) ∧
    (∀ major minor : Byte, s.regAnswers A.I3C_CMDSET_VER = true → ∃ t : State, exec (.cmdsetDeclare .i3c false major minor) s = .next t ∧ SameMem s t ∧
      t.rf F.I3C_CMDSET_VER_DECL_MAJOR = major.toNat ∧ t.rf F.I3C_CMDSET_VER_DECL_MINOR = minor.toNat ∧
      t.rf F.I3C_CMDSET_VER_MAJOR = (if major = 1 then 1 else 0) ∧ t.rf F.I3C_CMDSET_VER_MINOR = 0 ∧
      (major = 1 → t.coll = s.coll) ∧ (major ≠ 1 → SentMsg s t srcI3c .OUT_PORT (3 * 2 ^ 36))) ∧
    (∀ bs, s.coll.ibi = some bs → s.coll.ibiSent = true → s.rf F.I3C_STATUS_DA_VALID = 1 → s.rf F.I3C_STATUS_IBI_EN = 1 → ∃ t : State, exec .ibiRetry s = .next t ∧
      t.sent = s.sent ++ [.ibi bs] ∧ t.rf F.I3C_ERR_IBI_NACK = min 255 (s.rf F.I3C_ERR_IBI_NACK + 1) ∧ SameMem s t) ∧
    (∃ t : State, exec .i3cBusError s = .next t ∧ SentMsg s t srcI3c .OUT_PORT (2 * 2 ^ 36) ∧ t.rf F.I3C_ERR_PARITY = min 255 (s.rf F.I3C_ERR_PARITY + 1) ∧ OnlyRegs s t)

/-- Powered, with no undervoltage under way, a limit of the input sends POWER_LIMIT with the voltage, switches every power-over-coax port off, sets UV and starts the hold-up time, at whose end Abnos is in OFF with its stores as they were. A warning of the input sends POWER_WARN once and its flag falls when it ends. A rail fault sends POWER_LIMIT cause 4. A die or coolant reading is shown; at its warning level its flag rises with POWER_WARN, at its limit POWER_LIMIT is sent when the reading before was below it, and 5 °C inside the warning level the flag falls (the model's choice for the flags, log 49). A trip of a port switches it off with CAM_POC; a second within 10 s keeps it off; it is restored once. A clock out of phase sends PHASE_ALIGN. (Where the spec leaves a detail of this open, the model reads it as log 49, log 54 says.) -/
def Obligations.SupplyThermalAndPower : Prop :=
  ∀ s : State, s.Sound → s.pstate ≠ .off →
    (∀ (v : BitVec 16) (c : Instr) (cause : Nat), (c, cause) ∈ [(Instr.undervoltage v, 0), (.overvoltage v, 1)] →
      (s.pw.under = none → ∃ t : State, exec c s = .next t ∧ t.pw.under = some s.now ∧ t.rf F.PWR_FLAGS_UV = 1 ∧ SameMem s t ∧
        SentMsg s t srcPower .POWER_LIMIT (cause * 2 ^ 36 + v.toNat) ∧
        ∀ i : Fin 16, t.rf ⟨A.PWR_POC, i.val, i.val⟩ = 0 ∧ t.rf (F.CSI_LINK_POC_ON i.val) = 0) ∧
      (s.pw.under ≠ none → exec c s = .next s)) ∧
    (s.pw.under = none → exec .holdUpEnd s = .next s) ∧
    (∀ t0, s.pw.under = some t0 → ∃ t : State, exec .holdUpEnd s = .next t ∧ t.pstate = .off ∧ t.sent = s.sent ∧ t.sec.keys = s.sec.keys ∧
      ∀ k, 0x90000000000 ≤ k → k < 0xB0000000000 → t.rd k = s.rd k) ∧
    (∀ v : BitVec 16,
      (s.rf F.PWR_FLAGS_VIN_WARN = 0 → ∃ t : State, exec (.inputWarning v) s = .next t ∧ t.rf F.PWR_FLAGS_VIN_WARN = 1 ∧ OnlyRegs s t ∧
        SentMsg s t srcPower .POWER_WARN v.toNat) ∧
      (s.rf F.PWR_FLAGS_VIN_WARN = 1 → exec (.inputWarning v) s = .next s) ∧
      (∃ t : State, exec (.inputWarningClear v) s = .next t ∧ t.rf F.PWR_FLAGS_VIN_WARN = 0 ∧ t.rf F.PWR_SUPPLY_VIN = v.toNat ∧
        SameRegsBut s t [A.PWR_FLAGS, A.PWR_SUPPLY] ∧ t = { s with regs := t.regs }) ∧
      (∃ t : State, exec (.railFault v) s = .next t ∧ OnlyRegs s t ∧ SentMsg s t srcPower .POWER_LIMIT (4 * 2 ^ 36 + v.toNat))) ∧
    (∀ (die : BitVec 8) (vin iin pin poc : BitVec 16) (mw : List (BitVec 16)), ∃ t : State, exec (.dieTempSample die vin iin pin poc mw) s = .next t ∧ OnlyRegs s t ∧
      t.rf F.PWR_TEMP_DIE = die.toNat ∧ t.rf F.PWR_SUPPLY_VIN = vin.toNat ∧ t.rf F.PWR_SUPPLY_IIN = iin.toNat ∧ t.rf F.PWR_POWER_PIN = pin.toNat ∧
      t.rf F.PWR_POWER_POC = poc.toNat ∧ (∀ (i : Fin 16) (w : BitVec 16), mw[i.val]? = some w → t.rf (F.PWR_POC_MW_MW i.val) = w.toNat) ∧
      toSigned 8 (t.rf F.PWR_TEMP_DIE_MAX) = max (toSigned 8 (s.rf F.PWR_TEMP_DIE_MAX)) die.toInt ∧
      (105 ≤ die.toInt → t.rf F.PWR_FLAGS_DIE_WARN = 1) ∧
      (105 ≤ die.toInt → die.toInt < 115 → s.rf F.PWR_FLAGS_DIE_WARN = 0 → SentMsg s t srcPower .POWER_WARN (2 * 2 ^ 36 + die.toNat)) ∧
      (115 ≤ die.toInt → toSigned 8 (s.rf F.PWR_TEMP_DIE) < 115 → s.rf F.PWR_FLAGS_DIE_WARN = 1 → SentMsg s t srcPower .POWER_LIMIT (2 * 2 ^ 36 + die.toNat)) ∧
      (die.toInt ≤ 100 → t.rf F.PWR_FLAGS_DIE_WARN = 0 ∧ t.coll = s.coll)) ∧
    (∀ (inlet : BitVec 8) (hi lo lim : Int), coolLimits (s.rf F.SEC_STATUS_GRADE) = (hi, lo, lim) → ∃ t : State, exec (.coolantTempSample inlet) s = .next t ∧
      OnlyRegs s t ∧ t.rf F.PWR_TEMP_COOLANT = inlet.toNat ∧
      (hi < inlet.toInt ∨ inlet.toInt < lo → t.rf F.PWR_FLAGS_COOL_WARN = 1) ∧
      (hi < inlet.toInt ∨ inlet.toInt < lo → inlet.toInt ≤ lim → s.rf F.PWR_FLAGS_COOL_WARN = 0 → SentMsg s t srcPower .POWER_WARN (3 * 2 ^ 36 + inlet.toNat)) ∧
      (lim < inlet.toInt → toSigned 8 (s.rf F.PWR_TEMP_COOLANT) ≤ lim → s.rf F.PWR_FLAGS_COOL_WARN = 1 → SentMsg s t srcPower .POWER_LIMIT (3 * 2 ^ 36 + inlet.toNat)) ∧
      (inlet.toInt ≤ hi - 5 → lo + 5 ≤ inlet.toInt → t.rf F.PWR_FLAGS_COOL_WARN = 0 ∧ t.coll = s.coll)) ∧
    (∀ (c : Fin 16) (m : Cam), s.cams[c.val]? = some m →
      (s.rf (F.CSI_LINK_POC_ON c.val) = 0 → exec (.pocTrip c) s = .next s) ∧
      (s.rf (F.CSI_LINK_POC_ON c.val) = 1 → ∃ (t : State) (q : Cam), exec (.pocTrip c) s = .next t ∧ t.cams[c.val]? = some q ∧
        t.rf (F.CSI_LINK_POC_ON c.val) = 0 ∧ t.rf ⟨A.PWR_POC, c.val, c.val⟩ = 0 ∧ t.rf (F.CSI_LINK_POC_TRIP c.val) = 1 ∧
        SentMsg s t (srcCam c.val) .CAM_POC (c.val * 2 ^ 36) ∧
        (m.pocTrip = none → q = { m with pocTrip := some s.now }) ∧
        (∀ t0, m.pocTrip = some t0 → s.now ≤ t0 + 4000000000 → q = { m with pocDead := true } ∧ t.rf ⟨A.PWR_POC, 16 + c.val, 16 + c.val⟩ = 1)) ∧
      (∀ t0, m.pocTrip = some t0 → s.pw.under = none → m.pocDead = false → s.parked = false → s.rf (F.CSI_LINK_POC_ON c.val) = 0 →
        ∃ t : State, exec (.pocRestore c) s = .next t ∧ t.rf (F.CSI_LINK_POC_ON c.val) = 1 ∧ t.rf ⟨A.PWR_POC, c.val, c.val⟩ = 1 ∧ SameMem s t)) ∧
    (∀ clk : Fin 6, s.parked = false → ∃ t : State, exec (.phaseMismatch clk) s = .next t ∧ t.rf F.CLK_STATUS_PHASE_ERR = 1 ∧ OnlyRegs s t ∧
      SentMsg s t srcShk .PHASE_ALIGN (clk.val * 2 ^ 36))

/-- PWR_CTRL acts with its key from CP0 in machine mode only: RESET stops ALIVE and asks for a warm reset, PARK leaves its request pending in RUN; any other write is denied. A wake request in PARK starts a wake; at its end the clearing is over and its length shown. From OFF a power-on start, and a warm reset that was asked for, run the start with their cause: a part with a blank life cycle waits after step 2; a clock out of phase in step 2 ends it in HALT with cause 5. Loss of the clocks ends in OFF with its cause kept. The load watchdog refuses the slot with cause 8; with no further slot MAINT has NO_IMAGE. (Where the spec leaves a detail of this open, the model reads it as log 53, log 54, log 55, log 75 says.) -/
def Obligations.ResetStartWakeAndPark : Prop :=
  ∀ s : State, s.Sound →
    (∀ (req : Requester) (mm : Bool) (v : BitVec 32) (c : Instr), s.regAnswers A.PWR_CTRL = true → c = .pwrCtrlReset req mm v ∨ c = .pwrCtrlPark req mm v →
      cp0m req mm = false ∨ bits v.toNat 31 16 ≠ 0x9C3E → ∃ t : State, exec c s = .next t ∧ Denied s t req A.PWR_CTRL) ∧
    (∀ v : BitVec 32, s.regAnswers A.PWR_CTRL = true → bits v.toNat 31 16 = 0x9C3E →
      (bitAt v.toNat 0 = true → ∃ t : State, exec (.pwrCtrlReset .cp0 true v) s = .next t ∧ t.pw = { s.pw with warm := some 2 } ∧
        t.alive.toggling = false ∧ t.alive.driveA = false ∧ t.alive.driveB = false ∧ t.rf F.FLT_STATUS_ALIVE_ON = 0 ∧ SameRegsBut s t [A.FLT_STATUS] ∧ SameMem s t) ∧
      (bitAt v.toNat 1 = true → s.pstate = .run → s.rf F.PWR_STATE_MAINT_PENDING = 0 → ∃ t : State, exec (.pwrCtrlPark .cp0 true v) s = .next t ∧
        t.rf F.PWR_STATE_PARK_PENDING = 1 ∧ t.pw = { s.pw with reqAt := s.now } ∧ SameRegsBut s t [A.PWR_STATE] ∧ SameMem s t)) ∧
    (s.pstate ≠ .off → s.parked = false ∨ s.pw.under ≠ none → ∃ t : State, exec .wakeRequest s = .next t ∧ t.rf F.PWR_WAKE_PIN = 1 ∧ t = { s with regs := t.regs } ∧
      SameRegsBut s t [A.PWR_WAKE]) ∧
    (s.parked = true → s.pw.under = none → ∃ t : State, exec .wakeRequest s = .next t ∧ t.rf F.PWR_WAKE_PIN = 1 ∧ t.rf F.PWR_WAKE_SOURCE = 1 ∧
      t.pw.wake = some t.now ∧ t.rf F.MEM_STATUS_SELF_REFRESH = 0 ∧ t.rf F.OCM_STATUS_CLEARING = 1 ∧ t.harts = List.replicate 3 Hart.reset) ∧
    (∀ us reading missed, (s.pw.wake = none → exec (.wakeReady us reading missed) s = .next s) ∧
      (∀ w, s.pw.wake = some w → s.pw.ready = false → s.rf F.OCM_STATUS_CLEARING = 1 → ∃ t : State, exec (.wakeReady us reading missed) s = .next t ∧
        t.rf F.OCM_STATUS_CLEARING = 0 ∧ t.rf F.MEM_STATUS_WIPING = 0 ∧ t.rf F.PWR_WAKE_US_US = min us 20000)) ∧
    (∀ (env : StartEnv) (c : Instr) (f : Fld),
      (c = .powerOnStart env ∧ s.pstate = .off ∧ f = F.PWR_CAUSE_POWER_ON) ∨
      (c = .warmReset env ∧ s.pstate = .off ∧ s.pw.clkLoss ≠ none ∧ f = F.PWR_CAUSE_CLK_LOSS) ∨
      (∃ w, c = .warmReset env ∧ s.pstate ≠ .off ∧ s.pw.warm = some w ∧ f = (if w = 1 then F.PWR_CAUSE_WARM_CMD else F.PWR_CAUSE_WARM_CP0)) →
      (env.phase = none → s.rf F.SEC_STATUS_LC = 0 → s.sec.nextLc = none → ∃ t : State, exec c s = .next t ∧ t.pstate = .boot ∧ t.rf f = 1 ∧
        t.rf F.BOOT_STATUS_STEP = 2 ∧ t.rf F.CLK_STATUS_ALIGNED = 1 ∧ t.sent = s.sent ∧ t.pending = s.pending) ∧
      (∀ k, env.phase = some k → ∃ t : State, exec c s = .next t ∧ t.pstate = .halt ∧ t.rf F.BOOT_STATUS_CAUSE = 5 ∧ t.rf F.CLK_STATUS_PHASE_ERR = 1)) ∧
    (∀ env : StartEnv, s.pstate ≠ .off → s.pw.warm = none → exec (.warmReset env) s = .next s) ∧
    (∀ cause : Fin 3, s.pstate ≠ .off → ∃ t : State, exec (.clockLoss cause) s = .next t ∧ t.pstate = .off ∧ t.pw = { Pw.reset with clkLoss := some cause.val } ∧
      t.sent = s.sent ∧ ∀ k, 0x90000000000 ≤ k → k < 0xB0000000000 → t.rd k = s.rd k) ∧
    (∀ us, (s.pw.loading = none → exec (.imageLoadWatchdog us) s = .next s) ∧
      (∀ t0 d u, s.pw.loading = some (t0, d) → u = (s.advanceTo (t0 + 4000000000)).imgReject d 8 0 0 → u.pstate = .boot →
        ((u.slotList.dropWhile (· != d)).drop 1 = [] → ∃ t : State, exec (.imageLoadWatchdog us) s = .next t ∧ t.pstate = .maint ∧
          t.rf F.BOOT_STATUS_CAUSE = 1 ∧ t.rf F.BOOT_WDOG_MS = 0 ∧ t.pw.loading = none ∧ SameMem u t) ∧
        (∀ e more, (u.slotList.dropWhile (· != d)).drop 1 = e :: more → 10000000 ≤ us → ∃ t : State, exec (.imageLoadWatchdog us) s = .next t ∧
          t.pstate = .boot ∧ t.pw.loading = some (u.now, e) ∧ t.rf F.BOOT_WDOG_MS = 10000 ∧ SameMem u t)))

/-- A SEC_CMD command from another writer than CP0 in machine mode is denied, and while one runs another ends with code 6. ATTEST starts a signing, or ends with 6; its end writes the report to the buffer and ends the command. UNLOCK and LC_TRANSITION outside MAINT end with 1; with a token that passes, UNLOCK opens JTAG in its scope, and LC_TRANSITION ends the unlock, wipes the locket and writes the state the next start takes. OWNER_KEY in DEVELOP programs an empty owner slot. ADVANCE_ARB in MAINT burns one step after another up to the running SVN. A tamper trip counts, wipes the locket and sends TAMPER. Only CP0 in machine mode reads the locket. The factory transition moves a blank device to the first life-cycle state at the next start. (Where the spec leaves a detail of this open, the model reads it as log 44 says.) -/
def Obligations.SecurityCommands : Prop :=
  ∀ s : State, s.Sound → s.regAnswers A.SEC_CMD = true →
    (∀ (req : Requester) (mm : Bool) (c : Instr), c ∈ [Instr.secAttest req mm, .unlock req mm, .lcTransition req mm, .ownerKey req mm, .advanceArb req mm] →
      (cp0m req mm = false → ∃ t : State, exec c s = .next t ∧ Denied s t req A.SEC_CMD) ∧
      (cp0m req mm = true → s.rf F.SEC_STATUS_BUSY = 1 → ∃ t : State, exec c s = .next t ∧ t.rf F.SEC_RESULT_CODE = 6 ∧ t.rf F.SEC_RESULT_DONE = 1 ∧
        t = { s with regs := t.regs } ∧ SameRegsBut s t [A.SEC_RESULT])) ∧
    (∀ ended : State → Nat → Prop, s.rf F.SEC_STATUS_BUSY = 0 →
      (∀ t code, ended t code ↔ t.rf F.SEC_RESULT_CODE = code ∧ t.rf F.SEC_RESULT_DONE = 1 ∧ t.rf F.SEC_STATUS_BUSY = 0) →
      (s.sec.signing ≠ none → ∃ t : State, exec (.secAttest .cp0 true) s = .next t ∧ ended t 6 ∧ t.sec = s.sec) ∧
      (s.sec.signing = none → s.rf F.SEC_STATUS_KEYS = 1 → s.rf F.OCM_STATUS_LOCKET_BAD = 0 → s.rdLe (s.secBuf 32) 1 = 0 →
        ∃ (t : State) (doc : List Byte), exec (.secAttest .cp0 true) s = .next t ∧ t.sec.signing = some (0, s.now, doc) ∧ t.rf F.SEC_STATUS_BUSY = 1 ∧
          t.rf F.SHK_STATUS_SIGNING = 1 ∧ SameMem s t) ∧
      (s.pstate ≠ .maint ∨ s.rf F.SEC_STATUS_LC ≠ 3 → ∃ t : State, exec (.unlock .cp0 true) s = .next t ∧ ended t 1 ∧ t.sec = s.sec ∧
        t.rf F.SEC_STATUS_UNLOCKED = s.rf F.SEC_STATUS_UNLOCKED ∧ t.rf F.SEC_ATTEMPT_ATTEMPT = (s.rf F.SEC_ATTEMPT_ATTEMPT + 1) % 2 ^ 32) ∧
      (s.pstate = .maint → s.rf F.SEC_STATUS_LC = 3 → (s.token 1 [2, 3]).1 = 0 → ∃ t : State, exec (.unlock .cp0 true) s = .next t ∧ ended t 0 ∧
        t.sec = { s.sec with scope := s.tokenArg % 8 } ∧ t.rf F.SEC_STATUS_UNLOCKED = 1 ∧ t.rf F.SEC_STATUS_JTAG = 1 ∧ SameMem s t) ∧
      (s.pstate ≠ .maint → ∃ t : State, exec (.lcTransition .cp0 true) s = .next t ∧ ended t 1 ∧ t.sec = s.sec ∧ SameMem s t) ∧
      (∀ ks, s.pstate = .maint → transKeys (s.rf F.SEC_STATUS_LC) s.tokenArg = some ks → (s.token 2 ks).1 = 0 →
        (s.tokenArg = 3 → s.rf F.SEC_STATUS_GRADE ≠ 2 ∧ (s.keyState 2 = 1 ∨ s.keyState 3 = 1)) → ∃ t : State, exec (.lcTransition .cp0 true) s = .next t ∧ ended t 0 ∧
          t.sec.nextLc = some s.tokenArg ∧ t.sec.tampers = 0 ∧ t.sec.signing = none ∧ t.rf F.SEC_STATUS_LC = s.rf F.SEC_STATUS_LC ∧ t.rf F.SEC_STATUS_KEYS = 0 ∧
          t.rf F.SEC_STATUS_UNLOCKED = 0 ∧ ∀ o, o < 0x40000 → t.rd (keyLocket o) = 0) ∧
      (s.rf F.SEC_STATUS_LC = 2 → s.keyState 2 = 0 → ∃ t : State, exec (.ownerKey .cp0 true) s = .next t ∧ ended t 0 ∧ t.keyState 2 = 1 ∧
        t.sec = { s.sec with keys := s.sec.keys.set 2 (shake256 (s.rdN (s.secBuf 0) 64) 32) } ∧ SameMem s t) ∧
      (s.rf F.SEC_STATUS_LC ≠ 2 → s.rf F.SEC_STATUS_LC ≠ 3 → ∃ t : State, exec (.ownerKey .cp0 true) s = .next t ∧ ended t 1 ∧ t = { s with regs := t.regs }) ∧
      (s.pstate ≠ .maint → ∃ t : State, exec (.advanceArb .cp0 true) s = .next t ∧ ended t 1 ∧ t = { s with regs := t.regs }) ∧
      (s.pstate = .maint → s.sec.half = [] → s.rf F.SEC_ARB_SVN ≤ s.rf F.SEC_ARB_COUNTER → ∃ t : State, exec (.advanceArb .cp0 true) s = .next t ∧ ended t 0 ∧
        t = { s with regs := t.regs }) ∧
      (s.pstate = .maint → s.sec.half ≠ [] ∨ s.rf F.SEC_ARB_COUNTER < s.rf F.SEC_ARB_SVN → ∃ t : State, exec (.advanceArb .cp0 true) s = .next t ∧
        t.rf F.SEC_STATUS_BUSY = 1 ∧ t.sec = { s.sec with arb := some (s.now + 800000) })) ∧
    (∀ t0, s.sec.arb = some t0 → s.sec.half = [] → ∃ t : State, exec .arbStepDone s = .next t ∧
      t.rf F.SEC_ARB_COUNTER = min 127 (s.rf F.SEC_ARB_COUNTER + 1) ∧ t.sec.half = [] ∧
      (t.rf F.SEC_ARB_SVN ≤ t.rf F.SEC_ARB_COUNTER → t.sec.arb = none ∧ t.rf F.SEC_RESULT_CODE = 0 ∧ t.rf F.SEC_RESULT_DONE = 1 ∧ t.rf F.SEC_STATUS_BUSY = 0) ∧
      (t.rf F.SEC_ARB_COUNTER < t.rf F.SEC_ARB_SVN → t.sec.arb = some (t.now + 800000) ∧ t.rf F.SEC_STATUS_BUSY = 1)) ∧
    (∀ dt t0 doc, s.sec.signing = some (0, t0, doc) → ∃ t : State, exec (.signingDone dt) s = .next t ∧ t.sec.signing = none ∧ t.rf F.SHK_STATUS_SIGNING = 0 ∧
      t.rf F.SEC_RESULT_CODE = 0 ∧ t.rf F.SEC_RESULT_DONE = 1 ∧ t.rf F.SEC_STATUS_BUSY = 0 ∧ t.rdN (s.secBuf 0) doc.length = doc) ∧
    (∀ (m : Fin 3) (f : Fld), s.pstate ≠ .off → f = (if m.val = 0 then F.SEC_TAMPER_ENCLOSURE else if m.val = 1 then F.SEC_TAMPER_VGLITCH else F.SEC_TAMPER_CGLITCH) →
      ∃ t : State, exec (.tamperTrip m) s = .next t ∧ t.rf f = min 255 (s.rf f + 1) ∧ t.rf F.SEC_STATUS_TAMPER = 1 ∧ t.rf F.SEC_STATUS_KEYS = 0 ∧
        t.sec.tampers = s.sec.tampers ∧ t.sec.signing = none ∧ (∀ o, o < 0x40000 → t.rd (keyLocket o) = 0) ∧
        (s.sec.signing = none → SentMsg s t srcSec .TAMPER (m.val * 2 ^ 36))) ∧
    (∀ (req : Requester) (mm : Bool), s.regAnswers A.SEC_LKT_DATA = true →
      (req = .i3c → ∃ t : State, exec (.locketDataRead req mm) s = .next t ∧ t = { s with sent := s.sent ++ [.bus req false [0, 0, 0, 0]] }) ∧
      (cp0m req mm = true → 0x4000 ≤ s.rf F.SEC_LKT_ADDR_WORD → s.rf F.SEC_LKT_ADDR_WORD ≤ 0x5FFF → ∃ t : State, exec (.locketDataRead req mm) s = .next t ∧
        t.sent = s.sent ++ [.bus req false (s.rdN (keyLocket (4 * s.rf F.SEC_LKT_ADDR_WORD)) 4)] ∧
        t.rf F.SEC_LKT_ADDR_WORD = s.rf F.SEC_LKT_ADDR_WORD + 1 ∧ t = { s with sent := t.sent, regs := t.regs }) ∧
      (req = .cp1 ∨ req = .cp1b → ∃ t : State, exec (.locketDataRead req mm) s = .next t ∧ t.sent = s.sent ++ [.bus req true []] ∧
        SentMsg s t (if req = .cp1 then 0x8F1 else 0x8F3) .OCM_ACCESS (3 * 2 ^ 36 + 4 * 2 ^ 33 + 4 * s.rf F.SEC_LKT_ADDR_WORD))) ∧
    (∀ (g : Fin 3) (sn : BitVec 14) (mac : BitVec 48) (seed k0 k1 : List Byte),
      (s.rf F.SEC_STATUS_LC ≠ 0 → exec (.factoryJtagTransition g sn mac seed k0 k1) s = .next s) ∧
      (s.pstate ≠ .off → s.rf F.SEC_STATUS_LC = 0 → s.sec.nextLc = none → ∃ t : State, exec (.factoryJtagTransition g sn mac seed k0 k1) s = .next t ∧
        t.sec.nextLc = some 1 ∧ t.sec.seed = seed ∧ t.sec.keys = [k0, k1, [], []] ∧ t.rf F.SEC_STATUS_GRADE = g.val ∧ t.keyState 0 = 1 ∧ t.keyState 1 = 1 ∧
        t.rf F.SEC_STATUS_LC = 0))

/-- An access where no register answers ends with a bus error. A write of another size or a misaligned one is denied with a bus error; one its writer may not make is denied. An allowed write of a register with no command of its own takes the value in its RW fields, clears the W1C bits written 1, and changes nothing else. A read of a register that no latch holds returns what it shows and clears its RC fields, but not through the I3C window. A read of a _LO register latches its _HI, which the next read of it by the same requester returns. An access of a control pair, or of the debugger on an open and attached hart, to a register is that read or write. A store of 8 bytes of a control pair to the library is limited to the image's windows in RUN, SAFE and HALT. (Where the spec leaves a detail of this open, the model reads it as log 63 says.) -/
def Obligations.RegisterAccesses : Prop :=
  ∀ (s : State) (req : Requester) (mm : Bool) (a : BitVec 40) (size : Fin 65) (v : BitVec 32), s.Sound →
    (inMemories a.toNat = true → exec (.registerWrite req mm a size v) s = .next s ∧ exec (.readClear req mm a size) s = .next s) ∧
    (inMemories a.toNat = false → inRegs a.toNat = false ∨ s.regAnswers a.toNat = false →
      ∀ c, c = .registerWrite req mm a size v ∨ c = .readClear req mm a size → ∃ t : State, exec c s = .next t ∧ t = { s with sent := s.sent ++ [.bus req true []] }) ∧
    (inRegs a.toNat = true → s.regAnswers a.toNat = true →
      (size.val ≠ 4 ∨ a.toNat % 4 ≠ 0 → ∃ t u : State, exec (.registerWrite req mm a size v) s = .next t ∧ Denied s u req a.toNat ∧
        t = { u with sent := s.sent ++ [.bus req true []] }) ∧
      (size.val = 4 → a.toNat % 4 = 0 → s.mayWrite req mm a.toNat = false → ∃ t : State, exec (.registerWrite req mm a size v) s = .next t ∧ Denied s t req a.toNat) ∧
      (∀ row, size.val = 4 → a.toNat % 4 = 0 → s.mayWrite req mm a.toNat = true → regRow? a.toNat = some row → ownRows.contains row.base = false →
        ∃ t : State, exec (.registerWrite req mm a size v) s = .next t ∧ t = { s with regs := t.regs } ∧ SameRegsBut s t [a.toNat] ∧
          ∀ i, i < 32 → bitAt (t.reg a.toNat).toNat i =
            if bitAt (row.mask .rw) i then bitAt v.toNat i else bitAt (s.reg a.toNat).toNat i && !(bitAt (row.mask .w1c) i && bitAt v.toNat i)) ∧
      (∀ row, size.val = 4 → a.toNat % 4 = 0 → regRow? a.toNat = some row → row.base ≠ A.CSI_I2C_RD 0 0 → a.toNat ≠ A.SEC_LKT_DATA → isInj a.toNat = false →
        isLo a.toNat = false → smFind s.latches (latchKey req a.toNat) = none → req ≠ .i3c ∨ inWindowRange a.toNat = true →
        ∃ t : State, exec (.readClear req mm a size) s = .next t ∧ t.sent = s.sent ++ [.bus req false (leBytes 4 (s.regShown a.toNat))] ∧
          t = { s with regs := t.regs, sent := t.sent } ∧ SameRegsBut s t [a.toNat] ∧
          ∀ i, i < 32 → bitAt (t.reg a.toNat).toNat i = (bitAt (s.reg a.toNat).toNat i && !(decide (req ≠ .i3c) && bitAt (row.mask .rc) i))) ∧
      (a.toNat % 4 = 0 → isLo a.toNat = true → smFind s.latches (latchKey req a.toNat) = none → req ≠ .i3c ∨ inWindowRange a.toNat = true →
        ∃ t : State, exec (.loLatchRead req mm a) s = .next t ∧ t.sent = s.sent ++ [.bus req false (leBytes 4 (s.regShown a.toNat))] ∧
          smFind t.latches (latchKey req (a.toNat + 4)) = some (s.regShown (a.toNat + 4)) ∧ SameMem s t) ∧
      (∀ data : List Byte, req = .cp0 ∨ req = .cp1 ∨ req = .cp1b →
        exec (.controlPairAccess req mm 0 a size data) s = exec (.readClear req mm a size) s ∧
        (data.length = 4 → size.val = 4 → exec (.controlPairAccess req mm 1 a size data) s = exec (.registerWrite req mm a size (BitVec.ofNat 32 (leNat data))) s)) ∧
      (∀ (hart : Fin 3) (data : List Byte), s.dbgOpen hart.val = true → (s.hart hart.val).attached = true → bitAt s.sec.scope 2 = true →
        exec (.debugSysbusAccess hart 0 a size data) s = exec (.readClear .dbg true a size) s ∧
        (data.length = 4 → size.val = 4 → exec (.debugSysbusAccess hart 1 a size data) s = exec (.registerWrite .dbg true a size (BitVec.ofNat 32 (leNat data))) s))) ∧
    (∀ (hart : Fin 3) (kind : Fin 3) (data : List Byte), s.dbgOpen hart.val = false ∨ (s.hart hart.val).attached = false ∨ bitAt s.sec.scope 2 = false →
      exec (.debugSysbusAccess hart kind a size data) s = .next s) ∧
    (∀ data : List Byte, req = .cp0 ∨ req = .cp1 → data.length = 8 → 0x1000000000 ≤ a.toNat → a.toNat + 8 ≤ 0x1008000000 → a.toNat % 8 = 0 →
      (s.pstate = .boot ∨ s.pstate = .maint → s.memc.bankOff = [] → s.inj.sram = none → s.inj.hbm = none →
        ∃ t : State, exec (.controlPairAccess req mm 1 a size data) s = .next t ∧ t.rdN a.toNat 8 = data ∧ SameMemBut s t a.toNat 8 ∧
          t.sent = s.sent ++ [.bus req false []] ∧ t.regs = s.regs) ∧
      (s.pstate = .run ∨ s.pstate = .safe ∨ s.pstate = .halt → s.inWindow a.toNat 8 = false →
        ∃ t : State, exec (.controlPairAccess req mm 1 a size data) s = .next t ∧ SameMem s t ∧ t.sent = s.sent ++ [.bus req true []] ∧
          SentMsg s t (if req = .cp1 then 0x8F1 else 0x8F0) .OCM_ACCESS (2 * 2 ^ 36 + 2 * 2 ^ 33 + a.toNat % 2 ^ 33)))
end

