-- ==== Sys2Proof/Laws/Access.lean ====
section
/-! SUPPORT. Commands given by register writes: what they do while the register side answers. -/

namespace Sys2Proof.Machine
open Sys2Proof
set_option Elab.async false

/-- Outside OFF and PARK every register answers (R549, R553). -/
theorem State.regAnswers_live {s : State} (h : s.pstate ≠ .off) (hp : s.parked = false) (a : Nat) : s.regAnswers a = true := by
  unfold State.regAnswers
  rw [hp]
  cases e : s.pstate <;> simp_all

/-- While the register side answers, a write from a control pair or the debugger acts. -/
theorem State.cmdWrite_live {s : State} (h : s.pstate ≠ .off) (hp : s.parked = false) {r : Requester} (hr : r ≠ .i3c) (a : Nat)
    (f : State → State) : s.cmdWrite r a f = f s := by
  unfold State.cmdWrite
  rw [State.regAnswers_live h hp]
  simp [hr]

/-- While the register side answers, a write that its rule refuses is denied, whoever makes it. -/
theorem State.cmdWrite_deny {s : State} (h : s.pstate ≠ .off) (hp : s.parked = false) (r : Requester) (a : Nat)
    {f : State → State} (hf : f s = s.deny r a) : s.cmdWrite r a f = s.deny r a := by
  unfold State.cmdWrite
  rw [State.regAnswers_live h hp]
  simp only [Bool.not_true, Bool.false_eq_true, if_false]
  split
  · rfl
  · exact hf

/-- Where no register answers, every write gets an error response (R553). -/
theorem State.cmdWrite_dead {s : State} {a : Nat} (h : s.regAnswers a = false) (r : Requester) (f : State → State) :
    s.cmdWrite r a f = s.busError r := by
  unfold State.cmdWrite
  rw [h]
  rfl

end Sys2Proof.Machine
end

