-- ==== Sys2Proof/Laws/Mem.lean ====
section
/-! SUPPORT. Laws of the sparse storage: read after write, frame, and that writing keeps the canonical form. -/

namespace Sys2Proof.Machine
set_option Elab.async false
set_option linter.all false
variable {α : Type}

theorem smFind_insert (m : List (Nat × α)) (a b : Nat) (x : α) :
    smFind (smInsert m a x) b = if a = b then some x else smFind m b := by
  induction m with
  | nil => simp [smInsert, smFind]
  | cons p r ih =>
    obtain ⟨k, v⟩ := p
    simp only [smInsert]
    split
    · simp [smFind]
    · split
      · rename_i h1; subst h1; by_cases h : k = b <;> simp [smFind, h]
      · by_cases h : k = b
        · subst h
          have : a ≠ k := fun e => by simp_all
          simp [smFind, this]
        · simp [smFind, h, ih]

theorem smFind_above {m : List (Nat × α)} {a : Nat} (h : smAbove a m) : smFind m a = none := by
  induction m with
  | nil => rfl
  | cons p r ih =>
    obtain ⟨k, v⟩ := p
    have hk : a < k := h (k, v) (by simp)
    have hr : smAbove a r := fun q hq => h q (by simp [hq])
    have : k ≠ a := by omega
    simp [smFind, this, ih hr]

variable {d : Nat → α}

theorem smFind_erase [DecidableEq α] {m : List (Nat × α)} (hw : smWf d m) (a b : Nat) :
    smFind (smErase m a) b = if a = b then none else smFind m b := by
  induction m with
  | nil => simp [smErase, smFind]
  | cons p r ih =>
    obtain ⟨k, v⟩ := p
    obtain ⟨_, hab, hr⟩ := hw
    simp only [smErase]
    split
    · rename_i h; subst h
      by_cases hb : k = b
      · subst hb; simp [smFind_above hab]
      · simp [smFind, hb]
    · rename_i h
      by_cases hb : k = b
      · subst hb
        have : a ≠ k := fun e => h e.symm
        simp [smFind, this]
      · simp [smFind, hb, ih hr]

/-- Read after write at the same key, and every other key as before. -/
theorem smGet_set [DecidableEq α] {m : List (Nat × α)} (hw : smWf d m) (a b : Nat) (x : α) :
    smGet d (smSet d m a x) b = if a = b then x else smGet d m b := by
  unfold smSet smGet
  split
  · rename_i h; subst h
    rw [smFind_erase hw]
    by_cases hb : a = b
    · subst hb; simp
    · simp [hb]
  · rw [smFind_insert]
    by_cases hb : a = b <;> simp [hb]

theorem smAbove_insert {m : List (Nat × α)} {c a : Nat} {x : α} (h : smAbove c m) (ha : c < a) :
    smAbove c (smInsert m a x) := by
  induction m with
  | nil => simp [smInsert, smAbove, ha]
  | cons p r ih =>
    obtain ⟨k, v⟩ := p
    have hk : c < k := h (k, v) (by simp)
    have hr : smAbove c r := fun q hq => h q (by simp [hq])
    simp only [smInsert]
    split
    · intro q hq; simp at hq; rcases hq with rfl | rfl | hq
      · exact ha
      · exact hk
      · exact hr q hq
    · split
      · intro q hq; simp at hq; rcases hq with rfl | hq
        · exact ha
        · exact hr q hq
      · intro q hq; simp at hq; rcases hq with rfl | hq
        · exact hk
        · exact ih hr q hq

theorem smAbove_erase {m : List (Nat × α)} {c : Nat} (a : Nat) (h : smAbove c m) : smAbove c (smErase m a) := by
  induction m with
  | nil => simpa [smErase] using h
  | cons p r ih =>
    obtain ⟨k, v⟩ := p
    have hk : c < k := h (k, v) (by simp)
    have hr : smAbove c r := fun q hq => h q (by simp [hq])
    simp only [smErase]
    split
    · exact hr
    · intro q hq; simp at hq; rcases hq with rfl | hq
      · exact hk
      · exact ih hr q hq

theorem smWf_insert [DecidableEq α] {m : List (Nat × α)} (hw : smWf d m) {a : Nat} {x : α} (hx : x ≠ d a) :
    smWf d (smInsert m a x) := by
  induction m with
  | nil => simp [smInsert, smWf, hx, smAbove]
  | cons p r ih =>
    obtain ⟨k, v⟩ := p
    obtain ⟨hv, hab, hr⟩ := hw
    simp only [smInsert]
    split
    · rename_i hlt
      refine ⟨hx, ?_, hv, hab, hr⟩
      intro q hq; simp at hq; rcases hq with rfl | hq
      · exact hlt
      · have := hab q hq; omega
    · split
      · rename_i h; subst h; exact ⟨hx, hab, hr⟩
      · exact ⟨hv, smAbove_insert hab (by omega), ih hr⟩

theorem smWf_erase [DecidableEq α] {m : List (Nat × α)} (hw : smWf d m) (a : Nat) : smWf d (smErase m a) := by
  induction m with
  | nil => simp [smErase, smWf]
  | cons p r ih =>
    obtain ⟨k, v⟩ := p
    obtain ⟨hv, hab, hr⟩ := hw
    simp only [smErase]
    split
    · exact hr
    · exact ⟨hv, smAbove_erase a hab, ih hr⟩

/-- Writing keeps the canonical form. -/
theorem smWf_set [DecidableEq α] {m : List (Nat × α)} (hw : smWf d m) (a : Nat) (x : α) : smWf d (smSet d m a x) := by
  unfold smSet
  split
  · exact smWf_erase hw a
  · rename_i h; exact smWf_insert hw h

theorem smWf_setList [DecidableEq α] {m : List (Nat × α)} (hw : smWf d m) (a : Nat) (xs : List α) :
    smWf d (smSetList d m a xs) := by
  induction xs generalizing m a with
  | nil => exact hw
  | cons x xs ih => exact ih (smWf_set hw a x) (a + 1)

/-- Every key outside the written range reads as before. -/
theorem smGet_setList_outside [DecidableEq α] {m : List (Nat × α)} (hw : smWf d m) (a b : Nat) (xs : List α)
    (h : b < a ∨ a + xs.length ≤ b) : smGet d (smSetList d m a xs) b = smGet d m b := by
  induction xs generalizing m a with
  | nil => rfl
  | cons x xs ih =>
    simp only [List.length_cons] at h
    rw [smSetList, ih (smWf_set hw a x) (a + 1) (by omega), smGet_set hw]
    have : a ≠ b := by omega
    simp [this]

theorem smWfB_iff [DecidableEq α] (m : List (Nat × α)) : smWfB d m = true ↔ smWf d m := by
  induction m with
  | nil => simp [smWfB, smWf]
  | cons p r ih =>
    obtain ⟨k, v⟩ := p
    simp [smWfB, smWf, ih, smAbove, and_assoc]

/-- Dropping entries keeps the canonical form. -/
theorem smWf_filter [DecidableEq α] {m : List (Nat × α)} (hw : smWf d m) (f : Nat × α → Bool) : smWf d (m.filter f) := by
  induction m with
  | nil => exact hw
  | cons p r ih =>
    obtain ⟨k, v⟩ := p
    obtain ⟨hv, hab, hr⟩ := hw
    rw [List.filter_cons]
    split
    · exact ⟨hv, fun q hq => hab q ((List.mem_filter.mp hq).1), ih hr⟩
    · exact ih hr

end Sys2Proof.Machine
end

