-- ==== Sys2Proof/Laws/State.lean ====
section
/-! SUPPORT. One lemma per field per update: what writing a register or memory, recording an output, counting, and sending a message leave
as it was; reads after writes of registers, fields and memory. -/

namespace Sys2Proof.Machine
open Sys2Proof
set_option Elab.async false
set_option linter.all false

/-! ### State.setReg -/

@[simp] theorem State.setReg_pending (s : State) (a : Nat) (w : Word) : (s.setReg a w).pending = s.pending := by unfold State.setReg; rfl
@[simp] theorem State.setReg_now (s : State) (a : Nat) (w : Word) : (s.setReg a w).now = s.now := by unfold State.setReg; rfl
@[simp] theorem State.setReg_pstate (s : State) (a : Nat) (w : Word) : (s.setReg a w).pstate = s.pstate := by unfold State.setReg; rfl
@[simp] theorem State.setReg_mem (s : State) (a : Nat) (w : Word) : (s.setReg a w).mem = s.mem := by unfold State.setReg; rfl
@[simp] theorem State.setReg_ecc (s : State) (a : Nat) (w : Word) : (s.setReg a w).ecc = s.ecc := by unfold State.setReg; rfl
@[simp] theorem State.setReg_image (s : State) (a : Nat) (w : Word) : (s.setReg a w).image = s.image := by unfold State.setReg; rfl
@[simp] theorem State.setReg_latches (s : State) (a : Nat) (w : Word) : (s.setReg a w).latches = s.latches := by unfold State.setReg; rfl
@[simp] theorem State.setReg_tsu (s : State) (a : Nat) (w : Word) : (s.setReg a w).tsu = s.tsu := by unfold State.setReg; rfl
@[simp] theorem State.setReg_bell (s : State) (a : Nat) (w : Word) : (s.setReg a w).bell = s.bell := by unfold State.setReg; rfl
@[simp] theorem State.setReg_coll (s : State) (a : Nat) (w : Word) : (s.setReg a w).coll = s.coll := by unfold State.setReg; rfl
@[simp] theorem State.setReg_alive (s : State) (a : Nat) (w : Word) : (s.setReg a w).alive = s.alive := by unfold State.setReg; rfl
@[simp] theorem State.setReg_safety (s : State) (a : Nat) (w : Word) : (s.setReg a w).safety = s.safety := by unfold State.setReg; rfl
@[simp] theorem State.setReg_tt (s : State) (a : Nat) (w : Word) : (s.setReg a w).tt = s.tt := by unfold State.setReg; rfl
@[simp] theorem State.setReg_jx (s : State) (a : Nat) (w : Word) : (s.setReg a w).jx = s.jx := by unfold State.setReg; rfl
@[simp] theorem State.setReg_harts (s : State) (a : Nat) (w : Word) : (s.setReg a w).harts = s.harts := by unfold State.setReg; rfl
@[simp] theorem State.setReg_inj (s : State) (a : Nat) (w : Word) : (s.setReg a w).inj = s.inj := by unfold State.setReg; rfl
@[simp] theorem State.setReg_card (s : State) (a : Nat) (w : Word) : (s.setReg a w).card = s.card := by unfold State.setReg; rfl
@[simp] theorem State.setReg_memc (s : State) (a : Nat) (w : Word) : (s.setReg a w).memc = s.memc := by unfold State.setReg; rfl
@[simp] theorem State.setReg_engs (s : State) (a : Nat) (w : Word) : (s.setReg a w).engs = s.engs := by unfold State.setReg; rfl
@[simp] theorem State.setReg_resid (s : State) (a : Nat) (w : Word) : (s.setReg a w).resid = s.resid := by unfold State.setReg; rfl
@[simp] theorem State.setReg_live (s : State) (a : Nat) (w : Word) : (s.setReg a w).live = s.live := by unfold State.setReg; rfl
@[simp] theorem State.setReg_shown (s : State) (a : Nat) (w : Word) : (s.setReg a w).shown = s.shown := by unfold State.setReg; rfl
@[simp] theorem State.setReg_att (s : State) (a : Nat) (w : Word) : (s.setReg a w).att = s.att := by unfold State.setReg; rfl
@[simp] theorem State.setReg_cams (s : State) (a : Nat) (w : Word) : (s.setReg a w).cams = s.cams := by unfold State.setReg; rfl
@[simp] theorem State.setReg_pipes (s : State) (a : Nat) (w : Word) : (s.setReg a w).pipes = s.pipes := by unfold State.setReg; rfl
@[simp] theorem State.setReg_sieve (s : State) (a : Nat) (w : Word) : (s.setReg a w).sieve = s.sieve := by unfold State.setReg; rfl
@[simp] theorem State.setReg_pw (s : State) (a : Nat) (w : Word) : (s.setReg a w).pw = s.pw := by unfold State.setReg; rfl
@[simp] theorem State.setReg_tst (s : State) (a : Nat) (w : Word) : (s.setReg a w).tst = s.tst := by unfold State.setReg; rfl
@[simp] theorem State.setReg_emit (s : State) (a : Nat) (w : Word) : (s.setReg a w).emit = s.emit := by unfold State.setReg; rfl
@[simp] theorem State.setReg_sec (s : State) (a : Nat) (w : Word) : (s.setReg a w).sec = s.sec := by unfold State.setReg; rfl
@[simp] theorem State.setReg_stage (s : State) (a : Nat) (w : Word) : (s.setReg a w).stage = s.stage := by unfold State.setReg; rfl
@[simp] theorem State.setReg_replay (s : State) (a : Nat) (w : Word) : (s.setReg a w).replay = s.replay := by unfold State.setReg; rfl
@[simp] theorem State.setReg_i3c (s : State) (a : Nat) (w : Word) : (s.setReg a w).i3c = s.i3c := by unfold State.setReg; rfl
@[simp] theorem State.setReg_sent (s : State) (a : Nat) (w : Word) : (s.setReg a w).sent = s.sent := by unfold State.setReg; rfl
@[simp] theorem State.setReg_freeCount (s : State) (a : Nat) (w : Word) : (s.setReg a w).freeCount = s.freeCount := by unfold State.setReg; rfl

/-! ### State.wf -/

@[simp] theorem State.wf_pending (s : State) (f : Fld) (v : Nat) : (s.wf f v).pending = s.pending := by unfold State.wf; exact State.setReg_pending _ _ _
@[simp] theorem State.wf_now (s : State) (f : Fld) (v : Nat) : (s.wf f v).now = s.now := by unfold State.wf; exact State.setReg_now _ _ _
@[simp] theorem State.wf_pstate (s : State) (f : Fld) (v : Nat) : (s.wf f v).pstate = s.pstate := by unfold State.wf; exact State.setReg_pstate _ _ _
@[simp] theorem State.wf_mem (s : State) (f : Fld) (v : Nat) : (s.wf f v).mem = s.mem := by unfold State.wf; exact State.setReg_mem _ _ _
@[simp] theorem State.wf_ecc (s : State) (f : Fld) (v : Nat) : (s.wf f v).ecc = s.ecc := by unfold State.wf; exact State.setReg_ecc _ _ _
@[simp] theorem State.wf_image (s : State) (f : Fld) (v : Nat) : (s.wf f v).image = s.image := by unfold State.wf; exact State.setReg_image _ _ _
@[simp] theorem State.wf_latches (s : State) (f : Fld) (v : Nat) : (s.wf f v).latches = s.latches := by unfold State.wf; exact State.setReg_latches _ _ _
@[simp] theorem State.wf_tsu (s : State) (f : Fld) (v : Nat) : (s.wf f v).tsu = s.tsu := by unfold State.wf; exact State.setReg_tsu _ _ _
@[simp] theorem State.wf_bell (s : State) (f : Fld) (v : Nat) : (s.wf f v).bell = s.bell := by unfold State.wf; exact State.setReg_bell _ _ _
@[simp] theorem State.wf_coll (s : State) (f : Fld) (v : Nat) : (s.wf f v).coll = s.coll := by unfold State.wf; exact State.setReg_coll _ _ _
@[simp] theorem State.wf_alive (s : State) (f : Fld) (v : Nat) : (s.wf f v).alive = s.alive := by unfold State.wf; exact State.setReg_alive _ _ _
@[simp] theorem State.wf_safety (s : State) (f : Fld) (v : Nat) : (s.wf f v).safety = s.safety := by unfold State.wf; exact State.setReg_safety _ _ _
@[simp] theorem State.wf_tt (s : State) (f : Fld) (v : Nat) : (s.wf f v).tt = s.tt := by unfold State.wf; exact State.setReg_tt _ _ _
@[simp] theorem State.wf_jx (s : State) (f : Fld) (v : Nat) : (s.wf f v).jx = s.jx := by unfold State.wf; exact State.setReg_jx _ _ _
@[simp] theorem State.wf_harts (s : State) (f : Fld) (v : Nat) : (s.wf f v).harts = s.harts := by unfold State.wf; exact State.setReg_harts _ _ _
@[simp] theorem State.wf_inj (s : State) (f : Fld) (v : Nat) : (s.wf f v).inj = s.inj := by unfold State.wf; exact State.setReg_inj _ _ _
@[simp] theorem State.wf_card (s : State) (f : Fld) (v : Nat) : (s.wf f v).card = s.card := by unfold State.wf; exact State.setReg_card _ _ _
@[simp] theorem State.wf_memc (s : State) (f : Fld) (v : Nat) : (s.wf f v).memc = s.memc := by unfold State.wf; exact State.setReg_memc _ _ _
@[simp] theorem State.wf_engs (s : State) (f : Fld) (v : Nat) : (s.wf f v).engs = s.engs := by unfold State.wf; exact State.setReg_engs _ _ _
@[simp] theorem State.wf_resid (s : State) (f : Fld) (v : Nat) : (s.wf f v).resid = s.resid := by unfold State.wf; exact State.setReg_resid _ _ _
@[simp] theorem State.wf_live (s : State) (f : Fld) (v : Nat) : (s.wf f v).live = s.live := by unfold State.wf; exact State.setReg_live _ _ _
@[simp] theorem State.wf_shown (s : State) (f : Fld) (v : Nat) : (s.wf f v).shown = s.shown := by unfold State.wf; exact State.setReg_shown _ _ _
@[simp] theorem State.wf_att (s : State) (f : Fld) (v : Nat) : (s.wf f v).att = s.att := by unfold State.wf; exact State.setReg_att _ _ _
@[simp] theorem State.wf_cams (s : State) (f : Fld) (v : Nat) : (s.wf f v).cams = s.cams := by unfold State.wf; exact State.setReg_cams _ _ _
@[simp] theorem State.wf_pipes (s : State) (f : Fld) (v : Nat) : (s.wf f v).pipes = s.pipes := by unfold State.wf; exact State.setReg_pipes _ _ _
@[simp] theorem State.wf_sieve (s : State) (f : Fld) (v : Nat) : (s.wf f v).sieve = s.sieve := by unfold State.wf; exact State.setReg_sieve _ _ _
@[simp] theorem State.wf_pw (s : State) (f : Fld) (v : Nat) : (s.wf f v).pw = s.pw := by unfold State.wf; exact State.setReg_pw _ _ _
@[simp] theorem State.wf_tst (s : State) (f : Fld) (v : Nat) : (s.wf f v).tst = s.tst := by unfold State.wf; exact State.setReg_tst _ _ _
@[simp] theorem State.wf_emit (s : State) (f : Fld) (v : Nat) : (s.wf f v).emit = s.emit := by unfold State.wf; exact State.setReg_emit _ _ _
@[simp] theorem State.wf_sec (s : State) (f : Fld) (v : Nat) : (s.wf f v).sec = s.sec := by unfold State.wf; exact State.setReg_sec _ _ _
@[simp] theorem State.wf_stage (s : State) (f : Fld) (v : Nat) : (s.wf f v).stage = s.stage := by unfold State.wf; exact State.setReg_stage _ _ _
@[simp] theorem State.wf_replay (s : State) (f : Fld) (v : Nat) : (s.wf f v).replay = s.replay := by unfold State.wf; exact State.setReg_replay _ _ _
@[simp] theorem State.wf_i3c (s : State) (f : Fld) (v : Nat) : (s.wf f v).i3c = s.i3c := by unfold State.wf; exact State.setReg_i3c _ _ _
@[simp] theorem State.wf_sent (s : State) (f : Fld) (v : Nat) : (s.wf f v).sent = s.sent := by unfold State.wf; exact State.setReg_sent _ _ _
@[simp] theorem State.wf_freeCount (s : State) (f : Fld) (v : Nat) : (s.wf f v).freeCount = s.freeCount := by unfold State.wf; exact State.setReg_freeCount _ _ _

/-! ### State.bump -/

@[simp] theorem State.bump_pending (s : State) (f : Fld) (n : Nat) : (s.bump f n).pending = s.pending := by unfold State.bump; exact State.wf_pending _ _ _
@[simp] theorem State.bump_now (s : State) (f : Fld) (n : Nat) : (s.bump f n).now = s.now := by unfold State.bump; exact State.wf_now _ _ _
@[simp] theorem State.bump_pstate (s : State) (f : Fld) (n : Nat) : (s.bump f n).pstate = s.pstate := by unfold State.bump; exact State.wf_pstate _ _ _
@[simp] theorem State.bump_mem (s : State) (f : Fld) (n : Nat) : (s.bump f n).mem = s.mem := by unfold State.bump; exact State.wf_mem _ _ _
@[simp] theorem State.bump_ecc (s : State) (f : Fld) (n : Nat) : (s.bump f n).ecc = s.ecc := by unfold State.bump; exact State.wf_ecc _ _ _
@[simp] theorem State.bump_image (s : State) (f : Fld) (n : Nat) : (s.bump f n).image = s.image := by unfold State.bump; exact State.wf_image _ _ _
@[simp] theorem State.bump_latches (s : State) (f : Fld) (n : Nat) : (s.bump f n).latches = s.latches := by unfold State.bump; exact State.wf_latches _ _ _
@[simp] theorem State.bump_tsu (s : State) (f : Fld) (n : Nat) : (s.bump f n).tsu = s.tsu := by unfold State.bump; exact State.wf_tsu _ _ _
@[simp] theorem State.bump_bell (s : State) (f : Fld) (n : Nat) : (s.bump f n).bell = s.bell := by unfold State.bump; exact State.wf_bell _ _ _
@[simp] theorem State.bump_coll (s : State) (f : Fld) (n : Nat) : (s.bump f n).coll = s.coll := by unfold State.bump; exact State.wf_coll _ _ _
@[simp] theorem State.bump_alive (s : State) (f : Fld) (n : Nat) : (s.bump f n).alive = s.alive := by unfold State.bump; exact State.wf_alive _ _ _
@[simp] theorem State.bump_safety (s : State) (f : Fld) (n : Nat) : (s.bump f n).safety = s.safety := by unfold State.bump; exact State.wf_safety _ _ _
@[simp] theorem State.bump_tt (s : State) (f : Fld) (n : Nat) : (s.bump f n).tt = s.tt := by unfold State.bump; exact State.wf_tt _ _ _
@[simp] theorem State.bump_jx (s : State) (f : Fld) (n : Nat) : (s.bump f n).jx = s.jx := by unfold State.bump; exact State.wf_jx _ _ _
@[simp] theorem State.bump_harts (s : State) (f : Fld) (n : Nat) : (s.bump f n).harts = s.harts := by unfold State.bump; exact State.wf_harts _ _ _
@[simp] theorem State.bump_inj (s : State) (f : Fld) (n : Nat) : (s.bump f n).inj = s.inj := by unfold State.bump; exact State.wf_inj _ _ _
@[simp] theorem State.bump_card (s : State) (f : Fld) (n : Nat) : (s.bump f n).card = s.card := by unfold State.bump; exact State.wf_card _ _ _
@[simp] theorem State.bump_memc (s : State) (f : Fld) (n : Nat) : (s.bump f n).memc = s.memc := by unfold State.bump; exact State.wf_memc _ _ _
@[simp] theorem State.bump_engs (s : State) (f : Fld) (n : Nat) : (s.bump f n).engs = s.engs := by unfold State.bump; exact State.wf_engs _ _ _
@[simp] theorem State.bump_resid (s : State) (f : Fld) (n : Nat) : (s.bump f n).resid = s.resid := by unfold State.bump; exact State.wf_resid _ _ _
@[simp] theorem State.bump_live (s : State) (f : Fld) (n : Nat) : (s.bump f n).live = s.live := by unfold State.bump; exact State.wf_live _ _ _
@[simp] theorem State.bump_shown (s : State) (f : Fld) (n : Nat) : (s.bump f n).shown = s.shown := by unfold State.bump; exact State.wf_shown _ _ _
@[simp] theorem State.bump_att (s : State) (f : Fld) (n : Nat) : (s.bump f n).att = s.att := by unfold State.bump; exact State.wf_att _ _ _
@[simp] theorem State.bump_cams (s : State) (f : Fld) (n : Nat) : (s.bump f n).cams = s.cams := by unfold State.bump; exact State.wf_cams _ _ _
@[simp] theorem State.bump_pipes (s : State) (f : Fld) (n : Nat) : (s.bump f n).pipes = s.pipes := by unfold State.bump; exact State.wf_pipes _ _ _
@[simp] theorem State.bump_sieve (s : State) (f : Fld) (n : Nat) : (s.bump f n).sieve = s.sieve := by unfold State.bump; exact State.wf_sieve _ _ _
@[simp] theorem State.bump_pw (s : State) (f : Fld) (n : Nat) : (s.bump f n).pw = s.pw := by unfold State.bump; exact State.wf_pw _ _ _
@[simp] theorem State.bump_tst (s : State) (f : Fld) (n : Nat) : (s.bump f n).tst = s.tst := by unfold State.bump; exact State.wf_tst _ _ _
@[simp] theorem State.bump_emit (s : State) (f : Fld) (n : Nat) : (s.bump f n).emit = s.emit := by unfold State.bump; exact State.wf_emit _ _ _
@[simp] theorem State.bump_sec (s : State) (f : Fld) (n : Nat) : (s.bump f n).sec = s.sec := by unfold State.bump; exact State.wf_sec _ _ _
@[simp] theorem State.bump_stage (s : State) (f : Fld) (n : Nat) : (s.bump f n).stage = s.stage := by unfold State.bump; exact State.wf_stage _ _ _
@[simp] theorem State.bump_replay (s : State) (f : Fld) (n : Nat) : (s.bump f n).replay = s.replay := by unfold State.bump; exact State.wf_replay _ _ _
@[simp] theorem State.bump_i3c (s : State) (f : Fld) (n : Nat) : (s.bump f n).i3c = s.i3c := by unfold State.bump; exact State.wf_i3c _ _ _
@[simp] theorem State.bump_sent (s : State) (f : Fld) (n : Nat) : (s.bump f n).sent = s.sent := by unfold State.bump; exact State.wf_sent _ _ _
@[simp] theorem State.bump_freeCount (s : State) (f : Fld) (n : Nat) : (s.bump f n).freeCount = s.freeCount := by unfold State.bump; exact State.wf_freeCount _ _ _

/-! ### State.out -/

@[simp] theorem State.out_pending (s : State) (o : Out) : (s.out o).pending = s.pending := by unfold State.out; rfl
@[simp] theorem State.out_now (s : State) (o : Out) : (s.out o).now = s.now := by unfold State.out; rfl
@[simp] theorem State.out_pstate (s : State) (o : Out) : (s.out o).pstate = s.pstate := by unfold State.out; rfl
@[simp] theorem State.out_regs (s : State) (o : Out) : (s.out o).regs = s.regs := by unfold State.out; rfl
@[simp] theorem State.out_mem (s : State) (o : Out) : (s.out o).mem = s.mem := by unfold State.out; rfl
@[simp] theorem State.out_ecc (s : State) (o : Out) : (s.out o).ecc = s.ecc := by unfold State.out; rfl
@[simp] theorem State.out_image (s : State) (o : Out) : (s.out o).image = s.image := by unfold State.out; rfl
@[simp] theorem State.out_latches (s : State) (o : Out) : (s.out o).latches = s.latches := by unfold State.out; rfl
@[simp] theorem State.out_tsu (s : State) (o : Out) : (s.out o).tsu = s.tsu := by unfold State.out; rfl
@[simp] theorem State.out_bell (s : State) (o : Out) : (s.out o).bell = s.bell := by unfold State.out; rfl
@[simp] theorem State.out_coll (s : State) (o : Out) : (s.out o).coll = s.coll := by unfold State.out; rfl
@[simp] theorem State.out_alive (s : State) (o : Out) : (s.out o).alive = s.alive := by unfold State.out; rfl
@[simp] theorem State.out_safety (s : State) (o : Out) : (s.out o).safety = s.safety := by unfold State.out; rfl
@[simp] theorem State.out_tt (s : State) (o : Out) : (s.out o).tt = s.tt := by unfold State.out; rfl
@[simp] theorem State.out_jx (s : State) (o : Out) : (s.out o).jx = s.jx := by unfold State.out; rfl
@[simp] theorem State.out_harts (s : State) (o : Out) : (s.out o).harts = s.harts := by unfold State.out; rfl
@[simp] theorem State.out_inj (s : State) (o : Out) : (s.out o).inj = s.inj := by unfold State.out; rfl
@[simp] theorem State.out_card (s : State) (o : Out) : (s.out o).card = s.card := by unfold State.out; rfl
@[simp] theorem State.out_memc (s : State) (o : Out) : (s.out o).memc = s.memc := by unfold State.out; rfl
@[simp] theorem State.out_engs (s : State) (o : Out) : (s.out o).engs = s.engs := by unfold State.out; rfl
@[simp] theorem State.out_resid (s : State) (o : Out) : (s.out o).resid = s.resid := by unfold State.out; rfl
@[simp] theorem State.out_live (s : State) (o : Out) : (s.out o).live = s.live := by unfold State.out; rfl
@[simp] theorem State.out_shown (s : State) (o : Out) : (s.out o).shown = s.shown := by unfold State.out; rfl
@[simp] theorem State.out_att (s : State) (o : Out) : (s.out o).att = s.att := by unfold State.out; rfl
@[simp] theorem State.out_cams (s : State) (o : Out) : (s.out o).cams = s.cams := by unfold State.out; rfl
@[simp] theorem State.out_pipes (s : State) (o : Out) : (s.out o).pipes = s.pipes := by unfold State.out; rfl
@[simp] theorem State.out_sieve (s : State) (o : Out) : (s.out o).sieve = s.sieve := by unfold State.out; rfl
@[simp] theorem State.out_pw (s : State) (o : Out) : (s.out o).pw = s.pw := by unfold State.out; rfl
@[simp] theorem State.out_tst (s : State) (o : Out) : (s.out o).tst = s.tst := by unfold State.out; rfl
@[simp] theorem State.out_emit (s : State) (o : Out) : (s.out o).emit = s.emit := by unfold State.out; rfl
@[simp] theorem State.out_sec (s : State) (o : Out) : (s.out o).sec = s.sec := by unfold State.out; rfl
@[simp] theorem State.out_stage (s : State) (o : Out) : (s.out o).stage = s.stage := by unfold State.out; rfl
@[simp] theorem State.out_replay (s : State) (o : Out) : (s.out o).replay = s.replay := by unfold State.out; rfl
@[simp] theorem State.out_i3c (s : State) (o : Out) : (s.out o).i3c = s.i3c := by unfold State.out; rfl
@[simp] theorem State.out_freeCount (s : State) (o : Out) : (s.out o).freeCount = s.freeCount := by unfold State.out; rfl

/-! ### State.wrN -/

@[simp] theorem State.wrN_pending (s : State) (k : Nat) (bs : List Byte) : (s.wrN k bs).pending = s.pending := by unfold State.wrN; rfl
@[simp] theorem State.wrN_now (s : State) (k : Nat) (bs : List Byte) : (s.wrN k bs).now = s.now := by unfold State.wrN; rfl
@[simp] theorem State.wrN_pstate (s : State) (k : Nat) (bs : List Byte) : (s.wrN k bs).pstate = s.pstate := by unfold State.wrN; rfl
@[simp] theorem State.wrN_regs (s : State) (k : Nat) (bs : List Byte) : (s.wrN k bs).regs = s.regs := by unfold State.wrN; rfl
@[simp] theorem State.wrN_ecc (s : State) (k : Nat) (bs : List Byte) : (s.wrN k bs).ecc = s.ecc := by unfold State.wrN; rfl
@[simp] theorem State.wrN_image (s : State) (k : Nat) (bs : List Byte) : (s.wrN k bs).image = s.image := by unfold State.wrN; rfl
@[simp] theorem State.wrN_latches (s : State) (k : Nat) (bs : List Byte) : (s.wrN k bs).latches = s.latches := by unfold State.wrN; rfl
@[simp] theorem State.wrN_tsu (s : State) (k : Nat) (bs : List Byte) : (s.wrN k bs).tsu = s.tsu := by unfold State.wrN; rfl
@[simp] theorem State.wrN_bell (s : State) (k : Nat) (bs : List Byte) : (s.wrN k bs).bell = s.bell := by unfold State.wrN; rfl
@[simp] theorem State.wrN_coll (s : State) (k : Nat) (bs : List Byte) : (s.wrN k bs).coll = s.coll := by unfold State.wrN; rfl
@[simp] theorem State.wrN_alive (s : State) (k : Nat) (bs : List Byte) : (s.wrN k bs).alive = s.alive := by unfold State.wrN; rfl
@[simp] theorem State.wrN_safety (s : State) (k : Nat) (bs : List Byte) : (s.wrN k bs).safety = s.safety := by unfold State.wrN; rfl
@[simp] theorem State.wrN_tt (s : State) (k : Nat) (bs : List Byte) : (s.wrN k bs).tt = s.tt := by unfold State.wrN; rfl
@[simp] theorem State.wrN_jx (s : State) (k : Nat) (bs : List Byte) : (s.wrN k bs).jx = s.jx := by unfold State.wrN; rfl
@[simp] theorem State.wrN_harts (s : State) (k : Nat) (bs : List Byte) : (s.wrN k bs).harts = s.harts := by unfold State.wrN; rfl
@[simp] theorem State.wrN_inj (s : State) (k : Nat) (bs : List Byte) : (s.wrN k bs).inj = s.inj := by unfold State.wrN; rfl
@[simp] theorem State.wrN_card (s : State) (k : Nat) (bs : List Byte) : (s.wrN k bs).card = s.card := by unfold State.wrN; rfl
@[simp] theorem State.wrN_memc (s : State) (k : Nat) (bs : List Byte) : (s.wrN k bs).memc = s.memc := by unfold State.wrN; rfl
@[simp] theorem State.wrN_engs (s : State) (k : Nat) (bs : List Byte) : (s.wrN k bs).engs = s.engs := by unfold State.wrN; rfl
@[simp] theorem State.wrN_resid (s : State) (k : Nat) (bs : List Byte) : (s.wrN k bs).resid = s.resid := by unfold State.wrN; rfl
@[simp] theorem State.wrN_live (s : State) (k : Nat) (bs : List Byte) : (s.wrN k bs).live = s.live := by unfold State.wrN; rfl
@[simp] theorem State.wrN_shown (s : State) (k : Nat) (bs : List Byte) : (s.wrN k bs).shown = s.shown := by unfold State.wrN; rfl
@[simp] theorem State.wrN_att (s : State) (k : Nat) (bs : List Byte) : (s.wrN k bs).att = s.att := by unfold State.wrN; rfl
@[simp] theorem State.wrN_cams (s : State) (k : Nat) (bs : List Byte) : (s.wrN k bs).cams = s.cams := by unfold State.wrN; rfl
@[simp] theorem State.wrN_pipes (s : State) (k : Nat) (bs : List Byte) : (s.wrN k bs).pipes = s.pipes := by unfold State.wrN; rfl
@[simp] theorem State.wrN_sieve (s : State) (k : Nat) (bs : List Byte) : (s.wrN k bs).sieve = s.sieve := by unfold State.wrN; rfl
@[simp] theorem State.wrN_pw (s : State) (k : Nat) (bs : List Byte) : (s.wrN k bs).pw = s.pw := by unfold State.wrN; rfl
@[simp] theorem State.wrN_tst (s : State) (k : Nat) (bs : List Byte) : (s.wrN k bs).tst = s.tst := by unfold State.wrN; rfl
@[simp] theorem State.wrN_emit (s : State) (k : Nat) (bs : List Byte) : (s.wrN k bs).emit = s.emit := by unfold State.wrN; rfl
@[simp] theorem State.wrN_sec (s : State) (k : Nat) (bs : List Byte) : (s.wrN k bs).sec = s.sec := by unfold State.wrN; rfl
@[simp] theorem State.wrN_stage (s : State) (k : Nat) (bs : List Byte) : (s.wrN k bs).stage = s.stage := by unfold State.wrN; rfl
@[simp] theorem State.wrN_replay (s : State) (k : Nat) (bs : List Byte) : (s.wrN k bs).replay = s.replay := by unfold State.wrN; rfl
@[simp] theorem State.wrN_i3c (s : State) (k : Nat) (bs : List Byte) : (s.wrN k bs).i3c = s.i3c := by unfold State.wrN; rfl
@[simp] theorem State.wrN_sent (s : State) (k : Nat) (bs : List Byte) : (s.wrN k bs).sent = s.sent := by unfold State.wrN; rfl
@[simp] theorem State.wrN_freeCount (s : State) (k : Nat) (bs : List Byte) : (s.wrN k bs).freeCount = s.freeCount := by unfold State.wrN; rfl

/-! ### State.zeroRange -/

@[simp] theorem State.zeroRange_pending (s : State) (lo hi : Nat) : (s.zeroRange lo hi).pending = s.pending := by unfold State.zeroRange; rfl
@[simp] theorem State.zeroRange_now (s : State) (lo hi : Nat) : (s.zeroRange lo hi).now = s.now := by unfold State.zeroRange; rfl
@[simp] theorem State.zeroRange_pstate (s : State) (lo hi : Nat) : (s.zeroRange lo hi).pstate = s.pstate := by unfold State.zeroRange; rfl
@[simp] theorem State.zeroRange_regs (s : State) (lo hi : Nat) : (s.zeroRange lo hi).regs = s.regs := by unfold State.zeroRange; rfl
@[simp] theorem State.zeroRange_ecc (s : State) (lo hi : Nat) : (s.zeroRange lo hi).ecc = s.ecc := by unfold State.zeroRange; rfl
@[simp] theorem State.zeroRange_image (s : State) (lo hi : Nat) : (s.zeroRange lo hi).image = s.image := by unfold State.zeroRange; rfl
@[simp] theorem State.zeroRange_latches (s : State) (lo hi : Nat) : (s.zeroRange lo hi).latches = s.latches := by unfold State.zeroRange; rfl
@[simp] theorem State.zeroRange_tsu (s : State) (lo hi : Nat) : (s.zeroRange lo hi).tsu = s.tsu := by unfold State.zeroRange; rfl
@[simp] theorem State.zeroRange_bell (s : State) (lo hi : Nat) : (s.zeroRange lo hi).bell = s.bell := by unfold State.zeroRange; rfl
@[simp] theorem State.zeroRange_coll (s : State) (lo hi : Nat) : (s.zeroRange lo hi).coll = s.coll := by unfold State.zeroRange; rfl
@[simp] theorem State.zeroRange_alive (s : State) (lo hi : Nat) : (s.zeroRange lo hi).alive = s.alive := by unfold State.zeroRange; rfl
@[simp] theorem State.zeroRange_safety (s : State) (lo hi : Nat) : (s.zeroRange lo hi).safety = s.safety := by unfold State.zeroRange; rfl
@[simp] theorem State.zeroRange_tt (s : State) (lo hi : Nat) : (s.zeroRange lo hi).tt = s.tt := by unfold State.zeroRange; rfl
@[simp] theorem State.zeroRange_jx (s : State) (lo hi : Nat) : (s.zeroRange lo hi).jx = s.jx := by unfold State.zeroRange; rfl
@[simp] theorem State.zeroRange_harts (s : State) (lo hi : Nat) : (s.zeroRange lo hi).harts = s.harts := by unfold State.zeroRange; rfl
@[simp] theorem State.zeroRange_inj (s : State) (lo hi : Nat) : (s.zeroRange lo hi).inj = s.inj := by unfold State.zeroRange; rfl
@[simp] theorem State.zeroRange_card (s : State) (lo hi : Nat) : (s.zeroRange lo hi).card = s.card := by unfold State.zeroRange; rfl
@[simp] theorem State.zeroRange_memc (s : State) (lo hi : Nat) : (s.zeroRange lo hi).memc = s.memc := by unfold State.zeroRange; rfl
@[simp] theorem State.zeroRange_engs (s : State) (lo hi : Nat) : (s.zeroRange lo hi).engs = s.engs := by unfold State.zeroRange; rfl
@[simp] theorem State.zeroRange_resid (s : State) (lo hi : Nat) : (s.zeroRange lo hi).resid = s.resid := by unfold State.zeroRange; rfl
@[simp] theorem State.zeroRange_live (s : State) (lo hi : Nat) : (s.zeroRange lo hi).live = s.live := by unfold State.zeroRange; rfl
@[simp] theorem State.zeroRange_shown (s : State) (lo hi : Nat) : (s.zeroRange lo hi).shown = s.shown := by unfold State.zeroRange; rfl
@[simp] theorem State.zeroRange_att (s : State) (lo hi : Nat) : (s.zeroRange lo hi).att = s.att := by unfold State.zeroRange; rfl
@[simp] theorem State.zeroRange_cams (s : State) (lo hi : Nat) : (s.zeroRange lo hi).cams = s.cams := by unfold State.zeroRange; rfl
@[simp] theorem State.zeroRange_pipes (s : State) (lo hi : Nat) : (s.zeroRange lo hi).pipes = s.pipes := by unfold State.zeroRange; rfl
@[simp] theorem State.zeroRange_sieve (s : State) (lo hi : Nat) : (s.zeroRange lo hi).sieve = s.sieve := by unfold State.zeroRange; rfl
@[simp] theorem State.zeroRange_pw (s : State) (lo hi : Nat) : (s.zeroRange lo hi).pw = s.pw := by unfold State.zeroRange; rfl
@[simp] theorem State.zeroRange_tst (s : State) (lo hi : Nat) : (s.zeroRange lo hi).tst = s.tst := by unfold State.zeroRange; rfl
@[simp] theorem State.zeroRange_emit (s : State) (lo hi : Nat) : (s.zeroRange lo hi).emit = s.emit := by unfold State.zeroRange; rfl
@[simp] theorem State.zeroRange_sec (s : State) (lo hi : Nat) : (s.zeroRange lo hi).sec = s.sec := by unfold State.zeroRange; rfl
@[simp] theorem State.zeroRange_stage (s : State) (lo hi : Nat) : (s.zeroRange lo hi).stage = s.stage := by unfold State.zeroRange; rfl
@[simp] theorem State.zeroRange_replay (s : State) (lo hi : Nat) : (s.zeroRange lo hi).replay = s.replay := by unfold State.zeroRange; rfl
@[simp] theorem State.zeroRange_i3c (s : State) (lo hi : Nat) : (s.zeroRange lo hi).i3c = s.i3c := by unfold State.zeroRange; rfl
@[simp] theorem State.zeroRange_sent (s : State) (lo hi : Nat) : (s.zeroRange lo hi).sent = s.sent := by unfold State.zeroRange; rfl
@[simp] theorem State.zeroRange_freeCount (s : State) (lo hi : Nat) : (s.zeroRange lo hi).freeCount = s.freeCount := by unfold State.zeroRange; rfl

/-! ### State.tally -/

@[simp] theorem State.tally_pending (s : State) (f : Fld) (n : Nat) : (s.tally f n).pending = s.pending := by
  unfold State.tally; repeat (any_goals split)
  all_goals rfl
@[simp] theorem State.tally_now (s : State) (f : Fld) (n : Nat) : (s.tally f n).now = s.now := by
  unfold State.tally; repeat (any_goals split)
  all_goals rfl
@[simp] theorem State.tally_pstate (s : State) (f : Fld) (n : Nat) : (s.tally f n).pstate = s.pstate := by
  unfold State.tally; repeat (any_goals split)
  all_goals rfl
@[simp] theorem State.tally_regs (s : State) (f : Fld) (n : Nat) : (s.tally f n).regs = s.regs := by
  unfold State.tally; repeat (any_goals split)
  all_goals rfl
@[simp] theorem State.tally_mem (s : State) (f : Fld) (n : Nat) : (s.tally f n).mem = s.mem := by
  unfold State.tally; repeat (any_goals split)
  all_goals rfl
@[simp] theorem State.tally_ecc (s : State) (f : Fld) (n : Nat) : (s.tally f n).ecc = s.ecc := by
  unfold State.tally; repeat (any_goals split)
  all_goals rfl
@[simp] theorem State.tally_image (s : State) (f : Fld) (n : Nat) : (s.tally f n).image = s.image := by
  unfold State.tally; repeat (any_goals split)
  all_goals rfl
@[simp] theorem State.tally_latches (s : State) (f : Fld) (n : Nat) : (s.tally f n).latches = s.latches := by
  unfold State.tally; repeat (any_goals split)
  all_goals rfl
@[simp] theorem State.tally_tsu (s : State) (f : Fld) (n : Nat) : (s.tally f n).tsu = s.tsu := by
  unfold State.tally; repeat (any_goals split)
  all_goals rfl
@[simp] theorem State.tally_bell (s : State) (f : Fld) (n : Nat) : (s.tally f n).bell = s.bell := by
  unfold State.tally; repeat (any_goals split)
  all_goals rfl
@[simp] theorem State.tally_coll (s : State) (f : Fld) (n : Nat) : (s.tally f n).coll = s.coll := by
  unfold State.tally; repeat (any_goals split)
  all_goals rfl
@[simp] theorem State.tally_alive (s : State) (f : Fld) (n : Nat) : (s.tally f n).alive = s.alive := by
  unfold State.tally; repeat (any_goals split)
  all_goals rfl
@[simp] theorem State.tally_safety (s : State) (f : Fld) (n : Nat) : (s.tally f n).safety = s.safety := by
  unfold State.tally; repeat (any_goals split)
  all_goals rfl
@[simp] theorem State.tally_tt (s : State) (f : Fld) (n : Nat) : (s.tally f n).tt = s.tt := by
  unfold State.tally; repeat (any_goals split)
  all_goals rfl
@[simp] theorem State.tally_jx (s : State) (f : Fld) (n : Nat) : (s.tally f n).jx = s.jx := by
  unfold State.tally; repeat (any_goals split)
  all_goals rfl
@[simp] theorem State.tally_harts (s : State) (f : Fld) (n : Nat) : (s.tally f n).harts = s.harts := by
  unfold State.tally; repeat (any_goals split)
  all_goals rfl
@[simp] theorem State.tally_inj (s : State) (f : Fld) (n : Nat) : (s.tally f n).inj = s.inj := by
  unfold State.tally; repeat (any_goals split)
  all_goals rfl
@[simp] theorem State.tally_card (s : State) (f : Fld) (n : Nat) : (s.tally f n).card = s.card := by
  unfold State.tally; repeat (any_goals split)
  all_goals rfl
@[simp] theorem State.tally_memc (s : State) (f : Fld) (n : Nat) : (s.tally f n).memc = s.memc := by
  unfold State.tally; repeat (any_goals split)
  all_goals rfl
@[simp] theorem State.tally_engs (s : State) (f : Fld) (n : Nat) : (s.tally f n).engs = s.engs := by
  unfold State.tally; repeat (any_goals split)
  all_goals rfl
@[simp] theorem State.tally_resid (s : State) (f : Fld) (n : Nat) : (s.tally f n).resid = s.resid := by
  unfold State.tally; repeat (any_goals split)
  all_goals rfl
@[simp] theorem State.tally_shown (s : State) (f : Fld) (n : Nat) : (s.tally f n).shown = s.shown := by
  unfold State.tally; repeat (any_goals split)
  all_goals rfl
@[simp] theorem State.tally_att (s : State) (f : Fld) (n : Nat) : (s.tally f n).att = s.att := by
  unfold State.tally; repeat (any_goals split)
  all_goals rfl
@[simp] theorem State.tally_cams (s : State) (f : Fld) (n : Nat) : (s.tally f n).cams = s.cams := by
  unfold State.tally; repeat (any_goals split)
  all_goals rfl
@[simp] theorem State.tally_pipes (s : State) (f : Fld) (n : Nat) : (s.tally f n).pipes = s.pipes := by
  unfold State.tally; repeat (any_goals split)
  all_goals rfl
@[simp] theorem State.tally_sieve (s : State) (f : Fld) (n : Nat) : (s.tally f n).sieve = s.sieve := by
  unfold State.tally; repeat (any_goals split)
  all_goals rfl
@[simp] theorem State.tally_pw (s : State) (f : Fld) (n : Nat) : (s.tally f n).pw = s.pw := by
  unfold State.tally; repeat (any_goals split)
  all_goals rfl
@[simp] theorem State.tally_tst (s : State) (f : Fld) (n : Nat) : (s.tally f n).tst = s.tst := by
  unfold State.tally; repeat (any_goals split)
  all_goals rfl
@[simp] theorem State.tally_emit (s : State) (f : Fld) (n : Nat) : (s.tally f n).emit = s.emit := by
  unfold State.tally; repeat (any_goals split)
  all_goals rfl
@[simp] theorem State.tally_sec (s : State) (f : Fld) (n : Nat) : (s.tally f n).sec = s.sec := by
  unfold State.tally; repeat (any_goals split)
  all_goals rfl
@[simp] theorem State.tally_stage (s : State) (f : Fld) (n : Nat) : (s.tally f n).stage = s.stage := by
  unfold State.tally; repeat (any_goals split)
  all_goals rfl
@[simp] theorem State.tally_replay (s : State) (f : Fld) (n : Nat) : (s.tally f n).replay = s.replay := by
  unfold State.tally; repeat (any_goals split)
  all_goals rfl
@[simp] theorem State.tally_i3c (s : State) (f : Fld) (n : Nat) : (s.tally f n).i3c = s.i3c := by
  unfold State.tally; repeat (any_goals split)
  all_goals rfl
@[simp] theorem State.tally_sent (s : State) (f : Fld) (n : Nat) : (s.tally f n).sent = s.sent := by
  unfold State.tally; repeat (any_goals split)
  all_goals rfl
@[simp] theorem State.tally_freeCount (s : State) (f : Fld) (n : Nat) : (s.tally f n).freeCount = s.freeCount := by
  unfold State.tally; repeat (any_goals split)
  all_goals rfl

/-! ### State.sendMsg and State.send -/

@[simp] theorem State.sendMsg_pending (s : State) (m : Msg) : (s.sendMsg m).pending = s.pending := by
  unfold State.sendMsg; split
  · rfl
  · simp only [State.bump_pending]
@[simp] theorem State.send_pending (s : State) (src : Nat) (k : Kind) (addr : Nat) : (s.send src k addr).pending = s.pending :=
  State.sendMsg_pending _ _
@[simp] theorem State.sendMsg_now (s : State) (m : Msg) : (s.sendMsg m).now = s.now := by
  unfold State.sendMsg; split
  · rfl
  · simp only [State.bump_now]
@[simp] theorem State.send_now (s : State) (src : Nat) (k : Kind) (addr : Nat) : (s.send src k addr).now = s.now :=
  State.sendMsg_now _ _
@[simp] theorem State.sendMsg_pstate (s : State) (m : Msg) : (s.sendMsg m).pstate = s.pstate := by
  unfold State.sendMsg; split
  · rfl
  · simp only [State.bump_pstate]
@[simp] theorem State.send_pstate (s : State) (src : Nat) (k : Kind) (addr : Nat) : (s.send src k addr).pstate = s.pstate :=
  State.sendMsg_pstate _ _
@[simp] theorem State.sendMsg_mem (s : State) (m : Msg) : (s.sendMsg m).mem = s.mem := by
  unfold State.sendMsg; split
  · rfl
  · simp only [State.bump_mem]
@[simp] theorem State.send_mem (s : State) (src : Nat) (k : Kind) (addr : Nat) : (s.send src k addr).mem = s.mem :=
  State.sendMsg_mem _ _
@[simp] theorem State.sendMsg_ecc (s : State) (m : Msg) : (s.sendMsg m).ecc = s.ecc := by
  unfold State.sendMsg; split
  · rfl
  · simp only [State.bump_ecc]
@[simp] theorem State.send_ecc (s : State) (src : Nat) (k : Kind) (addr : Nat) : (s.send src k addr).ecc = s.ecc :=
  State.sendMsg_ecc _ _
@[simp] theorem State.sendMsg_image (s : State) (m : Msg) : (s.sendMsg m).image = s.image := by
  unfold State.sendMsg; split
  · rfl
  · simp only [State.bump_image]
@[simp] theorem State.send_image (s : State) (src : Nat) (k : Kind) (addr : Nat) : (s.send src k addr).image = s.image :=
  State.sendMsg_image _ _
@[simp] theorem State.sendMsg_latches (s : State) (m : Msg) : (s.sendMsg m).latches = s.latches := by
  unfold State.sendMsg; split
  · rfl
  · simp only [State.bump_latches]
@[simp] theorem State.send_latches (s : State) (src : Nat) (k : Kind) (addr : Nat) : (s.send src k addr).latches = s.latches :=
  State.sendMsg_latches _ _
@[simp] theorem State.sendMsg_tsu (s : State) (m : Msg) : (s.sendMsg m).tsu = s.tsu := by
  unfold State.sendMsg; split
  · rfl
  · simp only [State.bump_tsu]
@[simp] theorem State.send_tsu (s : State) (src : Nat) (k : Kind) (addr : Nat) : (s.send src k addr).tsu = s.tsu :=
  State.sendMsg_tsu _ _
@[simp] theorem State.sendMsg_bell (s : State) (m : Msg) : (s.sendMsg m).bell = s.bell := by
  unfold State.sendMsg; split
  · rfl
  · simp only [State.bump_bell]
@[simp] theorem State.send_bell (s : State) (src : Nat) (k : Kind) (addr : Nat) : (s.send src k addr).bell = s.bell :=
  State.sendMsg_bell _ _
@[simp] theorem State.sendMsg_alive (s : State) (m : Msg) : (s.sendMsg m).alive = s.alive := by
  unfold State.sendMsg; split
  · rfl
  · simp only [State.bump_alive]
@[simp] theorem State.send_alive (s : State) (src : Nat) (k : Kind) (addr : Nat) : (s.send src k addr).alive = s.alive :=
  State.sendMsg_alive _ _
@[simp] theorem State.sendMsg_safety (s : State) (m : Msg) : (s.sendMsg m).safety = s.safety := by
  unfold State.sendMsg; split
  · rfl
  · simp only [State.bump_safety]
@[simp] theorem State.send_safety (s : State) (src : Nat) (k : Kind) (addr : Nat) : (s.send src k addr).safety = s.safety :=
  State.sendMsg_safety _ _
@[simp] theorem State.sendMsg_tt (s : State) (m : Msg) : (s.sendMsg m).tt = s.tt := by
  unfold State.sendMsg; split
  · rfl
  · simp only [State.bump_tt]
@[simp] theorem State.send_tt (s : State) (src : Nat) (k : Kind) (addr : Nat) : (s.send src k addr).tt = s.tt :=
  State.sendMsg_tt _ _
@[simp] theorem State.sendMsg_jx (s : State) (m : Msg) : (s.sendMsg m).jx = s.jx := by
  unfold State.sendMsg; split
  · rfl
  · simp only [State.bump_jx]
@[simp] theorem State.send_jx (s : State) (src : Nat) (k : Kind) (addr : Nat) : (s.send src k addr).jx = s.jx :=
  State.sendMsg_jx _ _
@[simp] theorem State.sendMsg_harts (s : State) (m : Msg) : (s.sendMsg m).harts = s.harts := by
  unfold State.sendMsg; split
  · rfl
  · simp only [State.bump_harts]
@[simp] theorem State.send_harts (s : State) (src : Nat) (k : Kind) (addr : Nat) : (s.send src k addr).harts = s.harts :=
  State.sendMsg_harts _ _
@[simp] theorem State.sendMsg_inj (s : State) (m : Msg) : (s.sendMsg m).inj = s.inj := by
  unfold State.sendMsg; split
  · rfl
  · simp only [State.bump_inj]
@[simp] theorem State.send_inj (s : State) (src : Nat) (k : Kind) (addr : Nat) : (s.send src k addr).inj = s.inj :=
  State.sendMsg_inj _ _
@[simp] theorem State.sendMsg_card (s : State) (m : Msg) : (s.sendMsg m).card = s.card := by
  unfold State.sendMsg; split
  · rfl
  · simp only [State.bump_card]
@[simp] theorem State.send_card (s : State) (src : Nat) (k : Kind) (addr : Nat) : (s.send src k addr).card = s.card :=
  State.sendMsg_card _ _
@[simp] theorem State.sendMsg_memc (s : State) (m : Msg) : (s.sendMsg m).memc = s.memc := by
  unfold State.sendMsg; split
  · rfl
  · simp only [State.bump_memc]
@[simp] theorem State.send_memc (s : State) (src : Nat) (k : Kind) (addr : Nat) : (s.send src k addr).memc = s.memc :=
  State.sendMsg_memc _ _
@[simp] theorem State.sendMsg_engs (s : State) (m : Msg) : (s.sendMsg m).engs = s.engs := by
  unfold State.sendMsg; split
  · rfl
  · simp only [State.bump_engs]
@[simp] theorem State.send_engs (s : State) (src : Nat) (k : Kind) (addr : Nat) : (s.send src k addr).engs = s.engs :=
  State.sendMsg_engs _ _
@[simp] theorem State.sendMsg_resid (s : State) (m : Msg) : (s.sendMsg m).resid = s.resid := by
  unfold State.sendMsg; split
  · rfl
  · simp only [State.bump_resid]
@[simp] theorem State.send_resid (s : State) (src : Nat) (k : Kind) (addr : Nat) : (s.send src k addr).resid = s.resid :=
  State.sendMsg_resid _ _
@[simp] theorem State.sendMsg_live (s : State) (m : Msg) : (s.sendMsg m).live = s.live := by
  unfold State.sendMsg; split
  · rfl
  · simp only [State.bump_live]
@[simp] theorem State.send_live (s : State) (src : Nat) (k : Kind) (addr : Nat) : (s.send src k addr).live = s.live :=
  State.sendMsg_live _ _
@[simp] theorem State.sendMsg_shown (s : State) (m : Msg) : (s.sendMsg m).shown = s.shown := by
  unfold State.sendMsg; split
  · rfl
  · simp only [State.bump_shown]
@[simp] theorem State.send_shown (s : State) (src : Nat) (k : Kind) (addr : Nat) : (s.send src k addr).shown = s.shown :=
  State.sendMsg_shown _ _
@[simp] theorem State.sendMsg_att (s : State) (m : Msg) : (s.sendMsg m).att = s.att := by
  unfold State.sendMsg; split
  · rfl
  · simp only [State.bump_att]
@[simp] theorem State.send_att (s : State) (src : Nat) (k : Kind) (addr : Nat) : (s.send src k addr).att = s.att :=
  State.sendMsg_att _ _
@[simp] theorem State.sendMsg_cams (s : State) (m : Msg) : (s.sendMsg m).cams = s.cams := by
  unfold State.sendMsg; split
  · rfl
  · simp only [State.bump_cams]
@[simp] theorem State.send_cams (s : State) (src : Nat) (k : Kind) (addr : Nat) : (s.send src k addr).cams = s.cams :=
  State.sendMsg_cams _ _
@[simp] theorem State.sendMsg_pipes (s : State) (m : Msg) : (s.sendMsg m).pipes = s.pipes := by
  unfold State.sendMsg; split
  · rfl
  · simp only [State.bump_pipes]
@[simp] theorem State.send_pipes (s : State) (src : Nat) (k : Kind) (addr : Nat) : (s.send src k addr).pipes = s.pipes :=
  State.sendMsg_pipes _ _
@[simp] theorem State.sendMsg_sieve (s : State) (m : Msg) : (s.sendMsg m).sieve = s.sieve := by
  unfold State.sendMsg; split
  · rfl
  · simp only [State.bump_sieve]
@[simp] theorem State.send_sieve (s : State) (src : Nat) (k : Kind) (addr : Nat) : (s.send src k addr).sieve = s.sieve :=
  State.sendMsg_sieve _ _
@[simp] theorem State.sendMsg_pw (s : State) (m : Msg) : (s.sendMsg m).pw = s.pw := by
  unfold State.sendMsg; split
  · rfl
  · simp only [State.bump_pw]
@[simp] theorem State.send_pw (s : State) (src : Nat) (k : Kind) (addr : Nat) : (s.send src k addr).pw = s.pw :=
  State.sendMsg_pw _ _
@[simp] theorem State.sendMsg_tst (s : State) (m : Msg) : (s.sendMsg m).tst = s.tst := by
  unfold State.sendMsg; split
  · rfl
  · simp only [State.bump_tst]
@[simp] theorem State.send_tst (s : State) (src : Nat) (k : Kind) (addr : Nat) : (s.send src k addr).tst = s.tst :=
  State.sendMsg_tst _ _
@[simp] theorem State.sendMsg_emit (s : State) (m : Msg) : (s.sendMsg m).emit = s.emit := by
  unfold State.sendMsg; split
  · rfl
  · simp only [State.bump_emit]
@[simp] theorem State.send_emit (s : State) (src : Nat) (k : Kind) (addr : Nat) : (s.send src k addr).emit = s.emit :=
  State.sendMsg_emit _ _
@[simp] theorem State.sendMsg_sec (s : State) (m : Msg) : (s.sendMsg m).sec = s.sec := by
  unfold State.sendMsg; split
  · rfl
  · simp only [State.bump_sec]
@[simp] theorem State.send_sec (s : State) (src : Nat) (k : Kind) (addr : Nat) : (s.send src k addr).sec = s.sec :=
  State.sendMsg_sec _ _
@[simp] theorem State.sendMsg_stage (s : State) (m : Msg) : (s.sendMsg m).stage = s.stage := by
  unfold State.sendMsg; split
  · rfl
  · simp only [State.bump_stage]
@[simp] theorem State.send_stage (s : State) (src : Nat) (k : Kind) (addr : Nat) : (s.send src k addr).stage = s.stage :=
  State.sendMsg_stage _ _
@[simp] theorem State.sendMsg_replay (s : State) (m : Msg) : (s.sendMsg m).replay = s.replay := by
  unfold State.sendMsg; split
  · rfl
  · simp only [State.bump_replay]
@[simp] theorem State.send_replay (s : State) (src : Nat) (k : Kind) (addr : Nat) : (s.send src k addr).replay = s.replay :=
  State.sendMsg_replay _ _
@[simp] theorem State.sendMsg_i3c (s : State) (m : Msg) : (s.sendMsg m).i3c = s.i3c := by
  unfold State.sendMsg; split
  · rfl
  · simp only [State.bump_i3c]
@[simp] theorem State.send_i3c (s : State) (src : Nat) (k : Kind) (addr : Nat) : (s.send src k addr).i3c = s.i3c :=
  State.sendMsg_i3c _ _
@[simp] theorem State.sendMsg_sent (s : State) (m : Msg) : (s.sendMsg m).sent = s.sent := by
  unfold State.sendMsg; split
  · rfl
  · simp only [State.bump_sent]
@[simp] theorem State.send_sent (s : State) (src : Nat) (k : Kind) (addr : Nat) : (s.send src k addr).sent = s.sent :=
  State.sendMsg_sent _ _
@[simp] theorem State.sendMsg_freeCount (s : State) (m : Msg) : (s.sendMsg m).freeCount = s.freeCount := by
  unfold State.sendMsg; split
  · rfl
  · simp only [State.bump_freeCount]
@[simp] theorem State.send_freeCount (s : State) (src : Nat) (k : Kind) (addr : Nat) : (s.send src k addr).freeCount = s.freeCount :=
  State.sendMsg_freeCount _ _

/-! ### Registers and memory read after a write -/

@[simp] theorem State.reg_wrN (s : State) (k : Nat) (bs : List Byte) (a : Nat) : (s.wrN k bs).reg a = s.reg a := by
  unfold State.reg; rw [State.wrN_regs]
@[simp] theorem State.rf_wrN (s : State) (k : Nat) (bs : List Byte) (f : Fld) : (s.wrN k bs).rf f = s.rf f := by
  unfold State.rf; rw [State.reg_wrN]
@[simp] theorem State.reg_out (s : State) (o : Out) (a : Nat) : (s.out o).reg a = s.reg a := by
  unfold State.reg; rw [State.out_regs]
@[simp] theorem State.rf_out (s : State) (o : Out) (f : Fld) : (s.out o).rf f = s.rf f := by
  unfold State.rf; rw [State.reg_out]
@[simp] theorem State.rd_setReg (s : State) (a : Nat) (w : Word) (k : Nat) : (s.setReg a w).rd k = s.rd k := by
  unfold State.rd; rw [State.setReg_mem]
@[simp] theorem State.rd_wf (s : State) (f : Fld) (v k : Nat) : (s.wf f v).rd k = s.rd k := by
  unfold State.rd; rw [State.wf_mem]
@[simp] theorem State.rd_bump (s : State) (f : Fld) (n k : Nat) : (s.bump f n).rd k = s.rd k := by
  unfold State.rd; rw [State.bump_mem]
@[simp] theorem State.rd_out (s : State) (o : Out) (k : Nat) : (s.out o).rd k = s.rd k := by
  unfold State.rd; rw [State.out_mem]

/-- Reading a key the state's memory does not change. -/
theorem State.rd_of_mem {s t : State} (h : t.mem = s.mem) (k : Nat) : t.rd k = s.rd k := by unfold State.rd; rw [h]

/-- Reading a register the state's registers do not change. -/
theorem State.reg_of_regs {s t : State} (h : t.regs = s.regs) (a : Nat) : t.reg a = s.reg a := by unfold State.reg; rw [h]

@[simp] theorem State.rd_send (s : State) (src : Nat) (m : Kind) (addr k : Nat) : (s.send src m addr).rd k = s.rd k :=
  State.rd_of_mem (State.send_mem _ _ _ _) k
@[simp] theorem State.rd_tally (s : State) (f : Fld) (n k : Nat) : (s.tally f n).rd k = s.rd k := State.rd_of_mem (State.tally_mem _ _ _) k
@[simp] theorem State.reg_tally (s : State) (f : Fld) (n a : Nat) : (s.tally f n).reg a = s.reg a := State.reg_of_regs (State.tally_regs _ _ _) a

/-- A register reads as it was written; every other register as before. -/
theorem State.reg_setReg {s : State} (hs : smWf regReset s.regs) (a b : Nat) (w : Word) :
    (s.setReg a w).reg b = if a = b then w else s.reg b := smGet_set hs a b w

theorem State.reg_wf {s : State} (hs : smWf regReset s.regs) (f : Fld) (v b : Nat) :
    (s.wf f v).reg b = if f.addr = b then BitVec.ofNat 32 (setBits (s.reg f.addr).toNat f.hi f.lo v) else s.reg b :=
  State.reg_setReg hs _ _ _

/-- A field reads as what was written to it, cut to its width. -/
theorem bits_setBits (v hi lo x : Nat) : bits (setBits v hi lo x) hi lo = x % 2 ^ (hi + 1 - lo) := by
  have hL : 0 < 2 ^ lo := Nat.two_pow_pos lo
  have hW : 0 < 2 ^ (hi + 1 - lo) := Nat.two_pow_pos _
  unfold setBits bits
  simp only [Nat.shiftRight_eq_div_pow]
  generalize 2 ^ lo = L at *
  generalize 2 ^ (hi + 1 - lo) = W at *
  have hv := Nat.div_add_mod v L
  have hd := Nat.div_add_mod (v / L) W
  have hr : v % L < L := Nat.mod_lt _ hL
  have hy : x % W < W := Nat.mod_lt _ hW
  generalize v % L = r at *
  generalize hD : v / L = d at *
  generalize d % W = b at *
  generalize d / W = c at *
  generalize x % W = y at *
  have e : v - b * L + y * L = r + L * (W * c + y) := by
    rw [← hv, ← hd, Nat.mul_add, Nat.mul_add, Nat.mul_comm L b, Nat.mul_comm L y]
    omega
  rw [e, Nat.add_mul_div_left _ _ hL, Nat.div_eq_of_lt hr, Nat.zero_add, Nat.mul_add_mod, Nat.mod_eq_of_lt hy]

end Sys2Proof.Machine
end

