-- ==== Sys2Proof/Laws/Bell.lean ====
section
/-! SUPPORT. The bell's number, boundaries and points as a predicate that an update elsewhere keeps. -/

namespace Sys2Proof.Machine
open Sys2Proof
set_option Elab.async false
set_option linter.all false

/-- Number, edge, next boundary, running, verdict, and the points of the bell already passed. -/
def Bell.core (b : Bell) : Nat × Nat × Nat × Bool × Bool × Bool × Bool × Bool × Bool × Bool × Bool :=
  (b.n, b.edge, b.nextB, b.running, b.verdict, b.healthDone, b.gateDone, b.gatePassed, b.phase2Done, b.hbDone, b.reloadDone)

/-- The bell's number, boundaries and points are fb. -/
def Fire (fb : Nat × Nat × Nat × Bool × Bool × Bool × Bool × Bool × Bool × Bool × Bool) (s : State) : Prop := s.bell.core = fb

variable {fb : Nat × Nat × Nat × Bool × Bool × Bool × Bool × Bool × Bool × Bool × Bool} {α β γ δ ε ζ : Type}

theorem fire_of {s : State} {a0 : Bell} {a1 : Nat} {a2 : PState} {a3 : List (Nat × Word)} {a4 : List Host.Cell} {a5 : List (Nat × Nat)} {a6 : List ImgRec} {a7 : List (Nat × Nat)} {a8 : Tsu} {a9 : Collector} {a10 : Alive} {a11 : Safety} {a12 : Tt} {a13 : Jx} {a14 : List Hart} {a15 : Inject} {a16 : Card} {a17 : MemCtl} {a18 : List (Nat × Eng)} {a19 : List Resid} {a20 : List (Fld × Nat)} {a21 : List Fld} {a22 : Att} {a23 : List Cam} {a24 : List (Option PipeJob)} {a25 : Sieve} {a26 : Pw} {a27 : Tst} {a28 : Emit} {a29 : Sec} {a30 : Option Stage} {a31 : Option Replay} {a32 : I3c} {a33 : List Out} {a34 : Nat}
    (h : Fire fb s) (h1 : a0.core = s.bell.core := by rfl) :
    Fire fb { s with bell := a0, now := a1, pstate := a2, regs := a3, mem := a4, ecc := a5, image := a6, latches := a7, tsu := a8, coll := a9, alive := a10, safety := a11, tt := a12, jx := a13, harts := a14, inj := a15, card := a16, memc := a17, engs := a18, resid := a19, live := a20, shown := a21, att := a22, cams := a23, pipes := a24, sieve := a25, pw := a26, tst := a27, emit := a28, sec := a29, stage := a30, replay := a31, i3c := a32, sent := a33, freeCount := a34 } :=
  h1.trans h

theorem fire_foldl {f : State → α → State} {l : List α} {s : State} (hf : ∀ s a, Fire fb s → Fire fb (f s a)) (h : Fire fb s) :
    Fire fb (l.foldl f s) := by
  induction l generalizing s with
  | nil => exact h
  | cons a l ih => exact ih (hf s a h)

theorem fire_foldl2 {f : β × State → α → β × State} {l : List α} {p : β × State}
    (hf : ∀ b s a, Fire fb s → Fire fb (f (b, s) a).2) (h : Fire fb p.2) : Fire fb (l.foldl f p).2 := by
  induction l generalizing p with
  | nil => exact h
  | cons a l ih => exact ih (hf p.1 p.2 a h)

theorem fire_foldl3 {f : β × γ × State → α → β × γ × State} {l : List α} {p : β × γ × State}
    (hf : ∀ b c s a, Fire fb s → Fire fb (f (b, c, s) a).2.2) (h : Fire fb p.2.2) : Fire fb (l.foldl f p).2.2 := by
  induction l generalizing p with
  | nil => exact h
  | cons a l ih => exact ih (hf p.1 p.2.1 p.2.2 a h)

theorem fire_foldl4 {f : β × γ × δ × State → α → β × γ × δ × State} {l : List α} {p : β × γ × δ × State}
    (hf : ∀ b c d s a, Fire fb s → Fire fb (f (b, c, d, s) a).2.2.2) (h : Fire fb p.2.2.2) : Fire fb (l.foldl f p).2.2.2 := by
  induction l generalizing p with
  | nil => exact h
  | cons a l ih => exact ih (hf p.1 p.2.1 p.2.2.1 p.2.2.2 a h)

theorem fire_foldl6 {f : β × γ × δ × ε × ζ × State → α → β × γ × δ × ε × ζ × State} {l : List α} {p : β × γ × δ × ε × ζ × State}
    (hf : ∀ b c d e g s a, Fire fb s → Fire fb (f (b, c, d, e, g, s) a).2.2.2.2.2) (h : Fire fb p.2.2.2.2.2) :
    Fire fb (l.foldl f p).2.2.2.2.2 := by
  induction l generalizing p with
  | nil => exact h
  | cons a l ih => exact ih (hf p.1 p.2.1 p.2.2.1 p.2.2.2.1 p.2.2.2.2.1 p.2.2.2.2.2 a h)

theorem fire_foldl1 {f : State × β → α → State × β} {l : List α} {p : State × β}
    (hf : ∀ s b a, Fire fb s → Fire fb (f (s, b) a).1) (h : Fire fb p.1) : Fire fb (l.foldl f p).1 := by
  induction l generalizing p with
  | nil => exact h
  | cons a l ih => exact ih (hf p.1 p.2 a h)

theorem fire_ite {c : Prop} [Decidable c] {a b : State} (ha : Fire fb a) (hb : Fire fb b) : Fire fb (if c then a else b) := by
  by_cases h : c
  · rw [if_pos h]; exact ha
  · rw [if_neg h]; exact hb

/-! ### Results of a match on what an operation answers -/

theorem fire_eq2 {s : State} {b : β} {p : β × State} (e : p = (b, s)) (h : Fire fb p.2) : Fire fb s := by subst e; exact h
theorem fire_eq3 {s : State} {b : β} {c : γ} {p : β × γ × State} (e : p = (b, c, s)) (h : Fire fb p.2.2) : Fire fb s := by subst e; exact h
theorem fire_eq4 {s : State} {b : β} {c : γ} {d : δ} {p : β × γ × δ × State} (e : p = (b, c, d, s)) (h : Fire fb p.2.2.2) : Fire fb s := by
  subst e; exact h
theorem fire_eq6 {s : State} {b : β} {c : γ} {d : δ} {e' : ε} {g : ζ} {p : β × γ × δ × ε × ζ × State} (e : p = (b, c, d, e', g, s))
    (h : Fire fb p.2.2.2.2.2) : Fire fb s := by subst e; exact h
theorem fire_eq1 {s : State} {b : β} {p : State × β} (e : p = (s, b)) (h : Fire fb p.1) : Fire fb s := by subst e; exact h

theorem fire_setReg {s : State} {a : Nat} {w : Word} (h : Fire fb s) : Fire fb (s.setReg a w) := h
theorem fire_wf {s : State} {f : Fld} {v : Nat} (h : Fire fb s) : Fire fb (s.wf f v) := h
theorem fire_wrN {s : State} {k : Nat} {bs : List Byte} (h : Fire fb s) : Fire fb (s.wrN k bs) := h
theorem fire_zeroRange {s : State} {lo hi : Nat} (h : Fire fb s) : Fire fb (s.zeroRange lo hi) := h

end Sys2Proof.Machine
end

