-- ==== Sys2Proof/Laws/Fire.lean ====
section
/-! SUPPORT. No operation that ends a bell, judges it or starts the next one changes the number of the bell, its boundaries and points on its way. -/

namespace Sys2Proof.Machine
open Sys2Proof
set_option Elab.async false
set_option linter.all false

variable {fb : Nat × Nat × Nat × Bool × Bool × Bool × Bool × Bool × Bool × Bool × Bool}

theorem fire_bump {s : State} {f : Fld} {n : Nat} (hs : Fire fb s) : Fire fb (State.bump s f n) := by
  unfold State.bump
  repeat' first
    | with_reducible assumption
    | with_reducible refine fire_wf ?_

theorem fire_tally {s : State} {f : Fld} {n : Nat} (hs : Fire fb s) : Fire fb (State.tally s f n) := by
  unfold State.tally
  repeat' first
    | with_reducible assumption
    | split
    | with_reducible refine fire_of ?_

theorem fire_absorb {s : State} {cls : Nat} {n : Nat} (hs : Fire fb s) : Fire fb (State.absorb s cls n) := by
  unfold State.absorb
  repeat' first
    | with_reducible assumption
    | with_reducible refine fire_tally ?_

theorem fire_rollLive {s : State} (hs : Fire fb s) : Fire fb (State.rollLive s) := by
  unfold State.rollLive
  repeat' first
    | with_reducible assumption
    | (extract_lets +onlyGivenNames -underBinder x; (refine (fun (hx : Fire fb x) => ?_) ?_; generalize x = y at hx ⊢; clear x; rotate_left; unfold x; clear x; rotate_right))
    | with_reducible refine fire_wf ?_
    | with_reducible refine fire_foldl ?_ ?_
    | (intro _; intros)
    | with_reducible refine fire_of ?_

theorem fire_wrLe {s : State} {k : Nat} {n : Nat} {v : Nat} (hs : Fire fb s) : Fire fb (State.wrLe s k n v) := by
  unfold State.wrLe
  repeat' first
    | with_reducible assumption
    | with_reducible refine fire_wrN ?_

theorem fire_sendMsg {s : State} {m : Msg} (hs : Fire fb s) : Fire fb (State.sendMsg s m) := by
  unfold State.sendMsg
  repeat' first
    | with_reducible assumption
    | (extract_lets +onlyGivenNames -underBinder x; (first | (refine (fun (hx : Fire fb x) => ?_) ?_; generalize x = y at hx ⊢; clear x; rotate_left; unfold x; clear x; rotate_right) | (have _h : Option _ := x; clear _h; generalize x = y; clear x) | (revert x; intro _)))
    | with_reducible refine fire_bump ?_
    | split
    | with_reducible refine fire_of ?_

theorem fire_send {s : State} {src : Nat} {k : Kind} {addr : Nat} (hs : Fire fb s) : Fire fb (State.send s src k addr) := by
  unfold State.send
  repeat' first
    | with_reducible assumption
    | with_reducible refine fire_sendMsg ?_

theorem fire_rollBell {s : State} (hs : Fire fb s) : Fire fb (State.rollBell s) := by
  unfold State.rollBell
  repeat' first
    | with_reducible assumption
    | (extract_lets +onlyGivenNames -underBinder x; (first | (refine (fun (hx : Fire fb x) => ?_) ?_; generalize x = y at hx ⊢; clear x; rotate_left; unfold x; clear x; rotate_right) | (have _h : Option _ := x; clear _h; generalize x = y; clear x) | (revert x; intro _)))
    | with_reducible refine fire_send ?_
    | split
    | with_reducible refine fire_of ?_

theorem fire_advance {s : State} {k : Nat} (hs : Fire fb s) : Fire fb (State.advance s k) := by
  unfold State.advance
  repeat' first
    | with_reducible assumption
    | with_reducible refine fire_rollBell ?_
    | split
    | with_reducible refine fire_of ?_

theorem fire_advanceTo {s : State} {t : Nat} (hs : Fire fb s) : Fire fb (State.advanceTo s t) := by
  unfold State.advanceTo
  repeat' first
    | with_reducible assumption
    | with_reducible refine fire_advance ?_

theorem fire_advanceToNs {s : State} {t : Nat} (hs : Fire fb s) : Fire fb (State.advanceToNs s t) := by
  unfold State.advanceToNs
  repeat' first
    | with_reducible assumption
    | with_reducible refine fire_advance ?_

theorem fire_out {s : State} {o : Out} (hs : Fire fb s) : Fire fb (State.out s o) := by
  unfold State.out
  repeat' first
    | with_reducible assumption
    | with_reducible refine fire_of ?_

theorem fire_setSeq {s : State} {n : Nat} {f : Seq → Seq} (hs : Fire fb s) : Fire fb (State.setSeq s n f) := by
  unfold State.setSeq
  repeat' first
    | with_reducible assumption
    | (extract_lets +onlyGivenNames -underBinder x; (first | (have _h : Option _ := x; clear _h; generalize x = y; clear x) | (revert x; intro _)))
    | with_reducible refine fire_of ?_

theorem fire_sendIbi {s : State} (hs : Fire fb s) : Fire fb (State.sendIbi s) := by
  unfold State.sendIbi
  repeat' first
    | with_reducible assumption
    | (extract_lets +onlyGivenNames -underBinder x; (first | (have _h : Option _ := x; clear _h; generalize x = y; clear x) | (revert x; intro _)))
    | with_reducible refine fire_out ?_
    | with_reducible refine fire_wf ?_
    | split
    | with_reducible refine fire_of ?_

theorem fire_raiseIbi {s : State} (hs : Fire fb s) : Fire fb (State.raiseIbi s) := by
  unfold State.raiseIbi
  repeat' first
    | with_reducible assumption
    | (extract_lets +onlyGivenNames -underBinder x; (first | (have _h : Option _ := x; clear _h; generalize x = y; clear x) | (revert x; intro _)))
    | with_reducible refine fire_sendIbi ?_
    | with_reducible refine fire_of ?_

theorem fire_stopAlive {s : State} (hs : Fire fb s) : Fire fb (State.stopAlive s) := by
  unfold State.stopAlive
  repeat' first
    | with_reducible assumption
    | (extract_lets +onlyGivenNames -underBinder x; (first | (have _h : Option _ := x; clear _h; generalize x = y; clear x) | (revert x; intro _)))
    | with_reducible refine fire_wf ?_
    | with_reducible refine fire_of ?_

theorem fire_setPState {s : State} {p : PState} (hs : Fire fb s) : Fire fb (State.setPState s p) := by
  unfold State.setPState
  repeat' first
    | with_reducible assumption
    | (extract_lets +onlyGivenNames -underBinder x; (refine (fun (hx : Fire fb x) => ?_) ?_; generalize x = y at hx ⊢; clear x; rotate_left; unfold x; clear x; rotate_right))
    | with_reducible refine fire_wf ?_
    | split
    | with_reducible refine fire_of ?_

theorem fire_setCause {s : State} {src : Nat} {kind : Nat} (hs : Fire fb s) : Fire fb (State.setCause s src kind) := by
  unfold State.setCause
  repeat' first
    | with_reducible assumption
    | with_reducible refine fire_wf ?_

theorem fire_sendSafeExit {s : State} {reason : Nat} (hs : Fire fb s) : Fire fb (State.sendSafeExit s reason) := by
  unfold State.sendSafeExit
  repeat' first
    | with_reducible assumption
    | with_reducible refine fire_send ?_

theorem fire_endRecovery {s : State} (hs : Fire fb s) : Fire fb (State.endRecovery s) := by
  unfold State.endRecovery
  repeat' first
    | with_reducible assumption
    | (extract_lets +onlyGivenNames -underBinder x; (first | (have _h : Option _ := x; clear _h; generalize x = y; clear x) | (revert x; intro _)))
    | with_reducible refine fire_sendSafeExit ?_
    | split
    | with_reducible refine fire_of ?_

theorem fire_clearEcc {s : State} {k : Nat} {n : Nat} (hs : Fire fb s) : Fire fb (State.clearEcc s k n) := by
  unfold State.clearEcc
  repeat' first
    | with_reducible assumption
    | with_reducible refine fire_of ?_

theorem fire_markEcc {s : State} {k : Nat} {w : Nat} (hs : Fire fb s) : Fire fb (State.markEcc s k w) := by
  unfold State.markEcc
  repeat' first
    | with_reducible assumption
    | with_reducible refine fire_of ?_

theorem fire_ocmLast {s : State} {k : Kind} {addr : Nat} (hs : Fire fb s) : Fire fb (State.ocmLast s k addr) := by
  unfold State.ocmLast
  repeat' first
    | with_reducible assumption
    | with_reducible refine fire_wf ?_

theorem fire_sramCe {s : State} {mem : Nat} {core : Nat} {eng : Nat} {word : Nat} {src : Nat} (hs : Fire fb s) : Fire fb (State.sramCe s mem core eng word src) := by
  unfold State.sramCe
  repeat' first
    | with_reducible assumption
    | (extract_lets +onlyGivenNames -underBinder x; (first | (refine (fun (hx : Fire fb x) => ?_) ?_; generalize x = y at hx ⊢; clear x; rotate_left; unfold x; clear x; rotate_right) | (have _h : Option _ := x; clear _h; generalize x = y; clear x) | (revert x; intro _)))
    | with_reducible refine fire_bump ?_
    | with_reducible refine fire_ocmLast ?_
    | with_reducible refine fire_send ?_

theorem fire_sramUe {s : State} {code : Bool} {mem : Nat} {core : Nat} {eng : Nat} {word : Nat} {src : Nat} (hs : Fire fb s) : Fire fb (State.sramUe s code mem core eng word src) := by
  unfold State.sramUe
  repeat' first
    | with_reducible assumption
    | (extract_lets +onlyGivenNames -underBinder x; (first | (refine (fun (hx : Fire fb x) => ?_) ?_; generalize x = y at hx ⊢; clear x; rotate_left; unfold x; clear x; rotate_right) | (have _h : Option _ := x; clear _h; generalize x = y; clear x) | (revert x; intro _)))
    | with_reducible refine fire_bump ?_
    | with_reducible refine fire_ocmLast ?_
    | with_reducible refine fire_send ?_
    | with_reducible refine fire_wf ?_
    | split

theorem fire_elog {s : State} {k : Kind} {a : Nat} {req : Nat} (hs : Fire fb s) : Fire fb (State.elog s k a req) := by
  unfold State.elog
  repeat' first
    | with_reducible assumption
    | (extract_lets +onlyGivenNames -underBinder x; (first | (refine (fun (hx : Fire fb x) => ?_) ?_; generalize x = y at hx ⊢; clear x; rotate_left; unfold x; clear x; rotate_right) | (have _h : Option _ := x; clear _h; generalize x = y; clear x) | (revert x; intro _)))
    | with_reducible refine fire_wf ?_
    | split

theorem fire_listRow {s : State} {a : Nat} (hs : Fire fb s) : Fire fb (State.listRow s a) := by
  unfold State.listRow
  repeat' first
    | with_reducible assumption
    | (extract_lets +onlyGivenNames -underBinder x; (first | (refine (fun (hx : Fire fb x) => ?_) ?_; generalize x = y at hx ⊢; clear x; rotate_left; unfold x; clear x; rotate_right) | (have _h : Option _ := x; clear _h; generalize x = y; clear x) | (revert x; intro _)))
    | with_reducible refine fire_bump ?_
    | with_reducible refine fire_wrN ?_
    | split
    | with_reducible refine fire_of ?_

theorem fire_hbmUe {s : State} {a : Nat} {req : Nat} (hs : Fire fb s) : Fire fb (State.hbmUe s a req) := by
  unfold State.hbmUe
  repeat' first
    | with_reducible assumption
    | (extract_lets +onlyGivenNames -underBinder x; (refine (fun (hx : Fire fb x) => ?_) ?_; generalize x = y at hx ⊢; clear x; rotate_left; unfold x; clear x; rotate_right))
    | with_reducible refine fire_bump ?_
    | with_reducible refine fire_elog ?_
    | with_reducible refine fire_listRow ?_
    | with_reducible refine fire_send ?_

theorem fire_hbmCe {s : State} {a : Nat} {req : Nat} (hs : Fire fb s) : Fire fb (State.hbmCe s a req) := by
  unfold State.hbmCe
  repeat' first
    | with_reducible assumption
    | with_reducible refine fire_bump ?_
    | with_reducible refine fire_send ?_

theorem fire_judge {s : State} {code : Bool} {req : Nat} {marks : List (Nat × Nat)} (hs : Fire fb s) : Fire fb (State.judge s code req marks).1 := by
  unfold State.judge
  repeat' first
    | with_reducible assumption
    | with_reducible refine fire_hbmCe ?_
    | with_reducible refine fire_hbmUe ?_
    | with_reducible refine fire_send ?_
    | with_reducible refine fire_sramCe ?_
    | with_reducible refine fire_sramUe ?_
    | with_reducible refine fire_foldl1 ?_ ?_
    | (intro _; intros)
    | with_reducible refine fire_eq1 ‹_› ?_
    | split
    | dsimp -zeta only

theorem fire_load {s : State} {code : Bool} {req : Nat} {k : Nat} {n : Nat} (hs : Fire fb s) : Fire fb (State.load s code req k n).2.2 := by
  unfold State.load
  repeat' first
    | with_reducible assumption
    | (extract_lets +onlyGivenNames -underBinder x; (first | (refine (fun (hx : Fire fb x) => ?_) ?_; generalize x = y at hx ⊢; clear x; rotate_left; unfold x; clear x; rotate_right) | (have _h : Option _ := x; clear _h; generalize x = y; clear x) | (revert x; intro _)))
    | split
    | with_reducible refine fire_judge ?_
    | with_reducible refine fire_send ?_
    | with_reducible refine fire_foldl ?_ ?_
    | (intro _; intros)
    | with_reducible refine fire_eq1 ‹_› ?_
    | dsimp -zeta only

theorem fire_store {s : State} {k : Nat} {bs : List Byte} (hs : Fire fb s) : Fire fb (State.store s k bs) := by
  unfold State.store
  repeat' first
    | with_reducible assumption
    | (extract_lets +onlyGivenNames -underBinder x; (first | (refine (fun (hx : Fire fb x) => ?_) ?_; generalize x = y at hx ⊢; clear x; rotate_left; unfold x; clear x; rotate_right) | (have _h : Option _ := x; clear _h; generalize x = y; clear x) | (revert x; intro _)))
    | with_reducible refine fire_clearEcc ?_
    | with_reducible refine fire_markEcc ?_
    | with_reducible refine fire_send ?_
    | with_reducible refine fire_wrN ?_
    | with_reducible refine fire_foldl ?_ ?_
    | (intro _; intros)
    | split
    | with_reducible refine fire_of ?_

theorem fire_addCard {s : State} {typ : Nat} {sub : Nat} {id : Nat} {data : List Byte} (hs : Fire fb s) : Fire fb (State.addCard s typ sub id data) := by
  unfold State.addCard
  repeat' first
    | with_reducible assumption
    | (extract_lets +onlyGivenNames -underBinder x; (first | (have _h : Option _ := x; clear _h; generalize x = y; clear x) | (revert x; intro _)))
    | with_reducible refine fire_of ?_

theorem fire_reside {s : State} {h : Hdr} {d : TileDst} (hs : Fire fb s) : Fire fb (State.reside s h d) := by
  unfold State.reside
  repeat' first
    | with_reducible assumption
    | (extract_lets +onlyGivenNames -underBinder x; (first | (have _h : Option _ := x; clear _h; generalize x = y; clear x) | (revert x; intro _)))
    | split
    | with_reducible refine fire_of ?_

theorem fire_writeTile {s : State} {core : Nat} {src : Nat} {dual : Option Nat} {h : Hdr} {payload : List Byte} {dsts : List TileDst} (hs : Fire fb s) : Fire fb (State.writeTile s core src dual h payload dsts) := by
  unfold State.writeTile
  repeat' first
    | with_reducible assumption
    | (extract_lets +onlyGivenNames -underBinder x; (first | (refine (fun (hx : Fire fb x) => ?_) ?_; generalize x = y at hx ⊢; clear x; rotate_left; unfold x; clear x; rotate_right) | (have _h : Option _ := x; clear _h; generalize x = y; clear x) | (revert x; intro _)))
    | with_reducible refine fire_reside ?_
    | with_reducible refine fire_setSeq ?_
    | with_reducible refine fire_store ?_
    | with_reducible refine fire_foldl ?_ ?_
    | (intro _; intros)
    | split
    | with_reducible refine fire_of ?_

theorem fire_ttFault {s : State} {p : Nat} {k : Kind} {task : Nat} {cyc : Nat} (hs : Fire fb s) : Fire fb (State.ttFault s p k task cyc) := by
  unfold State.ttFault
  repeat' first
    | with_reducible assumption
    | with_reducible refine fire_wf ?_

theorem fire_setC {s : State} {c : Nat} {off : Nat} {n : Nat} {v : Nat} (hs : Fire fb s) : Fire fb (State.setC s c off n v) := by
  unfold State.setC
  repeat' first
    | with_reducible assumption
    | with_reducible refine fire_wrLe ?_

theorem fire_setAtt {s : State} {f : Att → Att} (hs : Fire fb s) : Fire fb (State.setAtt s f) := by
  unfold State.setAtt
  repeat' first
    | with_reducible assumption
    | with_reducible refine fire_of ?_

theorem fire_queueFrames {s : State} {fs : List Nat} (hs : Fire fb s) : Fire fb (State.queueFrames s fs) := by
  unfold State.queueFrames
  repeat' first
    | with_reducible assumption
    | with_reducible refine fire_setAtt ?_

theorem fire_setNodeRefs {s : State} {i : Nat} {n : Nat} (hs : Fire fb s) : Fire fb (State.setNodeRefs s i n) := by
  unfold State.setNodeRefs
  repeat' first
    | with_reducible assumption
    | with_reducible refine fire_wrLe ?_

theorem fire_releasePage {s : State} {k : CtxClass} {c : Nat} {p : Nat} (hs : Fire fb s) : Fire fb (State.releasePage s k c p) := by
  unfold State.releasePage
  repeat' first
    | with_reducible assumption
    | (extract_lets +onlyGivenNames -underBinder x; (first | (refine (fun (hx : Fire fb x) => ?_) ?_; generalize x = y at hx ⊢; clear x; rotate_left; unfold x; clear x; rotate_right) | (have _h : Option _ := x; clear _h; generalize x = y; clear x) | (revert x; intro _)))
    | with_reducible refine fire_queueFrames ?_
    | with_reducible refine fire_setNodeRefs ?_
    | with_reducible refine fire_wrLe ?_
    | with_reducible refine fire_foldl ?_ ?_
    | (intro _; intros)
    | split

theorem fire_releaseCtx {s : State} {k : CtxClass} {c : Nat} (hs : Fire fb s) : Fire fb (State.releaseCtx s k c) := by
  unfold State.releaseCtx
  repeat' first
    | with_reducible assumption
    | (extract_lets +onlyGivenNames -underBinder x; (first | (refine (fun (hx : Fire fb x) => ?_) ?_; generalize x = y at hx ⊢; clear x; rotate_left; unfold x; clear x; rotate_right) | (have _h : Option _ := x; clear _h; generalize x = y; clear x) | (revert x; intro _)))
    | with_reducible refine fire_releasePage ?_
    | with_reducible refine fire_setAtt ?_
    | with_reducible refine fire_setC ?_
    | with_reducible refine fire_foldl ?_ ?_
    | (intro _; intros)

theorem fire_coverageMissed {s : State} {src : Nat} {u : Nat} {p : Nat} {i : Nat} (hs : Fire fb s) : Fire fb (State.coverageMissed s src u p i) := by
  unfold State.coverageMissed
  repeat' first
    | with_reducible assumption
    | with_reducible refine fire_bump ?_
    | with_reducible refine fire_send ?_

theorem fire_setTrack {s : State} {e : List Byte} {k : Int} {low : Nat} (hs : Fire fb s) : Fire fb (State.setTrack s e k low) := by
  unfold State.setTrack
  repeat' first
    | with_reducible assumption
    | with_reducible refine fire_store ?_
    | split

theorem fire_zeroStat {s : State} {e : List Byte} (hs : Fire fb s) : Fire fb (State.zeroStat s e) := by
  unfold State.zeroStat
  repeat' first
    | with_reducible assumption
    | with_reducible refine fire_store ?_

theorem fire_adaptOne {s : State} {i : Nat} {e : List Byte} (hs : Fire fb s) : Fire fb (State.adaptOne s i e) := by
  unfold State.adaptOne
  repeat' first
    | with_reducible assumption
    | (extract_lets +onlyGivenNames -underBinder x; (first | (refine (fun (hx : Fire fb x) => ?_) ?_; generalize x = y at hx ⊢; clear x; rotate_left; unfold x; clear x; rotate_right) | (have _h : Option _ := x; clear _h; generalize x = y; clear x) | (revert x; intro _)))
    | split
    | with_reducible refine fire_addCard ?_
    | with_reducible refine fire_load ?_
    | with_reducible refine fire_send ?_
    | with_reducible refine fire_setTrack ?_
    | with_reducible refine fire_zeroStat ?_
    | with_reducible refine fire_eq3 ‹_› ?_
    | dsimp -zeta only

theorem fire_phase1 {s : State} {allEnded : Bool} (hs : Fire fb s) : Fire fb (State.phase1 s allEnded) := by
  unfold State.phase1
  repeat' first
    | with_reducible assumption
    | (extract_lets +onlyGivenNames -underBinder x; (first | (have _h : Option _ := x; clear _h; generalize x = y; clear x) | (revert x; intro _)))
    | with_reducible refine fire_adaptOne ?_
    | with_reducible refine fire_foldl ?_ ?_
    | (intro _; intros)
    | split
    | with_reducible refine fire_of ?_

theorem fire_zeroSkipped {s : State} (hs : Fire fb s) : Fire fb (State.zeroSkipped s) := by
  unfold State.zeroSkipped
  repeat' first
    | with_reducible assumption
    | (extract_lets +onlyGivenNames -underBinder x; (first | (refine (fun (hx : Fire fb x) => ?_) ?_; generalize x = y at hx ⊢; clear x; rotate_left; unfold x; clear x; rotate_right) | (have _h : Option _ := x; clear _h; generalize x = y; clear x) | (revert x; intro _)))
    | with_reducible refine fire_zeroStat ?_
    | with_reducible refine fire_foldl ?_ ?_
    | (intro _; intros)
    | split
    | with_reducible refine fire_of ?_

theorem fire_patchSite {s : State} {p : Nat} {k : Int} {e : List Byte} (hs : Fire fb s) : Fire fb (State.patchSite s p k e) := by
  unfold State.patchSite
  repeat' first
    | with_reducible assumption
    | (extract_lets +onlyGivenNames -underBinder x; (first | (have _h : Option _ := x; clear _h; generalize x = y; clear x) | (revert x; intro _)))
    | split
    | with_reducible refine fire_load ?_
    | with_reducible refine fire_store ?_
    | with_reducible refine fire_foldl ?_ ?_
    | (intro _; intros)
    | with_reducible refine fire_eq3 ‹_› ?_
    | dsimp -zeta only

theorem fire_patchCore {s : State} {n : Nat} {p : Nat} {plan : Nat} (hs : Fire fb s) : Fire fb (State.patchCore s n p plan) := by
  unfold State.patchCore
  repeat' first
    | with_reducible assumption
    | (extract_lets +onlyGivenNames -underBinder x; (first | (have _h : Option _ := x; clear _h; generalize x = y; clear x) | (revert x; intro _)))
    | with_reducible refine fire_patchSite ?_
    | with_reducible refine fire_foldl ?_ ?_
    | (intro _; intros)
    | split

theorem fire_resetScales {s : State} {plan : Nat} {which : Nat → Bool} (hs : Fire fb s) : Fire fb (State.resetScales s plan which) := by
  unfold State.resetScales
  repeat' first
    | with_reducible assumption
    | with_reducible refine fire_setTrack ?_
    | with_reducible refine fire_foldl ?_ ?_
    | (intro _; intros)
    | split

theorem fire_loadCore {s : State} {n : Nat} {p : Nat} {plan : Nat} (hs : Fire fb s) : Fire fb (State.loadCore s n p plan) := by
  unfold State.loadCore
  repeat' first
    | with_reducible assumption
    | (extract_lets +onlyGivenNames -underBinder x; (first | (refine (fun (hx : Fire fb x) => ?_) ?_; generalize x = y at hx ⊢; clear x; rotate_left; unfold x; clear x; rotate_right) | (have _h : Option _ := x; clear _h; generalize x = y; clear x) | (revert x; intro _)))
    | with_reducible refine fire_patchCore ?_
    | with_reducible refine fire_store ?_
    | with_reducible refine fire_foldl ?_ ?_
    | (intro _; intros)
    | with_reducible refine fire_of ?_

theorem fire_setCam {s : State} {c : Nat} {f : Cam → Cam} (hs : Fire fb s) : Fire fb (State.setCam s c f) := by
  unfold State.setCam
  repeat' first
    | with_reducible assumption
    | with_reducible refine fire_of ?_

theorem fire_psetShow {s : State} {c : Nat} {cur : Nat} (hs : Fire fb s) : Fire fb (State.psetShow s c cur) := by
  unfold State.psetShow
  repeat' first
    | with_reducible assumption
    | with_reducible refine fire_wf ?_

theorem fire_camFirst {s : State} (hs : Fire fb s) : Fire fb (State.camFirst s) := by
  unfold State.camFirst
  repeat' first
    | with_reducible assumption
    | (extract_lets +onlyGivenNames -underBinder x; (refine (fun (hx : Fire fb x) => ?_) ?_; generalize x = y at hx ⊢; clear x; rotate_left; unfold x; clear x; rotate_right))
    | with_reducible refine fire_psetShow ?_
    | with_reducible refine fire_setCam ?_
    | with_reducible refine fire_foldl ?_ ?_
    | (intro _; intros)
    | split

theorem fire_jxSend {s : State} {typ : Nat} {body : List Byte} (hs : Fire fb s) : Fire fb (State.jxSend s typ body) := by
  unfold State.jxSend
  repeat' first
    | with_reducible assumption
    | (extract_lets +onlyGivenNames -underBinder x; (first | (have _h : Option _ := x; clear _h; generalize x = y; clear x) | (revert x; intro _)))
    | with_reducible refine fire_out ?_

theorem fire_sendHeartbeat {s : State} (hs : Fire fb s) : Fire fb (State.sendHeartbeat s) := by
  unfold State.sendHeartbeat
  repeat' first
    | with_reducible assumption
    | (extract_lets +onlyGivenNames -underBinder x; (first | (have _h : Option _ := x; clear _h; generalize x = y; clear x) | (revert x; intro _)))
    | with_reducible refine fire_jxSend ?_
    | split

theorem fire_closeGen {s : State} {next : Nat} (hs : Fire fb s) : Fire fb (State.closeGen s next) := by
  unfold State.closeGen
  repeat' first
    | with_reducible assumption
    | (extract_lets +onlyGivenNames -underBinder x; (first | (refine (fun (hx : Fire fb x) => ?_) ?_; generalize x = y at hx ⊢; clear x; rotate_left; unfold x; clear x; rotate_right) | (have _h : Option _ := x; clear _h; generalize x = y; clear x) | (revert x; intro _)))
    | with_reducible refine fire_absorb ?_
    | with_reducible refine fire_wf ?_
    | with_reducible refine fire_foldl ?_ ?_
    | (intro _; intros)
    | split
    | with_reducible refine fire_of ?_

theorem fire_showSpare {s : State} (hs : Fire fb s) : Fire fb (State.showSpare s) := by
  unfold State.showSpare
  repeat' first
    | with_reducible assumption
    | (extract_lets +onlyGivenNames -underBinder x; (first | (have _h : Option _ := x; clear _h; generalize x = y; clear x) | (revert x; intro _)))
    | with_reducible refine fire_wf ?_

theorem fire_coreRegs {s : State} {plan : Nat} {n : Nat} {p : Nat} (hs : Fire fb s) : Fire fb (State.coreRegs s plan n p) := by
  unfold State.coreRegs
  repeat' first
    | with_reducible assumption
    | (extract_lets +onlyGivenNames -underBinder x; (first | (refine (fun (hx : Fire fb x) => ?_) ?_; generalize x = y at hx ⊢; clear x; rotate_left; unfold x; clear x; rotate_right) | (have _h : Option _ := x; clear _h; generalize x = y; clear x) | (revert x; intro _)))
    | with_reducible refine fire_wf ?_
    | with_reducible refine fire_foldl ?_ ?_
    | (intro _; intros)

theorem fire_planRegs {s : State} {plan : Nat} (hs : Fire fb s) : Fire fb (State.planRegs s plan) := by
  unfold State.planRegs
  repeat' first
    | with_reducible assumption
    | with_reducible refine fire_coreRegs ?_
    | with_reducible refine fire_foldl ?_ ?_
    | (intro _; intros)
    | split

theorem fire_placePlan {s : State} {plan : Nat} (hs : Fire fb s) : Fire fb (State.placePlan s plan) := by
  unfold State.placePlan
  repeat' first
    | with_reducible assumption
    | (extract_lets +onlyGivenNames -underBinder x; (refine (fun (hx : Fire fb x) => ?_) ?_; generalize x = y at hx ⊢; clear x; rotate_left; unfold x; clear x; rotate_right))
    | with_reducible refine fire_loadCore ?_
    | with_reducible refine fire_planRegs ?_
    | with_reducible refine fire_resetScales ?_
    | with_reducible refine fire_foldl ?_ ?_
    | (intro _; intros)
    | split

theorem fire_outPort {s : State} {src : Nat} {cause : Nat} {port : Nat} {dataId : Nat} (hs : Fire fb s) : Fire fb (State.outPort s src cause port dataId) := by
  unfold State.outPort
  repeat' first
    | with_reducible assumption
    | with_reducible refine fire_send ?_

theorem fire_countDrop {s : State} {q : Nat} {n : Nat} (hs : Fire fb s) : Fire fb (State.countDrop s q n) := by
  unfold State.countDrop
  repeat' first
    | with_reducible assumption
    | with_reducible refine fire_bump ?_
    | split

theorem fire_setOutQueue {s : State} {q : Nat} {l : List OutRec} (hs : Fire fb s) : Fire fb (State.setOutQueue s q l) := by
  unfold State.setOutQueue
  repeat' first
    | with_reducible assumption
    | (extract_lets +onlyGivenNames -underBinder x; (first | (have _h : Option _ := x; clear _h; generalize x = y; clear x) | (revert x; intro _)))
    | with_reducible refine fire_of ?_

theorem fire_reuseHalf {s : State} {bell : Nat} (hs : Fire fb s) : Fire fb (State.reuseHalf s bell) := by
  unfold State.reuseHalf
  repeat' first
    | with_reducible assumption
    | (extract_lets +onlyGivenNames -underBinder x; (first | (refine (fun (hx : Fire fb x) => ?_) ?_; generalize x = y at hx ⊢; clear x; rotate_left; unfold x; clear x; rotate_right) | (have _h : Option _ := x; clear _h; generalize x = y; clear x) | (revert x; intro _)))
    | with_reducible refine fire_countDrop ?_
    | with_reducible refine fire_outPort ?_
    | with_reducible refine fire_setOutQueue ?_
    | with_reducible refine fire_foldl ?_ ?_
    | (intro _; intros)
    | split

theorem fire_queueRec {s : State} {q : Nat} {kind : Nat} {r : OutRec} (hs : Fire fb s) : Fire fb (State.queueRec s q kind r) := by
  unfold State.queueRec
  repeat' first
    | with_reducible assumption
    | with_reducible refine fire_countDrop ?_
    | with_reducible refine fire_setOutQueue ?_
    | split

theorem fire_emitRecord {s : State} {o : Nat} {bell : Nat} {bytes : List Byte} (hs : Fire fb s) : Fire fb (State.emitRecord s o bell bytes) := by
  unfold State.emitRecord
  repeat' first
    | with_reducible assumption
    | (extract_lets +onlyGivenNames -underBinder x; (first | (refine (fun (hx : Fire fb x) => ?_) ?_; generalize x = y at hx ⊢; clear x; rotate_left; unfold x; clear x; rotate_right) | (have _h : Option _ := x; clear _h; generalize x = y; clear x) | (revert x; intro _)))
    | with_reducible refine fire_queueRec ?_
    | with_reducible refine fire_reuseHalf ?_
    | with_reducible refine fire_store ?_
    | with_reducible refine fire_foldl ?_ ?_
    | (intro _; intros)
    | split

theorem fire_noteContested {s : State} (hs : Fire fb s) : Fire fb (State.noteContested s) := by
  unfold State.noteContested
  repeat' first
    | with_reducible assumption
    | (extract_lets +onlyGivenNames -underBinder x; (first | (refine (fun (hx : Fire fb x) => ?_) ?_; generalize x = y at hx ⊢; clear x; rotate_left; unfold x; clear x; rotate_right) | (have _h : Option _ := x; clear _h; generalize x = y; clear x) | (revert x; intro _)))
    | with_reducible refine fire_send ?_
    | split
    | with_reducible refine fire_of ?_

theorem fire_noteRelease {s : State} {o : Nat} {bell : Nat} {reason : Nat} {flags : Nat} (hs : Fire fb s) : Fire fb (State.noteRelease s o bell reason flags) := by
  unfold State.noteRelease
  repeat' first
    | with_reducible assumption
    | (extract_lets +onlyGivenNames -underBinder x; (first | (refine (fun (hx : Fire fb x) => ?_) ?_; generalize x = y at hx ⊢; clear x; rotate_left; unfold x; clear x; rotate_right) | (have _h : Option _ := x; clear _h; generalize x = y; clear x) | (revert x; intro _)))
    | with_reducible refine fire_addCard ?_
    | with_reducible refine fire_bump ?_
    | with_reducible refine fire_noteContested ?_
    | with_reducible refine fire_wf ?_
    | split
    | with_reducible refine fire_of ?_

theorem fire_hallRelease {s : State} {o : Nat} {bell : Nat} {h : OutHead} (hs : Fire fb s) : Fire fb (State.hallRelease s o bell h) := by
  unfold State.hallRelease
  repeat' first
    | with_reducible assumption
    | (extract_lets +onlyGivenNames -underBinder x; (first | (refine (fun (hx : Fire fb x) => ?_) ?_; generalize x = y at hx ⊢; clear x; rotate_left; unfold x; clear x; rotate_right) | (have _h : Option _ := x; clear _h; generalize x = y; clear x) | (revert x; intro _)))
    | with_reducible refine fire_absorb ?_
    | with_reducible refine fire_emitRecord ?_
    | with_reducible refine fire_tally ?_
    | with_reducible refine fire_wf ?_
    | split
    | with_reducible refine fire_of ?_

theorem fire_releaseRec {s : State} {o : Nat} {bell : Nat} {reason : Nat} {h : OutHead} {payload : List Byte} (hs : Fire fb s) : Fire fb (State.releaseRec s o bell reason h payload) := by
  unfold State.releaseRec
  repeat' first
    | with_reducible assumption
    | (extract_lets +onlyGivenNames -underBinder x; (refine (fun (hx : Fire fb x) => ?_) ?_; generalize x = y at hx ⊢; clear x; rotate_left; unfold x; clear x; rotate_right))
    | with_reducible refine fire_emitRecord ?_
    | with_reducible refine fire_hallRelease ?_
    | with_reducible refine fire_noteRelease ?_

theorem fire_releaseVoid {s : State} {o : Nat} {bell : Nat} {reason : Nat} (hs : Fire fb s) : Fire fb (State.releaseVoid s o bell reason) := by
  unfold State.releaseVoid
  repeat' first
    | with_reducible assumption
    | (extract_lets +onlyGivenNames -underBinder x; (first | (refine (fun (hx : Fire fb x) => ?_) ?_; generalize x = y at hx ⊢; clear x; rotate_left; unfold x; clear x; rotate_right) | (have _h : Option _ := x; clear _h; generalize x = y; clear x) | (revert x; intro _)))
    | with_reducible refine fire_releaseRec ?_
    | split
    | with_reducible refine fire_of ?_

theorem fire_voidUnreleased {s : State} (hs : Fire fb s) : Fire fb (State.voidUnreleased s) := by
  unfold State.voidUnreleased
  repeat' first
    | with_reducible assumption
    | (extract_lets +onlyGivenNames -underBinder x; (first | (refine (fun (hx : Fire fb x) => ?_) ?_; generalize x = y at hx ⊢; clear x; rotate_left; unfold x; clear x; rotate_right) | (have _h : Option _ := x; clear _h; generalize x = y; clear x) | (revert x; intro _)))
    | with_reducible refine fire_releaseVoid ?_
    | with_reducible refine fire_foldl ?_ ?_
    | (intro _; intros)
    | split
    | with_reducible refine fire_of ?_

theorem fire_switchFill {s : State} {old : Nat} {new : Nat} {bell : Nat} (hs : Fire fb s) : Fire fb (State.switchFill s old new bell) := by
  unfold State.switchFill
  repeat' first
    | with_reducible assumption
    | (extract_lets +onlyGivenNames -underBinder x; (first | (have _h : Option _ := x; clear _h; generalize x = y; clear x) | (revert x; intro _)))
    | with_reducible refine fire_releaseVoid ?_
    | with_reducible refine fire_foldl ?_ ?_
    | (intro _; intros)
    | split

theorem fire_readSet {s : State} {r : List Byte} {k : Nat} (hs : Fire fb s) : Fire fb (State.readSet s r k).2.2 := by
  unfold State.readSet
  repeat' first
    | with_reducible assumption
    | (extract_lets +onlyGivenNames -underBinder x; (first | (have _h : Option _ := x; clear _h; generalize x = y; clear x) | (revert x; intro _)))
    | split
    | with_reducible refine fire_load ?_
    | with_reducible refine fire_foldl3 ?_ ?_
    | (intro _; intros)
    | with_reducible refine fire_eq3 ‹_› ?_
    | dsimp -zeta only

theorem fire_selectCam {s : State} {c : Nat} {r : List Byte} (hs : Fire fb s) : Fire fb (State.selectCam s c r).2.2 := by
  unfold State.selectCam
  repeat' first
    | with_reducible assumption
    | (extract_lets +onlyGivenNames -underBinder x; (first | (refine (fun (hx : Fire fb x) => ?_) ?_; generalize x = y at hx ⊢; clear x; rotate_left; unfold x; clear x; rotate_right) | (have _h : Option _ := x; clear _h; generalize x = y; clear x) | (revert x; intro _)))
    | split
    | with_reducible refine fire_readSet ?_
    | with_reducible refine fire_setCam ?_
    | with_reducible refine fire_eq3 ‹_› ?_
    | dsimp -zeta only

theorem fire_ingestTile {s : State} {stream : Nat} {i : Nat} {a3 : List Hdr} {void : Bool} {pay : List Byte} (hs : Fire fb s) : Fire fb (State.ingestTile s stream i a3 void pay) := by
  unfold State.ingestTile
  repeat' first
    | with_reducible assumption
    | (extract_lets +onlyGivenNames -underBinder x; (first | (have _h : Option _ := x; clear _h; generalize x = y; clear x) | (revert x; intro _)))
    | split
    | with_reducible refine fire_writeTile ?_

theorem fire_levelStreams {s : State} {r : List Byte} {x : CamSel} {data : List (List Byte)} (hs : Fire fb s) : Fire fb (State.levelStreams s r x data) := by
  unfold State.levelStreams
  repeat' first
    | with_reducible assumption
    | (extract_lets +onlyGivenNames -underBinder x; (first | (have _h : Option _ := x; clear _h; generalize x = y; clear x) | (revert x; intro _)))
    | with_reducible refine fire_ingestTile ?_
    | with_reducible refine fire_foldl ?_ ?_
    | (intro _; intros)
    | split

theorem fire_camSlot {s : State} {b : List Byte} {k : Nat} {x : CamSel} {r : List Byte} {data : List (List Byte)} (hs : Fire fb s) : Fire fb (State.camSlot s b k x r data) := by
  unfold State.camSlot
  repeat' first
    | with_reducible assumption
    | (extract_lets +onlyGivenNames -underBinder x; (first | (have _h : Option _ := x; clear _h; generalize x = y; clear x) | (revert x; intro _)))
    | with_reducible refine fire_ingestTile ?_
    | with_reducible refine fire_foldl ?_ ?_
    | (intro _; intros)
    | split

theorem fire_lidSlot {s : State} {b : List Byte} {k : Nat} {x : LidSample} {vs : List Vox} {free : Bool} (hs : Fire fb s) : Fire fb (State.lidSlot s b k x vs free) := by
  unfold State.lidSlot
  repeat' first
    | with_reducible assumption
    | (extract_lets +onlyGivenNames -underBinder x; (first | (have _h : Option _ := x; clear _h; generalize x = y; clear x) | (revert x; intro _)))
    | with_reducible refine fire_ingestTile ?_
    | with_reducible refine fire_foldl ?_ ?_
    | (intro _; intros)

theorem fire_snapshot {s : State} (hs : Fire fb s) : Fire fb (State.snapshot s) := by
  unfold State.snapshot
  repeat' first
    | with_reducible assumption
    | (extract_lets +onlyGivenNames -underBinder x; (first | (refine (fun (hx : Fire fb x) => ?_) ?_; generalize x = y at hx ⊢; clear x; rotate_left; unfold x; clear x; rotate_right) | (have _h : Option _ := x; clear _h; generalize x = y; clear x) | (revert x; intro _)))
    | split
    | with_reducible refine fire_absorb ?_
    | with_reducible refine fire_addCard ?_
    | with_reducible refine fire_camSlot ?_
    | with_reducible refine fire_closeGen ?_
    | with_reducible refine fire_ingestTile ?_
    | with_reducible refine fire_levelStreams ?_
    | with_reducible refine fire_lidSlot ?_
    | with_reducible refine fire_selectCam ?_
    | with_reducible refine fire_send ?_
    | with_reducible refine fire_tally ?_
    | with_reducible refine fire_foldl ?_ ?_
    | with_reducible refine fire_foldl2 ?_ ?_
    | (intro _; intros)
    | with_reducible refine fire_eq2 ‹_› ?_
    | with_reducible refine fire_eq3 ‹_› ?_
    | with_reducible refine fire_of ?_
    | dsimp -zeta only

theorem fire_writeEv {s : State} {v : Evid} {outcome : Nat} (hs : Fire fb s) : Fire fb (State.writeEv s v outcome) := by
  unfold State.writeEv
  repeat' first
    | with_reducible assumption
    | (extract_lets +onlyGivenNames -underBinder x; (first | (refine (fun (hx : Fire fb x) => ?_) ?_; generalize x = y at hx ⊢; clear x; rotate_left; unfold x; clear x; rotate_right) | (have _h : Option _ := x; clear _h; generalize x = y; clear x) | (revert x; intro _)))
    | with_reducible refine fire_wrN ?_
    | split
    | with_reducible refine fire_of ?_

theorem fire_countUnattr {s : State} {p : Nat} (hs : Fire fb s) : Fire fb (State.countUnattr s p) := by
  unfold State.countUnattr
  repeat' first
    | with_reducible assumption
    | (extract_lets +onlyGivenNames -underBinder x; (first | (refine (fun (hx : Fire fb x) => ?_) ?_; generalize x = y at hx ⊢; clear x; rotate_left; unfold x; clear x; rotate_right) | (have _h : Option _ := x; clear _h; generalize x = y; clear x) | (revert x; intro _)))
    | with_reducible refine fire_send ?_
    | with_reducible refine fire_wf ?_
    | split
    | with_reducible refine fire_of ?_

theorem fire_evResolve {s : State} {v : Evid} (hs : Fire fb s) : Fire fb (State.evResolve s v) := by
  unfold State.evResolve
  repeat' first
    | with_reducible assumption
    | (extract_lets +onlyGivenNames -underBinder x; (first | (refine (fun (hx : Fire fb x) => ?_) ?_; generalize x = y at hx ⊢; clear x; rotate_left; unfold x; clear x; rotate_right) | (have _h : Option _ := x; clear _h; generalize x = y; clear x) | (revert x; intro _)))
    | with_reducible refine fire_bump ?_
    | with_reducible refine fire_countUnattr ?_
    | with_reducible refine fire_send ?_
    | with_reducible refine fire_writeEv ?_
    | split
    | with_reducible refine fire_of ?_

theorem fire_sweepEvs {s : State} (hs : Fire fb s) : Fire fb (State.sweepEvs s) := by
  unfold State.sweepEvs
  repeat' first
    | with_reducible assumption
    | (extract_lets +onlyGivenNames -underBinder x; (first | (refine (fun (hx : Fire fb x) => ?_) ?_; generalize x = y at hx ⊢; clear x; rotate_left; unfold x; clear x; rotate_right) | (have _h : Option _ := x; clear _h; generalize x = y; clear x) | (revert x; intro _)))
    | with_reducible refine fire_evResolve ?_
    | with_reducible refine fire_foldl ?_ ?_
    | (intro _; intros)
    | with_reducible refine fire_of ?_

theorem fire_overrun {s : State} {n : Nat} (hs : Fire fb s) : Fire fb (State.overrun s n) := by
  unfold State.overrun
  repeat' first
    | with_reducible assumption
    | (extract_lets +onlyGivenNames -underBinder x; (first | (refine (fun (hx : Fire fb x) => ?_) ?_; generalize x = y at hx ⊢; clear x; rotate_left; unfold x; clear x; rotate_right) | (have _h : Option _ := x; clear _h; generalize x = y; clear x) | (revert x; intro _)))
    | with_reducible refine fire_send ?_
    | with_reducible refine fire_setSeq ?_
    | with_reducible refine fire_ttFault ?_
    | with_reducible refine fire_wf ?_
    | split
    | with_reducible refine fire_of ?_

theorem fire_coverage {s : State} {ran : List Nat} (hs : Fire fb s) : Fire fb (State.coverage s ran) := by
  unfold State.coverage
  repeat' first
    | with_reducible assumption
    | (extract_lets +onlyGivenNames -underBinder x; (first | (refine (fun (hx : Fire fb x) => ?_) ?_; generalize x = y at hx ⊢; clear x; rotate_left; unfold x; clear x; rotate_right) | (have _h : Option _ := x; clear _h; generalize x = y; clear x) | (revert x; intro _)))
    | with_reducible refine fire_coverageMissed ?_
    | with_reducible refine fire_foldl ?_ ?_
    | (intro _; intros)
    | split

theorem fire_contestEnd {s : State} (hs : Fire fb s) : Fire fb (State.contestEnd s) := by
  unfold State.contestEnd
  repeat' first
    | with_reducible assumption
    | (extract_lets +onlyGivenNames -underBinder x; (first | (have _h : Option _ := x; clear _h; generalize x = y; clear x) | (revert x; intro _)))
    | with_reducible refine fire_of ?_

theorem fire_failUnits {s : State} (hs : Fire fb s) : Fire fb (State.failUnits s) := by
  unfold State.failUnits
  repeat' first
    | with_reducible assumption
    | (extract_lets +onlyGivenNames -underBinder x; (first | (refine (fun (hx : Fire fb x) => ?_) ?_; generalize x = y at hx ⊢; clear x; rotate_left; unfold x; clear x; rotate_right) | (have _h : Option _ := x; clear _h; generalize x = y; clear x) | (revert x; intro _)))
    | with_reducible refine fire_wf ?_
    | with_reducible refine fire_foldl ?_ ?_
    | (intro _; intros)
    | split
    | with_reducible refine fire_of ?_

theorem fire_testEdge {s : State} (hs : Fire fb s) : Fire fb (State.testEdge s) := by
  unfold State.testEdge
  repeat' first
    | with_reducible assumption
    | (extract_lets +onlyGivenNames -underBinder x; (first | (refine (fun (hx : Fire fb x) => ?_) ?_; generalize x = y at hx ⊢; clear x; rotate_left; unfold x; clear x; rotate_right) | (have _h : Option _ := x; clear _h; generalize x = y; clear x) | (revert x; intro _)))
    | with_reducible refine fire_failUnits ?_
    | with_reducible refine fire_sweepEvs ?_
    | with_reducible refine fire_wf ?_
    | with_reducible refine fire_foldl ?_ ?_
    | (intro _; intros)
    | with_reducible refine fire_of ?_

theorem fire_degEdge {s : State} (hs : Fire fb s) : Fire fb (State.degEdge s) := by
  unfold State.degEdge
  repeat' first
    | with_reducible assumption
    | (extract_lets +onlyGivenNames -underBinder x; (first | (refine (fun (hx : Fire fb x) => ?_) ?_; generalize x = y at hx ⊢; clear x; rotate_left; unfold x; clear x; rotate_right) | (have _h : Option _ := x; clear _h; generalize x = y; clear x) | (revert x; intro _)))
    | with_reducible refine fire_wf ?_
    | split

theorem fire_endBell {s : State} (hs : Fire fb s) : Fire fb (State.endBell s) := by
  unfold State.endBell
  extract_lets +onlyGivenNames -underBinder ran halt s1
  have h1 : Fire fb s1 := fire_ite hs (fire_foldl (fun _ _ h => fire_overrun h) hs)
  generalize s1 = t1 at h1 ⊢
  extract_lets +onlyGivenNames -underBinder s2 s3 s4
  have h2 : Fire fb s2 := fire_voidUnreleased h1
  have h3 : Fire fb s3 := fire_ite h2 (fire_coverage h2)
  have h4 : Fire fb s4 := fire_degEdge (fire_testEdge (fire_rollLive (fire_zeroSkipped (fire_contestEnd h3))))
  exact h4

theorem fire_gapCheck {s : State} {edge : Nat} (hs : Fire fb s) : Fire fb (State.gapCheck s edge) := by
  unfold State.gapCheck
  repeat' first
    | with_reducible assumption
    | (extract_lets +onlyGivenNames -underBinder x; (first | (have _h : Option _ := x; clear _h; generalize x = y; clear x) | (revert x; intro _)))
    | with_reducible refine fire_send ?_
    | split
    | with_reducible refine fire_of ?_

theorem fire_setBv {s : State} {n : Nat} {edge : Nat} (hs : Fire fb s) : Fire fb (State.setBv s n edge) := by
  unfold State.setBv
  repeat' first
    | with_reducible assumption
    | (extract_lets +onlyGivenNames -underBinder x; (first | (have _h : Option _ := x; clear _h; generalize x = y; clear x) | (revert x; intro _)))
    | with_reducible refine fire_of ?_

theorem fire_remapEdge {s : State} (hs : Fire fb s) : Fire fb (State.remapEdge s) := by
  unfold State.remapEdge
  repeat' first
    | with_reducible assumption
    | (extract_lets +onlyGivenNames -underBinder x; (first | (refine (fun (hx : Fire fb x) => ?_) ?_; generalize x = y at hx ⊢; clear x; rotate_left; unfold x; clear x; rotate_right) | (have _h : Option _ := x; clear _h; generalize x = y; clear x) | (revert x; intro _)))
    | with_reducible refine fire_addCard ?_
    | with_reducible refine fire_coreRegs ?_
    | with_reducible refine fire_showSpare ?_
    | with_reducible refine fire_wf ?_
    | with_reducible refine fire_foldl ?_ ?_
    | (intro _; intros)
    | with_reducible refine fire_of ?_

theorem fire_emptyClasses {s : State} {which : CtxClass → Bool} (hs : Fire fb s) : Fire fb (State.emptyClasses s which) := by
  unfold State.emptyClasses
  repeat' first
    | with_reducible assumption
    | with_reducible refine fire_releaseCtx ?_
    | with_reducible refine fire_setC ?_
    | with_reducible refine fire_foldl ?_ ?_
    | (intro _; intros)

theorem fire_emptyMoved {s : State} {old : Nat} {new : Nat} (hs : Fire fb s) : Fire fb (State.emptyMoved s old new) := by
  unfold State.emptyMoved
  repeat' first
    | with_reducible assumption
    | with_reducible refine fire_emptyClasses ?_

theorem fire_planEdge {s : State} {n : Nat} (hs : Fire fb s) : Fire fb (State.planEdge s n) := by
  unfold State.planEdge
  repeat' first
    | with_reducible assumption
    | (extract_lets +onlyGivenNames -underBinder x; (first | (refine (fun (hx : Fire fb x) => ?_) ?_; generalize x = y at hx ⊢; clear x; rotate_left; unfold x; clear x; rotate_right) | (have _h : Option _ := x; clear _h; generalize x = y; clear x) | (revert x; intro _)))
    | with_reducible refine fire_addCard ?_
    | with_reducible refine fire_emptyMoved ?_
    | with_reducible refine fire_planRegs ?_
    | with_reducible refine fire_switchFill ?_
    | with_reducible refine fire_wf ?_
    | split
    | with_reducible refine fire_of ?_

theorem fire_joinEdge {s : State} {n : Nat} {edge : Nat} (hs : Fire fb s) : Fire fb (State.joinEdge s n edge) := by
  unfold State.joinEdge
  repeat' first
    | with_reducible assumption
    | (extract_lets +onlyGivenNames -underBinder x; (first | (refine (fun (hx : Fire fb x) => ?_) ?_; generalize x = y at hx ⊢; clear x; rotate_left; unfold x; clear x; rotate_right) | (have _h : Option _ := x; clear _h; generalize x = y; clear x) | (revert x; intro _)))
    | with_reducible refine fire_raiseIbi ?_
    | with_reducible refine fire_setBv ?_
    | with_reducible refine fire_setPState ?_
    | split
    | with_reducible refine fire_of ?_

theorem fire_recoverEdge {s : State} {n : Nat} {edge : Nat} (hs : Fire fb s) : Fire fb (State.recoverEdge s n edge) := by
  unfold State.recoverEdge
  repeat' first
    | with_reducible assumption
    | (extract_lets +onlyGivenNames -underBinder x; (first | (refine (fun (hx : Fire fb x) => ?_) ?_; generalize x = y at hx ⊢; clear x; rotate_left; unfold x; clear x; rotate_right) | (have _h : Option _ := x; clear _h; generalize x = y; clear x) | (revert x; intro _)))
    | with_reducible refine fire_setBv ?_
    | split
    | with_reducible refine fire_of ?_

theorem fire_startSeqs {s : State} {n : Nat} (hs : Fire fb s) : Fire fb (State.startSeqs s n) := by
  unfold State.startSeqs
  repeat' first
    | with_reducible assumption
    | (extract_lets +onlyGivenNames -underBinder x; (first | (refine (fun (hx : Fire fb x) => ?_) ?_; generalize x = y at hx ⊢; clear x; rotate_left; unfold x; clear x; rotate_right) | (have _h : Option _ := x; clear _h; generalize x = y; clear x) | (revert x; intro _)))
    | with_reducible refine fire_setSeq ?_
    | with_reducible refine fire_wf ?_
    | with_reducible refine fire_foldl ?_ ?_
    | (intro _; intros)
    | split

theorem fire_digestEdge {s : State} (hs : Fire fb s) : Fire fb (State.digestEdge s) := by
  unfold State.digestEdge
  repeat' first
    | with_reducible assumption
    | (extract_lets +onlyGivenNames -underBinder x; (first | (refine (fun (hx : Fire fb x) => ?_) ?_; generalize x = y at hx ⊢; clear x; rotate_left; unfold x; clear x; rotate_right) | (have _h : Option _ := x; clear _h; generalize x = y; clear x) | (revert x; intro _)))
    | with_reducible refine fire_wf ?_
    | split
    | with_reducible refine fire_of ?_

theorem fire_firstPlan {s : State} (hs : Fire fb s) : Fire fb (State.firstPlan s) := by
  unfold State.firstPlan
  repeat' first
    | with_reducible assumption
    | with_reducible refine fire_placePlan ?_
    | split

theorem fire_noHistory {s : State} {n : Nat} (hs : Fire fb s) : Fire fb (State.noHistory s n) := hs

theorem fire_firstRegs {s : State} {n : Nat} (hs : Fire fb s) : Fire fb (State.firstRegs s n) := by
  unfold State.firstRegs
  extract_lets +onlyGivenNames -underBinder s0
  have h0 : Fire fb s0 := fire_ite (fire_wf hs) hs
  generalize s0 = t0 at h0 ⊢
  extract_lets +onlyGivenNames -underBinder s1 s2
  have h2 : Fire fb s2 := fire_ite (fire_wf (fire_wf (fire_wf (fire_wf h0)))) (fire_wf (fire_wf h0))
  generalize s2 = t2 at h2 ⊢
  split
  · exact fire_addCard (s := _) h2
  · exact h2

theorem fire_firstState {s : State} (hs : Fire fb s) : Fire fb (State.firstState s) := by
  unfold State.firstState
  repeat' first
    | with_reducible assumption
    | (extract_lets +onlyGivenNames -underBinder x; (first | (refine (fun (hx : Fire fb x) => ?_) ?_; generalize x = y at hx ⊢; clear x; rotate_left; unfold x; clear x; rotate_right) | (have _h : Option _ := x; clear _h; generalize x = y; clear x) | (revert x; intro _)))
    | with_reducible refine fire_raiseIbi ?_
    | with_reducible refine fire_setCause ?_
    | with_reducible refine fire_setPState ?_
    | with_reducible refine fire_wf ?_
    | split
    | with_reducible refine fire_of ?_

theorem fire_lateFrames {s : State} (hs : Fire fb s) : Fire fb (State.lateFrames s) := by
  unfold State.lateFrames
  repeat' first
    | with_reducible assumption
    | with_reducible refine fire_addCard ?_
    | with_reducible refine fire_bump ?_
    | with_reducible refine fire_foldl ?_ ?_
    | (intro _; intros)
    | split

theorem fire_freshTt {s : State} (hs : Fire fb s) : Fire fb (State.freshTt s) := by
  unfold State.freshTt
  repeat' first
    | with_reducible assumption
    | (extract_lets +onlyGivenNames -underBinder x; (first | (have _h : Option _ := x; clear _h; generalize x = y; clear x) | (revert x; intro _)))
    | with_reducible refine fire_of ?_

theorem fire_takeSnapshot {s : State} (hs : Fire fb s) : Fire fb (State.takeSnapshot s) := by
  unfold State.takeSnapshot
  repeat' first
    | with_reducible assumption
    | with_reducible refine fire_lateFrames ?_
    | with_reducible refine fire_snapshot ?_
    | split

theorem fire_recoveryGate {s : State} {pass : Bool} (hs : Fire fb s) : Fire fb (State.recoveryGate s pass) := by
  unfold State.recoveryGate
  repeat' first
    | with_reducible assumption
    | (extract_lets +onlyGivenNames -underBinder x; (first | (refine (fun (hx : Fire fb x) => ?_) ?_; generalize x = y at hx ⊢; clear x; rotate_left; unfold x; clear x; rotate_right) | (have _h : Option _ := x; clear _h; generalize x = y; clear x) | (revert x; intro _)))
    | with_reducible refine fire_endRecovery ?_
    | with_reducible refine fire_raiseIbi ?_
    | with_reducible refine fire_setPState ?_
    | split
    | with_reducible refine fire_of ?_

theorem fire_aliveGate {s : State} {pass : Bool} {cause : Nat} (hs : Fire fb s) : Fire fb (State.aliveGate s pass cause) := by
  unfold State.aliveGate
  repeat' first
    | with_reducible assumption
    | (extract_lets +onlyGivenNames -underBinder x; (first | (refine (fun (hx : Fire fb x) => ?_) ?_; generalize x = y at hx ⊢; clear x; rotate_left; unfold x; clear x; rotate_right) | (have _h : Option _ := x; clear _h; generalize x = y; clear x) | (revert x; intro _)))
    | with_reducible refine fire_send ?_
    | with_reducible refine fire_stopAlive ?_
    | split
    | with_reducible refine fire_of ?_

end Sys2Proof.Machine
end

