-- ==== Sys2Proof/Laws/Keep.lean ====
section
/-! SUPPORT. Soundness and the queue as one predicate that every operation keeps, and its rules for updates, folds and outcomes. -/

namespace Sys2Proof.Machine
open Sys2Proof
set_option Elab.async false
set_option linter.all false

/-- Sound, with this queue of waiting commands. -/
def Keep (q : List Instr) (s : State) : Prop := s.pending = q ∧ s.Sound

/-- A next state, if the outcome is one, keeps the predicate. -/
structure KeepO (q : List Instr) (o : Host.Outcome State Fault Refusal) : Prop where
  next : ∀ t, o = .next t → Keep q t

variable {q : List Instr} {α β γ δ ε ζ : Type}

theorem keepO_next {s : State} (h : Keep q s) : KeepO q (.next s) := ⟨fun t e => by cases e; exact h⟩

theorem keepO_refused {r : Refusal} : KeepO q (.refused r) := ⟨fun t e => by cases e⟩

theorem keepO_fault {r : Fault} : KeepO q (.fault r) := ⟨fun t e => by cases e⟩

/-- An update that leaves the queue, registers, memory and check bits, and the lengths and the time within bounds, keeps the predicate. -/
theorem keep_of {s : State} {a1 : Nat} {a2 : PState} {a3 : List ImgRec} {a4 : List (Nat × Nat)} {a5 : Tsu} {a6 : Bell} {a7 : Collector}
    {a8 : Alive} {a9 : Safety} {a10 : Tt} {a11 : Jx} {a12 : List Hart} {a13 : Inject} {a14 : Card} {a15 : MemCtl} {a16 : List (Nat × Eng)}
    {a17 : List Resid} {a18 : List (Fld × Nat)} {a19 : List Fld} {a20 : Att} {a21 : List Cam} {a22 : List (Option PipeJob)} {a23 : Sieve}
    {a24 : Pw} {a25 : Tst} {a26 : Emit} {a27 : Sec} {a28 : Option Stage} {a29 : Option Replay} {a30 : I3c} {a31 : List Out} {a32 : Nat}
    (h : Keep q s) (h1 : a10.seqs.length = s.tt.seqs.length := by first | with_reducible rfl | (simp; done) | rfl) (h2 : a11.peers.length = s.jx.peers.length := by first | with_reducible rfl | (simp; done) | rfl) (h3 : a12.length = s.harts.length := by first | with_reducible rfl | (simp; done) | rfl)
    (h4 : a21.length = s.cams.length := by first | with_reducible rfl | (simp; done) | rfl) (h5 : a22.length = s.pipes.length := by first | with_reducible rfl | (simp; done) | rfl) (h6 : a23.gens.length = s.sieve.gens.length := by first | with_reducible rfl | (simp; done) | rfl)
    (h7 : a26.queues.length = s.emit.queues.length := by first | with_reducible rfl | (simp; done) | rfl) (h8 : a27.keys.length = s.sec.keys.length := by first | with_reducible rfl | (simp; done) | rfl)
    (h9 : a5.sec = s.tsu.sec := by first | with_reducible rfl | (simp; done) | rfl) (h10 : a5.ns = s.tsu.ns := by first | with_reducible rfl | (simp; done) | rfl) (h11 : a5.frac = s.tsu.frac := by first | with_reducible rfl | (simp; done) | rfl) :
    Keep q { s with now := a1, pstate := a2, image := a3, latches := a4, tsu := a5, bell := a6, coll := a7, alive := a8, safety := a9,
                    tt := a10, jx := a11, harts := a12, inj := a13, card := a14, memc := a15, engs := a16, resid := a17, live := a18,
                    shown := a19, att := a20, cams := a21, pipes := a22, sieve := a23, pw := a24, tst := a25, emit := a26, sec := a27,
                    stage := a28, replay := a29, i3c := a30, sent := a31, freeCount := a32 } := by
  obtain ⟨hq, h⟩ := h
  exact ⟨hq, h.regs, h.mem, h.ecc, h1 ▸ h.seqs, h2 ▸ h.peers, h3 ▸ h.harts, h4 ▸ h.cams, h5 ▸ h.pipes, h6 ▸ h.gens, h7 ▸ h.queues,
    h8 ▸ h.keys, h9 ▸ h.sec, h10 ▸ h.ns, h11 ▸ h.frac⟩

theorem keep_regs {s : State} {r : List (Nat × Word)} (h : Keep q s) (hr : smWf regReset r) : Keep q { s with regs := r } :=
  ⟨h.1, { h.2 with regs := hr }⟩

theorem keep_mem {s : State} {m : List Host.Cell} (h : Keep q s) (hm : smWf memDefault m) : Keep q { s with mem := m } :=
  ⟨h.1, { h.2 with mem := (smWfB_iff m).2 hm }⟩

theorem keep_ecc {s : State} {m : List (Nat × Nat)} (h : Keep q s) (hm : smWf (fun _ => 0) m) : Keep q { s with ecc := m } :=
  ⟨h.1, { h.2 with ecc := hm }⟩

theorem keep_tsu {s : State} {t : Tsu} (h : Keep q s) (h1 : t.sec < 2 ^ 48) (h2 : t.ns < 1000000000) (h3 : t.frac < 4294967296) :
    Keep q { s with tsu := t } :=
  ⟨h.1, { h.2 with sec := h1, ns := h2, frac := h3 }⟩

theorem keep_wfMem {s : State} (h : Keep q s) : smWf memDefault s.mem := (smWfB_iff _).1 h.2.mem

theorem keep_foldl {f : State → α → State} {l : List α} {s : State} (hf : ∀ s a, Keep q s → Keep q (f s a)) (h : Keep q s) :
    Keep q (l.foldl f s) := by
  induction l generalizing s with
  | nil => exact h
  | cons a l ih => exact ih (hf s a h)

theorem keep_foldl2 {f : β × State → α → β × State} {l : List α} {p : β × State}
    (hf : ∀ b s a, Keep q s → Keep q (f (b, s) a).2) (h : Keep q p.2) : Keep q (l.foldl f p).2 := by
  induction l generalizing p with
  | nil => exact h
  | cons a l ih => exact ih (hf p.1 p.2 a h)

theorem keep_foldl3 {f : β × γ × State → α → β × γ × State} {l : List α} {p : β × γ × State}
    (hf : ∀ b c s a, Keep q s → Keep q (f (b, c, s) a).2.2) (h : Keep q p.2.2) : Keep q (l.foldl f p).2.2 := by
  induction l generalizing p with
  | nil => exact h
  | cons a l ih => exact ih (hf p.1 p.2.1 p.2.2 a h)

theorem keep_foldl4 {f : β × γ × δ × State → α → β × γ × δ × State} {l : List α} {p : β × γ × δ × State}
    (hf : ∀ b c d s a, Keep q s → Keep q (f (b, c, d, s) a).2.2.2) (h : Keep q p.2.2.2) : Keep q (l.foldl f p).2.2.2 := by
  induction l generalizing p with
  | nil => exact h
  | cons a l ih => exact ih (hf p.1 p.2.1 p.2.2.1 p.2.2.2 a h)

theorem keep_foldl6 {f : β × γ × δ × ε × ζ × State → α → β × γ × δ × ε × ζ × State} {l : List α} {p : β × γ × δ × ε × ζ × State}
    (hf : ∀ b c d e g s a, Keep q s → Keep q (f (b, c, d, e, g, s) a).2.2.2.2.2) (h : Keep q p.2.2.2.2.2) :
    Keep q (l.foldl f p).2.2.2.2.2 := by
  induction l generalizing p with
  | nil => exact h
  | cons a l ih => exact ih (hf p.1 p.2.1 p.2.2.1 p.2.2.2.1 p.2.2.2.2.1 p.2.2.2.2.2 a h)

theorem keep_foldl1 {f : State × β → α → State × β} {l : List α} {p : State × β}
    (hf : ∀ s b a, Keep q s → Keep q (f (s, b) a).1) (h : Keep q p.1) : Keep q (l.foldl f p).1 := by
  induction l generalizing p with
  | nil => exact h
  | cons a l ih => exact ih (hf p.1 p.2 a h)

theorem keep_ite {c : Prop} [Decidable c] {a b : State} (ha : Keep q a) (hb : Keep q b) : Keep q (if c then a else b) := by
  by_cases h : c
  · rw [if_pos h]; exact ha
  · rw [if_neg h]; exact hb

theorem keepO_ite {c : Prop} [Decidable c] {a b : Host.Outcome State Fault Refusal} (ha : KeepO q a) (hb : KeepO q b) :
    KeepO q (if c then a else b) := by
  by_cases h : c
  · rw [if_pos h]; exact ha
  · rw [if_neg h]; exact hb

/-! ### Results of a match on what an operation answers -/

theorem keep_eq2 {s : State} {b : β} {p : β × State} (e : p = (b, s)) (h : Keep q p.2) : Keep q s := by subst e; exact h
theorem keep_eq3 {s : State} {b : β} {c : γ} {p : β × γ × State} (e : p = (b, c, s)) (h : Keep q p.2.2) : Keep q s := by subst e; exact h
theorem keep_eq4 {s : State} {b : β} {c : γ} {d : δ} {p : β × γ × δ × State} (e : p = (b, c, d, s)) (h : Keep q p.2.2.2) : Keep q s := by
  subst e; exact h
theorem keep_eq6 {s : State} {b : β} {c : γ} {d : δ} {e' : ε} {g : ζ} {p : β × γ × δ × ε × ζ × State} (e : p = (b, c, d, e', g, s))
    (h : Keep q p.2.2.2.2.2) : Keep q s := by subst e; exact h
theorem keep_eq1 {s : State} {b : β} {p : State × β} (e : p = (s, b)) (h : Keep q p.1) : Keep q s := by subst e; exact h

/-! ### The operations that write registers, memory, check bits and time -/

theorem keep_setReg {s : State} {a : Nat} {w : Word} (h : Keep q s) : Keep q (s.setReg a w) := keep_regs h (smWf_set h.2.regs a w)
theorem keep_wf {s : State} {f : Fld} {v : Nat} (h : Keep q s) : Keep q (s.wf f v) := keep_setReg h
theorem keep_wrN {s : State} {k : Nat} {bs : List Byte} (h : Keep q s) : Keep q (s.wrN k bs) :=
  keep_mem h (smWf_setList (keep_wfMem h) k bs)
theorem keep_zeroRange {s : State} {lo hi : Nat} (h : Keep q s) : Keep q (s.zeroRange lo hi) :=
  keep_mem h (smWf_filter (keep_wfMem h) _)

theorem Tsu.ofUnits_ok (t : Tsu) (u : Nat) : (t.ofUnits u).sec < 2 ^ 48 ∧ (t.ofUnits u).ns < 1000000000 ∧ (t.ofUnits u).frac < 4294967296 := by
  unfold Tsu.ofUnits
  exact ⟨Nat.mod_lt _ (by decide), Nat.mod_lt _ (by decide), Nat.mod_lt _ (by decide)⟩

theorem keep_eccFilter {s : State} {p : Nat × Nat → Bool} {a1 : Att} {a2 : MemCtl} {a3 : List Resid} (h : Keep q s) :
    Keep q { s with ecc := s.ecc.filter p, att := a1, memc := a2, resid := a3 } :=
  keep_of (keep_ecc h (smWf_filter h.2.ecc _))

theorem keep_harts3 {s : State} {p : Pw} (h : Keep q s) : Keep q { s with harts := List.replicate 3 Hart.reset, pw := p } :=
  keep_of h (h3 := h.2.harts.symm)

theorem keep_units {s : State} {u : Nat} (h : Keep q s) : Keep q { s with tsu := s.tsu.ofUnits u } :=
  have k := Tsu.ofUnits_ok s.tsu u
  keep_tsu h k.1 k.2.1 k.2.2

theorem keep_cells {s : State} {l : List α} {f : α → Nat} {g : α → Byte} (h : Keep q s) :
    Keep q { s with mem := l.foldl (fun m p => smSet memDefault m (f p) (g p)) s.mem } := by
  refine keep_mem h ?_
  suffices ∀ m, smWf memDefault m → smWf memDefault (l.foldl (fun m p => smSet memDefault m (f p) (g p)) m) from this _ (keep_wfMem h)
  induction l with
  | nil => exact fun m hm => hm
  | cons a l ih => exact fun m hm => ih _ (smWf_set hm _ _)

end Sys2Proof.Machine
end

