-- ==== Sys2Proof/Laws/KeepOps.lean ====
section
/-! SUPPORT. Every operation and meaning of Machine/Ops.lean keeps a sound state sound and the queue as it is. -/

namespace Sys2Proof.Machine
open Sys2Proof
set_option Elab.async false
set_option linter.all false

variable {pq : List Instr}

theorem keep_bump {s : State} {f : Fld} {n : Nat} (hs : Keep pq s) : Keep pq (State.bump s f n) := by
  unfold State.bump
  repeat' first
    | with_reducible assumption
    | with_reducible refine keep_wf ?_

theorem keep_tally {s : State} {f : Fld} {n : Nat} (hs : Keep pq s) : Keep pq (State.tally s f n) := by
  unfold State.tally
  repeat' first
    | with_reducible assumption
    | split
    | with_reducible refine keep_of ?_

theorem keep_absorb {s : State} {cls : Nat} {n : Nat} (hs : Keep pq s) : Keep pq (State.absorb s cls n) := by
  unfold State.absorb
  repeat' first
    | with_reducible assumption
    | with_reducible refine keep_tally ?_

theorem keep_rollLive {s : State} (hs : Keep pq s) : Keep pq (State.rollLive s) := by
  unfold State.rollLive
  repeat' first
    | with_reducible assumption
    | (extract_lets +onlyGivenNames -underBinder x; (refine (fun (hx : Keep pq x) => ?_) ?_; generalize x = y at hx ⊢; clear x; rotate_left; unfold x; clear x; rotate_right))
    | with_reducible refine keep_wf ?_
    | with_reducible refine keep_foldl ?_ ?_
    | (intro _; intros)
    | with_reducible refine keep_of ?_

theorem keep_wrLe {s : State} {k : Nat} {n : Nat} {v : Nat} (hs : Keep pq s) : Keep pq (State.wrLe s k n v) := by
  unfold State.wrLe
  repeat' first
    | with_reducible assumption
    | with_reducible refine keep_wrN ?_

theorem keep_freeNat {s : State} {w : Nat} (hs : Keep pq s) : Keep pq (State.freeNat s w).2 := by
  unfold State.freeNat
  repeat' first
    | with_reducible assumption
    | with_reducible refine keep_of ?_

theorem keep_sendMsg {s : State} {m : Msg} (hs : Keep pq s) : Keep pq (State.sendMsg s m) := by
  unfold State.sendMsg
  repeat' first
    | with_reducible assumption
    | (extract_lets +onlyGivenNames -underBinder x; (first | (refine (fun (hx : Keep pq x) => ?_) ?_; generalize x = y at hx ⊢; clear x; rotate_left; unfold x; clear x; rotate_right) | (have _h : Option _ := x; clear _h; generalize x = y; clear x) | (revert x; intro _)))
    | with_reducible refine keep_bump ?_
    | split
    | with_reducible refine keep_of ?_

theorem keep_send {s : State} {src : Nat} {k : Kind} {addr : Nat} (hs : Keep pq s) : Keep pq (State.send s src k addr) := by
  unfold State.send
  repeat' first
    | with_reducible assumption
    | with_reducible refine keep_sendMsg ?_

theorem keep_deny {s : State} {r : Requester} {addr : Nat} (hs : Keep pq s) : Keep pq (State.deny s r addr) := by
  unfold State.deny
  repeat' first
    | with_reducible assumption
    | with_reducible refine keep_send ?_

theorem keep_rollBell {s : State} (hs : Keep pq s) : Keep pq (State.rollBell s) := by
  unfold State.rollBell
  repeat' first
    | with_reducible assumption
    | (extract_lets +onlyGivenNames -underBinder x; (first | (refine (fun (hx : Keep pq x) => ?_) ?_; generalize x = y at hx ⊢; clear x; rotate_left; unfold x; clear x; rotate_right) | (have _h : Option _ := x; clear _h; generalize x = y; clear x) | (revert x; intro _)))
    | with_reducible refine keep_send ?_
    | split
    | with_reducible refine keep_of ?_

theorem keep_advance {s : State} {k : Nat} (hs : Keep pq s) : Keep pq (s.advance k) := by
  unfold State.advance
  split
  · exact hs
  · refine keep_rollBell ?_
    have h1 : Keep pq { s with now := s.now + k } := keep_of hs
    refine keep_tsu h1 ?_ ?_ ?_ <;> unfold Tsu.advance <;> split <;>
      first | exact hs.2.sec | exact hs.2.ns | exact hs.2.frac | exact (Tsu.ofUnits_ok _ _).1 | exact (Tsu.ofUnits_ok _ _).2.1 |
        exact (Tsu.ofUnits_ok _ _).2.2

theorem keep_advanceTo {s : State} {t : Nat} (hs : Keep pq s) : Keep pq (State.advanceTo s t) := by
  unfold State.advanceTo
  repeat' first
    | with_reducible assumption
    | with_reducible refine keep_advance ?_

theorem keep_advanceToNs {s : State} {t : Nat} (hs : Keep pq s) : Keep pq (State.advanceToNs s t) := by
  unfold State.advanceToNs
  repeat' first
    | with_reducible assumption
    | with_reducible refine keep_advance ?_

theorem Tsu.tick_ok {t : Tsu} {rate : Int} (hr : rate ≤ 2 ^ 31) (h1 : t.sec < 2 ^ 48) (h2 : t.ns < 1000000000) (h3 : t.frac < 4294967296) :
    (t.tick rate).sec < 2 ^ 48 ∧ (t.tick rate).ns < 1000000000 ∧ (t.tick rate).frac < 4294967296 := by
  have hi : tsuInc rate ≤ 3 * 4294967296 := by unfold tsuInc; omega
  simp only [Tsu.tick]
  split
  · exact ⟨Nat.mod_lt _ (by decide), by dsimp only; omega, Nat.mod_lt _ (by decide)⟩
  · exact ⟨h1, by dsimp only; omega, Nat.mod_lt _ (by decide)⟩

theorem rate_le (s : State) : s.rate ≤ 2 ^ 31 := by
  simp only [State.rate, toSigned]
  have : s.rf F.TSU_RATE_RATE < 2 ^ 32 := by
    unfold State.rf bits
    exact Nat.mod_lt _ (by decide)
  split <;> omega

theorem keep_idleTick {s : State} (hs : Keep pq s) : Keep pq (idleTick s) := by
  unfold idleTick
  split
  · exact hs
  · refine keep_rollBell ?_
    have h1 : Keep pq { s with now := s.now + 1 } := keep_of hs
    have h2 := Tsu.tick_ok (rate_le s) hs.2.sec hs.2.ns hs.2.frac
    exact keep_tsu h1 h2.1 h2.2.1 h2.2.2

theorem keep_out {s : State} {o : Out} (hs : Keep pq s) : Keep pq (State.out s o) := by
  unfold State.out
  repeat' first
    | with_reducible assumption
    | with_reducible refine keep_of ?_

theorem keep_setSeq {s : State} {n : Nat} {f : Seq → Seq} (hs : Keep pq s) : Keep pq (State.setSeq s n f) := by
  unfold State.setSeq
  repeat' first
    | with_reducible assumption
    | (extract_lets +onlyGivenNames -underBinder x; (first | (have _h : Option _ := x; clear _h; generalize x = y; clear x) | (revert x; intro _)))
    | with_reducible refine keep_of ?_

theorem keep_sendIbi {s : State} (hs : Keep pq s) : Keep pq (State.sendIbi s) := by
  unfold State.sendIbi
  repeat' first
    | with_reducible assumption
    | (extract_lets +onlyGivenNames -underBinder x; (first | (have _h : Option _ := x; clear _h; generalize x = y; clear x) | (revert x; intro _)))
    | with_reducible refine keep_out ?_
    | with_reducible refine keep_wf ?_
    | split
    | with_reducible refine keep_of ?_

theorem keep_raiseIbi {s : State} (hs : Keep pq s) : Keep pq (State.raiseIbi s) := by
  unfold State.raiseIbi
  repeat' first
    | with_reducible assumption
    | (extract_lets +onlyGivenNames -underBinder x; (first | (have _h : Option _ := x; clear _h; generalize x = y; clear x) | (revert x; intro _)))
    | with_reducible refine keep_sendIbi ?_
    | with_reducible refine keep_of ?_

theorem keep_stopAlive {s : State} (hs : Keep pq s) : Keep pq (State.stopAlive s) := by
  unfold State.stopAlive
  repeat' first
    | with_reducible assumption
    | (extract_lets +onlyGivenNames -underBinder x; (first | (have _h : Option _ := x; clear _h; generalize x = y; clear x) | (revert x; intro _)))
    | with_reducible refine keep_wf ?_
    | with_reducible refine keep_of ?_

theorem keep_setPState {s : State} {p : PState} (hs : Keep pq s) : Keep pq (State.setPState s p) := by
  unfold State.setPState
  repeat' first
    | with_reducible assumption
    | (extract_lets +onlyGivenNames -underBinder x; (refine (fun (hx : Keep pq x) => ?_) ?_; generalize x = y at hx ⊢; clear x; rotate_left; unfold x; clear x; rotate_right))
    | with_reducible refine keep_wf ?_
    | split
    | with_reducible refine keep_of ?_

theorem keep_setCause {s : State} {src : Nat} {kind : Nat} (hs : Keep pq s) : Keep pq (State.setCause s src kind) := by
  unfold State.setCause
  repeat' first
    | with_reducible assumption
    | with_reducible refine keep_wf ?_

theorem keep_sendSafeExit {s : State} {reason : Nat} (hs : Keep pq s) : Keep pq (State.sendSafeExit s reason) := by
  unfold State.sendSafeExit
  repeat' first
    | with_reducible assumption
    | with_reducible refine keep_send ?_

theorem keep_endRecovery {s : State} (hs : Keep pq s) : Keep pq (State.endRecovery s) := by
  unfold State.endRecovery
  repeat' first
    | with_reducible assumption
    | (extract_lets +onlyGivenNames -underBinder x; (first | (have _h : Option _ := x; clear _h; generalize x = y; clear x) | (revert x; intro _)))
    | with_reducible refine keep_sendSafeExit ?_
    | split
    | with_reducible refine keep_of ?_

theorem keep_stopCompute {s : State} (hs : Keep pq s) : Keep pq (State.stopCompute s) := by
  unfold State.stopCompute
  repeat' first
    | with_reducible assumption
    | (extract_lets +onlyGivenNames -underBinder x; (first | (refine (fun (hx : Keep pq x) => ?_) ?_; generalize x = y at hx ⊢; clear x; rotate_left; unfold x; clear x; rotate_right) | (have _h : Option _ := x; clear _h; generalize x = y; clear x) | (revert x; intro _)))
    | with_reducible refine keep_wf ?_
    | with_reducible refine keep_foldl ?_ ?_
    | (intro _; intros)
    | with_reducible refine keep_of ?_

theorem keep_enterSafe {s : State} {src : Nat} {kind : Nat} (hs : Keep pq s) : Keep pq (State.enterSafe s src kind) := by
  unfold State.enterSafe
  repeat' first
    | with_reducible assumption
    | (extract_lets +onlyGivenNames -underBinder x; (first | (refine (fun (hx : Keep pq x) => ?_) ?_; generalize x = y at hx ⊢; clear x; rotate_left; unfold x; clear x; rotate_right) | (have _h : Option _ := x; clear _h; generalize x = y; clear x) | (revert x; intro _)))
    | with_reducible refine keep_endRecovery ?_
    | with_reducible refine keep_raiseIbi ?_
    | with_reducible refine keep_setCause ?_
    | with_reducible refine keep_setPState ?_
    | with_reducible refine keep_stopAlive ?_
    | split
    | with_reducible refine keep_of ?_

theorem keep_enterHalt {s : State} {src : Nat} {kind : Nat} (hs : Keep pq s) : Keep pq (State.enterHalt s src kind) := by
  unfold State.enterHalt
  repeat' first
    | with_reducible assumption
    | (extract_lets +onlyGivenNames -underBinder x; (first | (refine (fun (hx : Keep pq x) => ?_) ?_; generalize x = y at hx ⊢; clear x; rotate_left; unfold x; clear x; rotate_right) | (have _h : Option _ := x; clear _h; generalize x = y; clear x) | (revert x; intro _)))
    | with_reducible refine keep_raiseIbi ?_
    | with_reducible refine keep_setCause ?_
    | with_reducible refine keep_setPState ?_
    | with_reducible refine keep_stopAlive ?_
    | with_reducible refine keep_stopCompute ?_
    | split
    | with_reducible refine keep_of ?_

end Sys2Proof.Machine
end

