-- ==== Sys2Proof/Laws/KeepMemory.lean ====
section
/-! SUPPORT. Every operation and meaning of Machine/Memory.lean keeps a sound state sound and the queue as it is. -/

namespace Sys2Proof.Machine
open Sys2Proof
set_option Elab.async false
set_option linter.all false

variable {pq : List Instr}

theorem keep_clearEcc {s : State} {k n : Nat} (hs : Keep pq s) : Keep pq (s.clearEcc k n) := keep_ecc hs (smWf_filter hs.2.ecc _)

theorem keep_markEcc {s : State} {k w : Nat} (hs : Keep pq s) : Keep pq (s.markEcc k w) := keep_ecc hs (smWf_set hs.2.ecc _ _)

theorem keep_ocmLast {s : State} {k : Kind} {addr : Nat} (hs : Keep pq s) : Keep pq (State.ocmLast s k addr) := by
  unfold State.ocmLast
  repeat' first
    | with_reducible assumption
    | with_reducible refine keep_wf ?_

theorem keep_sramCe {s : State} {mem : Nat} {core : Nat} {eng : Nat} {word : Nat} {src : Nat} (hs : Keep pq s) : Keep pq (State.sramCe s mem core eng word src) := by
  unfold State.sramCe
  repeat' first
    | with_reducible assumption
    | (extract_lets +onlyGivenNames -underBinder x; (first | (refine (fun (hx : Keep pq x) => ?_) ?_; generalize x = y at hx ⊢; clear x; rotate_left; unfold x; clear x; rotate_right) | (have _h : Option _ := x; clear _h; generalize x = y; clear x) | (revert x; intro _)))
    | with_reducible refine keep_bump ?_
    | with_reducible refine keep_ocmLast ?_
    | with_reducible refine keep_send ?_

theorem keep_sramUe {s : State} {code : Bool} {mem : Nat} {core : Nat} {eng : Nat} {word : Nat} {src : Nat} (hs : Keep pq s) : Keep pq (State.sramUe s code mem core eng word src) := by
  unfold State.sramUe
  repeat' first
    | with_reducible assumption
    | (extract_lets +onlyGivenNames -underBinder x; (first | (refine (fun (hx : Keep pq x) => ?_) ?_; generalize x = y at hx ⊢; clear x; rotate_left; unfold x; clear x; rotate_right) | (have _h : Option _ := x; clear _h; generalize x = y; clear x) | (revert x; intro _)))
    | with_reducible refine keep_bump ?_
    | with_reducible refine keep_ocmLast ?_
    | with_reducible refine keep_send ?_
    | with_reducible refine keep_wf ?_
    | split

theorem keep_elog {s : State} {k : Kind} {a : Nat} {req : Nat} (hs : Keep pq s) : Keep pq (State.elog s k a req) := by
  unfold State.elog
  repeat' first
    | with_reducible assumption
    | (extract_lets +onlyGivenNames -underBinder x; (first | (refine (fun (hx : Keep pq x) => ?_) ?_; generalize x = y at hx ⊢; clear x; rotate_left; unfold x; clear x; rotate_right) | (have _h : Option _ := x; clear _h; generalize x = y; clear x) | (revert x; intro _)))
    | with_reducible refine keep_wf ?_
    | split

theorem keep_listRow {s : State} {a : Nat} (hs : Keep pq s) : Keep pq (State.listRow s a) := by
  unfold State.listRow
  repeat' first
    | with_reducible assumption
    | (extract_lets +onlyGivenNames -underBinder x; (first | (refine (fun (hx : Keep pq x) => ?_) ?_; generalize x = y at hx ⊢; clear x; rotate_left; unfold x; clear x; rotate_right) | (have _h : Option _ := x; clear _h; generalize x = y; clear x) | (revert x; intro _)))
    | with_reducible refine keep_bump ?_
    | with_reducible refine keep_wrN ?_
    | split
    | with_reducible refine keep_of ?_

theorem keep_hbmUe {s : State} {a : Nat} {req : Nat} (hs : Keep pq s) : Keep pq (State.hbmUe s a req) := by
  unfold State.hbmUe
  repeat' first
    | with_reducible assumption
    | (extract_lets +onlyGivenNames -underBinder x; (refine (fun (hx : Keep pq x) => ?_) ?_; generalize x = y at hx ⊢; clear x; rotate_left; unfold x; clear x; rotate_right))
    | with_reducible refine keep_bump ?_
    | with_reducible refine keep_elog ?_
    | with_reducible refine keep_listRow ?_
    | with_reducible refine keep_send ?_

theorem keep_hbmCe {s : State} {a : Nat} {req : Nat} (hs : Keep pq s) : Keep pq (State.hbmCe s a req) := by
  unfold State.hbmCe
  repeat' first
    | with_reducible assumption
    | with_reducible refine keep_bump ?_
    | with_reducible refine keep_send ?_

theorem keep_judge {s : State} {code : Bool} {req : Nat} {marks : List (Nat × Nat)} (hs : Keep pq s) : Keep pq (State.judge s code req marks).1 := by
  unfold State.judge
  repeat' first
    | with_reducible assumption
    | with_reducible refine keep_hbmCe ?_
    | with_reducible refine keep_hbmUe ?_
    | with_reducible refine keep_send ?_
    | with_reducible refine keep_sramCe ?_
    | with_reducible refine keep_sramUe ?_
    | with_reducible refine keep_foldl1 ?_ ?_
    | (intro _; intros)
    | with_reducible refine keep_eq1 ‹_› ?_
    | split
    | dsimp -zeta only

theorem keep_load {s : State} {code : Bool} {req : Nat} {k : Nat} {n : Nat} (hs : Keep pq s) : Keep pq (State.load s code req k n).2.2 := by
  unfold State.load
  repeat' first
    | with_reducible assumption
    | (extract_lets +onlyGivenNames -underBinder x; (first | (refine (fun (hx : Keep pq x) => ?_) ?_; generalize x = y at hx ⊢; clear x; rotate_left; unfold x; clear x; rotate_right) | (have _h : Option _ := x; clear _h; generalize x = y; clear x) | (revert x; intro _)))
    | split
    | with_reducible refine keep_judge ?_
    | with_reducible refine keep_send ?_
    | with_reducible refine keep_foldl ?_ ?_
    | (intro _; intros)
    | with_reducible refine keep_eq1 ‹_› ?_
    | dsimp -zeta only

theorem keep_store {s : State} {k : Nat} {bs : List Byte} (hs : Keep pq s) : Keep pq (State.store s k bs) := by
  unfold State.store
  repeat' first
    | with_reducible assumption
    | (extract_lets +onlyGivenNames -underBinder x; (first | (refine (fun (hx : Keep pq x) => ?_) ?_; generalize x = y at hx ⊢; clear x; rotate_left; unfold x; clear x; rotate_right) | (have _h : Option _ := x; clear _h; generalize x = y; clear x) | (revert x; intro _)))
    | with_reducible refine keep_clearEcc ?_
    | with_reducible refine keep_markEcc ?_
    | with_reducible refine keep_send ?_
    | with_reducible refine keep_wrN ?_
    | with_reducible refine keep_foldl ?_ ?_
    | (intro _; intros)
    | split
    | with_reducible refine keep_of ?_

theorem keep_hbmAccess {s : State} {req : Nat} {a : Nat} (hs : Keep pq s) : Keep pq (State.hbmAccess s req a) := by
  unfold State.hbmAccess
  repeat' first
    | with_reducible assumption
    | with_reducible refine keep_bump ?_
    | with_reducible refine keep_send ?_

theorem keep_addUnits {s : State} {n : Nat} (hs : Keep pq s) : Keep pq (State.addUnits s n) := by
  unfold State.addUnits
  repeat' first
    | with_reducible assumption
    | (extract_lets +onlyGivenNames -underBinder x; (first | (have _h : Option _ := x; clear _h; generalize x = y; clear x) | (revert x; intro _)))
    | with_reducible refine keep_of ?_

theorem keep_linkFail {s : State} {req : Nat} {a : Nat} {n : Nat} (hs : Keep pq s) : Keep pq (State.linkFail s req a n) := by
  unfold State.linkFail
  repeat' first
    | with_reducible assumption
    | (extract_lets +onlyGivenNames -underBinder x; (refine (fun (hx : Keep pq x) => ?_) ?_; generalize x = y at hx ⊢; clear x; rotate_left; unfold x; clear x; rotate_right))
    | with_reducible refine keep_bump ?_
    | with_reducible refine keep_hbmUe ?_
    | with_reducible refine keep_send ?_
    | with_reducible refine keep_foldl ?_ ?_
    | (intro _; intros)
    | split

theorem keep_fetch {s : State} {req : Nat} {k : Nat} {n : Nat} (hs : Keep pq s) : Keep pq (State.fetch s req k n).2.2 := by
  unfold State.fetch
  repeat' first
    | with_reducible assumption
    | with_reducible refine keep_addUnits ?_
    | with_reducible refine keep_hbmAccess ?_
    | with_reducible refine keep_load ?_
    | split

theorem keep_put {s : State} {req : Nat} {k : Nat} {bs : List Byte} (hs : Keep pq s) : Keep pq (State.put s req k bs) := by
  unfold State.put
  repeat' first
    | with_reducible assumption
    | with_reducible refine keep_addUnits ?_
    | with_reducible refine keep_hbmAccess ?_
    | with_reducible refine keep_store ?_
    | split

theorem keep_scrubOne {s : State} {k : Nat} {w : Nat} {mem : Nat} {core : Nat} {eng : Nat} {word : Nat} {src : Nat} (hs : Keep pq s) : Keep pq (State.scrubOne s k w mem core eng word src) := by
  unfold State.scrubOne
  repeat' first
    | with_reducible assumption
    | (extract_lets +onlyGivenNames -underBinder x; (first | (refine (fun (hx : Keep pq x) => ?_) ?_; generalize x = y at hx ⊢; clear x; rotate_left; unfold x; clear x; rotate_right) | (have _h : Option _ := x; clear _h; generalize x = y; clear x) | (revert x; intro _)))
    | with_reducible refine keep_clearEcc ?_
    | with_reducible refine keep_ocmLast ?_
    | with_reducible refine keep_send ?_
    | with_reducible refine keep_sramCe ?_
    | with_reducible refine keep_sramUe ?_
    | split
    | with_reducible refine keep_of ?_

theorem keep_execSramScrub {upset : List (Nat × Fin 3)} {s : State} (hs : Keep pq s) : KeepO pq (execSramScrub upset s) := by
  unfold execSramScrub
  repeat' first
    | with_reducible assumption
    | with_reducible refine keepO_next ?_
    | (extract_lets +onlyGivenNames -underBinder x; (first | (refine (fun (hx : Keep pq x) => ?_) ?_; generalize x = y at hx ⊢; clear x; rotate_left; unfold x; clear x; rotate_right) | (have _h : Option _ := x; clear _h; generalize x = y; clear x) | (revert x; intro _)))
    | with_reducible refine keep_markEcc ?_
    | with_reducible refine keep_scrubOne ?_
    | with_reducible refine keep_wf ?_
    | with_reducible refine keep_foldl ?_ ?_
    | (intro _; intros)
    | split
    | with_reducible refine keep_of ?_

theorem keep_execL2Scrub {line : BitVec 15} {wrong : Fin 3} {s : State} (hs : Keep pq s) : KeepO pq (execL2Scrub line wrong s) := by
  unfold execL2Scrub
  repeat' first
    | with_reducible assumption
    | with_reducible refine keepO_next ?_
    | (extract_lets +onlyGivenNames -underBinder x; (first | (have _h : Option _ := x; clear _h; generalize x = y; clear x) | (revert x; intro _)))
    | with_reducible refine keep_clearEcc ?_
    | with_reducible refine keep_markEcc ?_
    | with_reducible refine keep_send ?_
    | split

theorem keep_execPatrolScrub {upset : List (Nat × Fin 3)} {s : State} (hs : Keep pq s) : KeepO pq (execPatrolScrub upset s) := by
  unfold execPatrolScrub
  repeat' first
    | with_reducible assumption
    | with_reducible refine keepO_next ?_
    | (extract_lets +onlyGivenNames -underBinder x; (first | (refine (fun (hx : Keep pq x) => ?_) ?_; generalize x = y at hx ⊢; clear x; rotate_left; unfold x; clear x; rotate_right) | (have _h : Option _ := x; clear _h; generalize x = y; clear x) | (revert x; intro _)))
    | with_reducible refine keep_clearEcc ?_
    | with_reducible refine keep_elog ?_
    | with_reducible refine keep_hbmCe ?_
    | with_reducible refine keep_hbmUe ?_
    | with_reducible refine keep_listRow ?_
    | with_reducible refine keep_markEcc ?_
    | with_reducible refine keep_send ?_
    | with_reducible refine keep_wf ?_
    | with_reducible refine keep_foldl ?_ ?_
    | (intro _; intros)
    | split
    | with_reducible refine keep_of ?_

theorem keep_overtemp {s : State} {code : Nat} (hs : Keep pq s) : Keep pq (State.overtemp s code) := by
  unfold State.overtemp
  repeat' first
    | with_reducible assumption
    | with_reducible refine keep_send ?_
    | with_reducible refine keep_wf ?_

theorem keep_hbmHot {s : State} (hs : Keep pq s) : Keep pq (State.hbmHot s) := by
  unfold State.hbmHot
  repeat' first
    | with_reducible assumption
    | with_reducible refine keep_wf ?_

theorem keep_hbmTemp {s : State} {c : Int} (hs : Keep pq s) : Keep pq (State.hbmTemp s c) := by
  unfold State.hbmTemp
  repeat' first
    | with_reducible assumption
    | (extract_lets +onlyGivenNames -underBinder x; (first | (refine (fun (hx : Keep pq x) => ?_) ?_; generalize x = y at hx ⊢; clear x; rotate_left; unfold x; clear x; rotate_right) | (have _h : Option _ := x; clear _h; generalize x = y; clear x) | (revert x; intro _)))
    | with_reducible refine keep_hbmHot ?_
    | with_reducible refine keep_overtemp ?_
    | with_reducible refine keep_send ?_
    | with_reducible refine keep_wf ?_
    | split
    | with_reducible refine keep_of ?_

theorem keep_tempRead {s : State} {reading : Option (BitVec 8)} (hs : Keep pq s) : Keep pq (State.tempRead s reading) := by
  unfold State.tempRead
  repeat' first
    | with_reducible assumption
    | (extract_lets +onlyGivenNames -underBinder x; (first | (refine (fun (hx : Keep pq x) => ?_) ?_; generalize x = y at hx ⊢; clear x; rotate_left; unfold x; clear x; rotate_right) | (have _h : Option _ := x; clear _h; generalize x = y; clear x) | (revert x; intro _)))
    | with_reducible refine keep_bump ?_
    | with_reducible refine keep_hbmHot ?_
    | with_reducible refine keep_hbmTemp ?_
    | with_reducible refine keep_overtemp ?_
    | with_reducible refine keep_send ?_
    | split
    | with_reducible refine keep_of ?_

theorem keep_execHbmTempPoll {reading : Option (BitVec 8)} {s : State} (hs : Keep pq s) : KeepO pq (execHbmTempPoll reading s) := by
  unfold execHbmTempPoll
  repeat' first
    | with_reducible assumption
    | with_reducible refine keepO_next ?_
    | with_reducible refine keep_tempRead ?_
    | split

theorem keep_execBankPowerDown {lib : Bool} {core : Fin 66} {bank : Fin 256} {s : State} (hs : Keep pq s) : KeepO pq (execBankPowerDown lib core bank s) := by
  unfold execBankPowerDown
  repeat' first
    | with_reducible assumption
    | with_reducible refine keepO_next ?_
    | (extract_lets +onlyGivenNames -underBinder x; (first | (refine (fun (hx : Keep pq x) => ?_) ?_; generalize x = y at hx ⊢; clear x; rotate_left; unfold x; clear x; rotate_right) | (have _h : Option _ := x; clear _h; generalize x = y; clear x) | (revert x; intro _)))
    | with_reducible refine keep_wf ?_
    | split
    | with_reducible refine keep_of ?_

theorem keep_execBankDrainTimeout {lib : Bool} {core : Fin 66} {bank : Fin 256} {s : State} (hs : Keep pq s) : KeepO pq (execBankDrainTimeout lib core bank s) := by
  unfold execBankDrainTimeout
  repeat' first
    | with_reducible assumption
    | with_reducible refine keepO_next ?_
    | (extract_lets +onlyGivenNames -underBinder x; (first | (refine (fun (hx : Keep pq x) => ?_) ?_; generalize x = y at hx ⊢; clear x; rotate_left; unfold x; clear x; rotate_right) | (have _h : Option _ := x; clear _h; generalize x = y; clear x) | (revert x; intro _)))
    | with_reducible refine keep_advanceTo ?_
    | with_reducible refine keep_send ?_
    | with_reducible refine keep_wf ?_
    | split
    | with_reducible refine keep_of ?_

theorem keep_ocmAccess {s : State} {r : Requester} {mem : Nat} {cause : Nat} {a : Nat} (hs : Keep pq s) : Keep pq (State.ocmAccess s r mem cause a) := by
  unfold State.ocmAccess
  repeat' first
    | with_reducible assumption
    | (extract_lets +onlyGivenNames -underBinder x; (first | (have _h : Option _ := x; clear _h; generalize x = y; clear x) | (revert x; intro _)))
    | with_reducible refine keep_send ?_

theorem keep_busError {s : State} {r : Requester} (hs : Keep pq s) : Keep pq (State.busError s r) := by
  unfold State.busError
  repeat' first
    | with_reducible assumption
    | with_reducible refine keep_out ?_

theorem keep_cpAccess {s : State} {r : Requester} {kind : Nat} {a : Nat} {size : Nat} {data : List Byte} (hs : Keep pq s) : Keep pq (State.cpAccess s r kind a size data) := by
  unfold State.cpAccess
  repeat' first
    | with_reducible assumption
    | (extract_lets +onlyGivenNames -underBinder x; (first | (have _h : Option _ := x; clear _h; generalize x = y; clear x) | (revert x; intro _)))
    | split
    | with_reducible refine keep_busError ?_
    | with_reducible refine keep_hbmAccess ?_
    | with_reducible refine keep_load ?_
    | with_reducible refine keep_ocmAccess ?_
    | with_reducible refine keep_out ?_
    | with_reducible refine keep_store ?_
    | with_reducible refine keep_eq3 ‹_› ?_
    | dsimp -zeta only

end Sys2Proof.Machine
end

