-- ==== Sys2Proof/Laws/KeepAccess.lean ====
section
/-! SUPPORT. Every operation and meaning of Machine/Access.lean keeps a sound state sound and the queue as it is. -/

namespace Sys2Proof.Machine
open Sys2Proof
set_option Elab.async false
set_option linter.all false

variable {pq : List Instr}

theorem keep_cmdWrite {s : State} {req : Requester} {a : Nat} {f : State → State} (hs : Keep pq s) (hf : ∀ s, Keep pq s → Keep pq (f s)) : Keep pq (State.cmdWrite s req a f) := by
  unfold State.cmdWrite
  repeat' first
    | with_reducible assumption
    | with_reducible refine hf _ ?_
    | with_reducible refine keep_busError ?_
    | with_reducible refine keep_deny ?_
    | split

theorem keep_execOcmCounterClear {req : Requester} {value : BitVec 32} {s : State} (hs : Keep pq s) : KeepO pq (execOcmCounterClear req value s) := by
  unfold execOcmCounterClear
  repeat' first
    | with_reducible assumption
    | with_reducible refine keepO_next ?_
    | (extract_lets +onlyGivenNames -underBinder x; (refine (fun (hx : Keep pq x) => ?_) ?_; generalize x = y at hx ⊢; clear x; rotate_left; unfold x; clear x; rotate_right))
    | with_reducible refine keep_cmdWrite ?_ ?_
    | with_reducible refine keep_wf ?_
    | with_reducible refine keep_foldl ?_ ?_
    | (intro _; intros)
    | split

end Sys2Proof.Machine
end

