-- ==== Sys2Proof/Laws/KeepTiles.lean ====
section
/-! SUPPORT. Every operation and meaning of Machine/Tiles.lean keeps a sound state sound and the queue as it is. -/

namespace Sys2Proof.Machine
open Sys2Proof
set_option Elab.async false
set_option linter.all false

variable {pq : List Instr}

theorem keep_reside {s : State} {h : Hdr} {d : TileDst} (hs : Keep pq s) : Keep pq (State.reside s h d) := by
  unfold State.reside
  repeat' first
    | with_reducible assumption
    | (extract_lets +onlyGivenNames -underBinder x; (first | (have _h : Option _ := x; clear _h; generalize x = y; clear x) | (revert x; intro _)))
    | split
    | with_reducible refine keep_of ?_

theorem keep_writeTile {s : State} {core : Nat} {src : Nat} {dual : Option Nat} {h : Hdr} {payload : List Byte} {dsts : List TileDst} (hs : Keep pq s) : Keep pq (State.writeTile s core src dual h payload dsts) := by
  unfold State.writeTile
  repeat' first
    | with_reducible assumption
    | (extract_lets +onlyGivenNames -underBinder x; (first | (refine (fun (hx : Keep pq x) => ?_) ?_; generalize x = y at hx ⊢; clear x; rotate_left; unfold x; clear x; rotate_right) | (have _h : Option _ := x; clear _h; generalize x = y; clear x) | (revert x; intro _)))
    | with_reducible refine keep_reside ?_
    | with_reducible refine keep_setSeq ?_
    | with_reducible refine keep_store ?_
    | with_reducible refine keep_foldl ?_ ?_
    | (intro _; intros)
    | split
    | with_reducible refine keep_of ?_

theorem keep_receive {s : State} {src : Nat} {checker : Nat} {p : Nat} {req : Nat} {hk : Nat} {pk : Nat} {stream : Nat} {bell : Nat} {idx : Nat} {len : Nat} {quiet : Bool} (hs : Keep pq s) : Keep pq (State.receive s src checker p req hk pk stream bell idx len quiet).2.2.2 := by
  unfold State.receive
  repeat' first
    | with_reducible assumption
    | (extract_lets +onlyGivenNames -underBinder x; (first | (refine (fun (hx : Keep pq x) => ?_) ?_; generalize x = y at hx ⊢; clear x; rotate_left; unfold x; clear x; rotate_right) | (have _h : Option _ := x; clear _h; generalize x = y; clear x) | (revert x; intro _)))
    | split
    | with_reducible refine keep_bump ?_
    | with_reducible refine keep_load ?_
    | with_reducible refine keep_send ?_
    | with_reducible refine keep_eq3 ‹_› ?_
    | dsimp -zeta only

end Sys2Proof.Machine
end

