-- ==== Sys2Proof/Laws/KeepCollector.lean ====
section
/-! SUPPORT. Every operation and meaning of Machine/Collector.lean keeps a sound state sound and the queue as it is. -/

namespace Sys2Proof.Machine
open Sys2Proof
set_option Elab.async false
set_option linter.all false

variable {pq : List Instr}

theorem keep_voidStreams {s : State} {l : List Nat} (hs : Keep pq s) : Keep pq (State.voidStreams s l) := by
  unfold State.voidStreams
  repeat' first
    | with_reducible assumption
    | (extract_lets +onlyGivenNames -underBinder x; (first | (have _h : Option _ := x; clear _h; generalize x = y; clear x) | (revert x; intro _)))
    | with_reducible refine keep_of ?_

theorem keep_markResult {s : State} {stream : Nat} {reason : Nat} {contested : Bool} (hs : Keep pq s) : Keep pq (State.markResult s stream reason contested) := by
  unfold State.markResult
  repeat' first
    | with_reducible assumption
    | (extract_lets +onlyGivenNames -underBinder x; (first | (have _h : Option _ := x; clear _h; generalize x = y; clear x) | (revert x; intro _)))
    | with_reducible refine keep_of ?_

theorem keep_voidCore {s : State} {p : Nat} (hs : Keep pq s) : Keep pq (State.voidCore s p) := by
  unfold State.voidCore
  repeat' first
    | with_reducible assumption
    | (extract_lets +onlyGivenNames -underBinder x; (first | (refine (fun (hx : Keep pq x) => ?_) ?_; generalize x = y at hx ⊢; clear x; rotate_left; unfold x; clear x; rotate_right) | (have _h : Option _ := x; clear _h; generalize x = y; clear x) | (revert x; intro _)))
    | with_reducible refine keep_voidStreams ?_
    | with_reducible refine keep_of ?_

theorem keep_voidUnit {s : State} {src : Nat} (hs : Keep pq s) : Keep pq (State.voidUnit s src) := by
  unfold State.voidUnit
  repeat' first
    | with_reducible assumption
    | (extract_lets +onlyGivenNames -underBinder x; (first | (refine (fun (hx : Keep pq x) => ?_) ?_; generalize x = y at hx ⊢; clear x; rotate_left; unfold x; clear x; rotate_right) | (have _h : Option _ := x; clear _h; generalize x = y; clear x) | (revert x; intro _)))
    | with_reducible refine keep_voidStreams ?_
    | with_reducible refine keep_of ?_

theorem keep_voidAffected {s : State} {src : Nat} {kind : Nat} {addr : Nat} (hs : Keep pq s) : Keep pq (State.voidAffected s src kind addr) := by
  unfold State.voidAffected
  repeat' first
    | with_reducible assumption
    | (extract_lets +onlyGivenNames -underBinder x; (first | (have _h : Option _ := x; clear _h; generalize x = y; clear x) | (revert x; intro _)))
    | with_reducible refine keep_voidCore ?_
    | with_reducible refine keep_voidStreams ?_
    | with_reducible refine keep_voidUnit ?_
    | split
    | with_reducible refine keep_of ?_

theorem keep_startRemap {s : State} {n : Nat} {p : Nat} (hs : Keep pq s) : Keep pq (State.startRemap s n p) := by
  unfold State.startRemap
  repeat' first
    | with_reducible assumption
    | (extract_lets +onlyGivenNames -underBinder x; (first | (refine (fun (hx : Keep pq x) => ?_) ?_; generalize x = y at hx ⊢; clear x; rotate_left; unfold x; clear x; rotate_right) | (have _h : Option _ := x; clear _h; generalize x = y; clear x) | (revert x; intro _)))
    | with_reducible refine keep_send ?_
    | with_reducible refine keep_wf ?_
    | split
    | with_reducible refine keep_of ?_

theorem keep_fence {s : State} {src : Nat} {kind : Nat} (hs : Keep pq s) : Keep pq (State.fence s src kind) := by
  unfold State.fence
  repeat' first
    | with_reducible assumption
    | (extract_lets +onlyGivenNames -underBinder x; (first | (refine (fun (hx : Keep pq x) => ?_) ?_; generalize x = y at hx ⊢; clear x; rotate_left; unfold x; clear x; rotate_right) | (have _h : Option _ := x; clear _h; generalize x = y; clear x) | (revert x; intro _)))
    | with_reducible refine keep_startRemap ?_
    | with_reducible refine keep_wf ?_
    | split

theorem keep_react {s : State} {m : Msg} {e : Nat} (hs : Keep pq s) : Keep pq (State.react s m e) := by
  unfold State.react
  repeat' first
    | with_reducible assumption
    | (extract_lets +onlyGivenNames -underBinder x; (first | (refine (fun (hx : Keep pq x) => ?_) ?_; generalize x = y at hx ⊢; clear x; rotate_left; unfold x; clear x; rotate_right) | (have _h : Option _ := x; clear _h; generalize x = y; clear x) | (revert x; intro _)))
    | with_reducible refine keep_enterHalt ?_
    | with_reducible refine keep_enterSafe ?_
    | with_reducible refine keep_fence ?_
    | with_reducible refine keep_voidAffected ?_
    | with_reducible refine keep_wf ?_
    | split
    | with_reducible refine keep_of ?_

theorem keep_addCard {s : State} {typ : Nat} {sub : Nat} {id : Nat} {data : List Byte} (hs : Keep pq s) : Keep pq (State.addCard s typ sub id data) := by
  unfold State.addCard
  repeat' first
    | with_reducible assumption
    | (extract_lets +onlyGivenNames -underBinder x; (first | (have _h : Option _ := x; clear _h; generalize x = y; clear x) | (revert x; intro _)))
    | with_reducible refine keep_of ?_

theorem keep_writeRings {s : State} {e : Entry} (hs : Keep pq s) : Keep pq (State.writeRings s e) := by
  unfold State.writeRings
  repeat' first
    | with_reducible assumption
    | (extract_lets +onlyGivenNames -underBinder x; (refine (fun (hx : Keep pq x) => ?_) ?_; generalize x = y at hx ⊢; clear x; rotate_left; unfold x; clear x; rotate_right))
    | with_reducible refine keep_wrN ?_
    | split

theorem keep_persist {s : State} {e : Entry} (hs : Keep pq s) : Keep pq (State.persist s e) := by
  unfold State.persist
  repeat' first
    | with_reducible assumption
    | (extract_lets +onlyGivenNames -underBinder x; (first | (refine (fun (hx : Keep pq x) => ?_) ?_; generalize x = y at hx ⊢; clear x; rotate_left; unfold x; clear x; rotate_right) | (have _h : Option _ := x; clear _h; generalize x = y; clear x) | (revert x; intro _)))
    | with_reducible refine keep_bump ?_
    | with_reducible refine keep_wf ?_
    | split
    | with_reducible refine keep_of ?_

theorem keep_record {s : State} {m : Msg} (hs : Keep pq s) : Keep pq (State.record s m) := by
  unfold State.record
  repeat' first
    | with_reducible assumption
    | (extract_lets +onlyGivenNames -underBinder x; (first | (refine (fun (hx : Keep pq x) => ?_) ?_; generalize x = y at hx ⊢; clear x; rotate_left; unfold x; clear x; rotate_right) | (have _h : Option _ := x; clear _h; generalize x = y; clear x) | (revert x; intro _)))
    | split
    | with_reducible refine keep_addCard ?_
    | with_reducible refine keep_persist ?_
    | with_reducible refine keep_raiseIbi ?_
    | with_reducible refine keep_react ?_
    | with_reducible refine keep_wf ?_
    | with_reducible refine keep_writeRings ?_
    | with_reducible refine keep_foldl ?_ ?_
    | (intro _; intros)
    | with_reducible refine keep_of ?_

theorem keep_faultRecord {s : State} (hs : Keep pq s) : Keep pq (State.faultRecord s) := by
  unfold State.faultRecord
  repeat' first
    | with_reducible assumption
    | (extract_lets +onlyGivenNames -underBinder x; (first | (refine (fun (hx : Keep pq x) => ?_) ?_; generalize x = y at hx ⊢; clear x; rotate_left; unfold x; clear x; rotate_right) | (have _h : Option _ := x; clear _h; generalize x = y; clear x) | (revert x; intro _)))
    | with_reducible refine keep_bump ?_
    | with_reducible refine keep_record ?_
    | split
    | with_reducible refine keep_of ?_

theorem keep_execFaultRecord {s : State} (hs : Keep pq s) : KeepO pq (execFaultRecord s) := by
  unfold execFaultRecord
  repeat' first
    | with_reducible assumption
    | with_reducible refine keepO_next ?_
    | with_reducible refine keep_faultRecord ?_

theorem keep_execEarlyBufferRelease {s : State} (hs : Keep pq s) : KeepO pq (execEarlyBufferRelease s) := by
  unfold execEarlyBufferRelease
  repeat' first
    | with_reducible assumption
    | with_reducible refine keepO_next ?_
    | (extract_lets +onlyGivenNames -underBinder x; (first | (refine (fun (hx : Keep pq x) => ?_) ?_; generalize x = y at hx ⊢; clear x; rotate_left; unfold x; clear x; rotate_right) | (have _h : Option _ := x; clear _h; generalize x = y; clear x) | (revert x; intro _)))
    | with_reducible refine keep_persist ?_
    | with_reducible refine keep_send ?_
    | with_reducible refine keep_writeRings ?_
    | with_reducible refine keep_foldl ?_ ?_
    | (intro _; intros)
    | split
    | with_reducible refine keep_of ?_

theorem keep_nvmPut {s : State} {e : Entry} (hs : Keep pq s) : Keep pq (State.nvmPut s e) := by
  unfold State.nvmPut
  repeat' first
    | with_reducible assumption
    | (extract_lets +onlyGivenNames -underBinder x; (first | (refine (fun (hx : Keep pq x) => ?_) ?_; generalize x = y at hx ⊢; clear x; rotate_left; unfold x; clear x; rotate_right) | (have _h : Option _ := x; clear _h; generalize x = y; clear x) | (revert x; intro _)))
    | with_reducible refine keep_wrN ?_
    | split
    | with_reducible refine keep_of ?_

theorem keep_execNvmEntryWritten {s : State} (hs : Keep pq s) : KeepO pq (execNvmEntryWritten s) := by
  unfold execNvmEntryWritten
  repeat' first
    | with_reducible assumption
    | with_reducible refine keepO_next ?_
    | (extract_lets +onlyGivenNames -underBinder x; (first | (refine (fun (hx : Keep pq x) => ?_) ?_; generalize x = y at hx ⊢; clear x; rotate_left; unfold x; clear x; rotate_right) | (have _h : Option _ := x; clear _h; generalize x = y; clear x) | (revert x; intro _)))
    | split
    | with_reducible refine keep_bump ?_
    | with_reducible refine keep_nvmPut ?_
    | with_reducible refine keep_wf ?_
    | with_reducible refine keep_of ?_

theorem keep_drive {s : State} (hs : Keep pq s) : Keep pq (State.drive s) := by
  unfold State.drive
  repeat' first
    | with_reducible assumption
    | (extract_lets +onlyGivenNames -underBinder x; (first | (have _h : Option _ := x; clear _h; generalize x = y; clear x) | (revert x; intro _)))
    | with_reducible refine keep_out ?_
    | with_reducible refine keep_of ?_

theorem keep_execAliveStart {s : State} (hs : Keep pq s) : KeepO pq (execAliveStart s) := by
  unfold execAliveStart
  repeat' first
    | with_reducible assumption
    | with_reducible refine keepO_next ?_
    | (extract_lets +onlyGivenNames -underBinder x; (first | (refine (fun (hx : Keep pq x) => ?_) ?_; generalize x = y at hx ⊢; clear x; rotate_left; unfold x; clear x; rotate_right) | (have _h : Option _ := x; clear _h; generalize x = y; clear x) | (revert x; intro _)))
    | with_reducible refine keep_advanceToNs ?_
    | with_reducible refine keep_drive ?_
    | with_reducible refine keep_wf ?_
    | split
    | with_reducible refine keep_of ?_

theorem keep_execAliveToggle {s : State} (hs : Keep pq s) : KeepO pq (execAliveToggle s) := by
  unfold execAliveToggle
  repeat' first
    | with_reducible assumption
    | with_reducible refine keepO_next ?_
    | with_reducible refine keep_advanceToNs ?_
    | with_reducible refine keep_drive ?_
    | split

theorem keep_execAliveReadbackCheck {a : Bool} {b : Bool} {s : State} (hs : Keep pq s) : KeepO pq (execAliveReadbackCheck a b s) := by
  unfold execAliveReadbackCheck
  repeat' first
    | with_reducible assumption
    | with_reducible refine keepO_next ?_
    | (extract_lets +onlyGivenNames -underBinder x; (first | (refine (fun (hx : Keep pq x) => ?_) ?_; generalize x = y at hx ⊢; clear x; rotate_left; unfold x; clear x; rotate_right) | (have _h : Option _ := x; clear _h; generalize x = y; clear x) | (revert x; intro _)))
    | with_reducible refine keep_send ?_
    | with_reducible refine keep_wf ?_
    | split

theorem keep_execCollectorMismatch {s : State} (hs : Keep pq s) : KeepO pq (execCollectorMismatch s) := by
  unfold execCollectorMismatch
  repeat' first
    | with_reducible assumption
    | with_reducible refine keepO_next ?_
    | with_reducible refine keep_enterHalt ?_
    | with_reducible refine keep_setReg ?_
    | with_reducible refine keep_wf ?_

theorem keep_execSafeReqAssert {s : State} (hs : Keep pq s) : KeepO pq (execSafeReqAssert s) := by
  unfold execSafeReqAssert
  repeat' first
    | with_reducible assumption
    | with_reducible refine keepO_next ?_
    | (extract_lets +onlyGivenNames -underBinder x; (refine (fun (hx : Keep pq x) => ?_) ?_; generalize x = y at hx ⊢; clear x; rotate_left; unfold x; clear x; rotate_right))
    | with_reducible refine keep_endRecovery ?_
    | with_reducible refine keep_send ?_
    | with_reducible refine keep_wf ?_
    | split

theorem keep_execSafeReqRelease {s : State} (hs : Keep pq s) : KeepO pq (execSafeReqRelease s) := by
  unfold execSafeReqRelease
  repeat' first
    | with_reducible assumption
    | with_reducible refine keepO_next ?_
    | with_reducible refine keep_wf ?_

theorem keep_cp0Write {s : State} {req : Requester} {mmode : Bool} {a : Nat} {f : State → State} (hs : Keep pq s) (hf : ∀ s, Keep pq s → Keep pq (f s)) : Keep pq (State.cp0Write s req mmode a f) := by
  unfold State.cp0Write
  repeat' first
    | with_reducible assumption
    | with_reducible refine hf _ ?_
    | with_reducible refine keep_cmdWrite ?_ ?_
    | with_reducible refine keep_deny ?_
    | (intro _; intros)
    | split

theorem keep_execFltHeartbeat {req : Requester} {mmode : Bool} {value : BitVec 32} {s : State} (hs : Keep pq s) : KeepO pq (execFltHeartbeat req mmode value s) := by
  unfold execFltHeartbeat
  repeat' first
    | with_reducible assumption
    | with_reducible refine keepO_next ?_
    | (extract_lets +onlyGivenNames -underBinder x; (first | (have _h : Option _ := x; clear _h; generalize x = y; clear x) | (revert x; intro _)))
    | with_reducible refine keep_cp0Write ?_ ?_
    | with_reducible refine keep_wf ?_
    | (intro _; intros)
    | with_reducible refine keep_of ?_

theorem keep_ackAgg {s : State} (hs : Keep pq s) : Keep pq (State.ackAgg s) := by
  unfold State.ackAgg
  repeat' first
    | with_reducible assumption
    | (extract_lets +onlyGivenNames -underBinder x; (first | (have _h : Option _ := x; clear _h; generalize x = y; clear x) | (revert x; intro _)))
    | with_reducible refine keep_wf ?_
    | with_reducible refine keep_of ?_

theorem keep_execFltAck {req : Requester} {mmode : Bool} {value : BitVec 32} {s : State} (hs : Keep pq s) : KeepO pq (execFltAck req mmode value s) := by
  unfold execFltAck
  repeat' first
    | with_reducible assumption
    | with_reducible refine keepO_next ?_
    | with_reducible refine keep_ackAgg ?_
    | with_reducible refine keep_cp0Write ?_ ?_
    | (intro _; intros)
    | split

theorem keep_execFltSw {req : Requester} {mmode : Bool} {value : BitVec 32} {s : State} (hs : Keep pq s) : KeepO pq (execFltSw req mmode value s) := by
  unfold execFltSw
  repeat' first
    | with_reducible assumption
    | with_reducible refine keepO_next ?_
    | (extract_lets +onlyGivenNames -underBinder x; (first | (have _h : Option _ := x; clear _h; generalize x = y; clear x) | (revert x; intro _)))
    | with_reducible refine keep_cmdWrite ?_ ?_
    | with_reducible refine keep_deny ?_
    | with_reducible refine keep_send ?_
    | (intro _; intros)
    | split

theorem keep_sevWrite {s : State} {req : Requester} {a : Nat} {v : Nat} (hs : Keep pq s) : Keep pq (State.sevWrite s req a v) := by
  unfold State.sevWrite
  repeat' first
    | with_reducible assumption
    | (extract_lets +onlyGivenNames -underBinder x; (first | (refine (fun (hx : Keep pq x) => ?_) ?_; generalize x = y at hx ⊢; clear x; rotate_left; unfold x; clear x; rotate_right) | (have _h : Option _ := x; clear _h; generalize x = y; clear x) | (revert x; intro _)))
    | with_reducible refine keep_deny ?_
    | with_reducible refine keep_wf ?_
    | with_reducible refine keep_foldl ?_ ?_
    | (intro _; intros)
    | split

theorem keep_execFltSeverityWrite {req : Requester} {mmode : Bool} {addr : BitVec 40} {value : BitVec 32} {s : State} (hs : Keep pq s) : KeepO pq (execFltSeverityWrite req mmode addr value s) := by
  unfold execFltSeverityWrite
  repeat' first
    | with_reducible assumption
    | with_reducible refine keepO_next ?_
    | with_reducible refine keep_cmdWrite ?_ ?_
    | with_reducible refine keep_deny ?_
    | with_reducible refine keep_sevWrite ?_
    | (intro _; intros)
    | split

theorem keep_inject {s : State} {req : Requester} {mmode : Bool} {f : State → State} (hs : Keep pq s) (hf : ∀ s, Keep pq s → Keep pq (f s)) : Keep pq (State.inject s req mmode f) := by
  unfold State.inject
  repeat' first
    | with_reducible assumption
    | with_reducible refine hf _ ?_
    | with_reducible refine keep_cmdWrite ?_ ?_
    | with_reducible refine keep_deny ?_
    | (intro _; intros)
    | split

theorem keep_execInjectMessage {req : Requester} {mmode : Bool} {s : State} (hs : Keep pq s) : KeepO pq (execInjectMessage req mmode s) := by
  unfold execInjectMessage
  repeat' first
    | with_reducible assumption
    | with_reducible refine keepO_next ?_
    | (extract_lets +onlyGivenNames -underBinder x; (first | (have _h : Option _ := x; clear _h; generalize x = y; clear x) | (revert x; intro _)))
    | with_reducible refine keep_inject ?_ ?_
    | with_reducible refine keep_sendMsg ?_
    | (intro _; intros)

theorem keep_execInjectSram {req : Requester} {mmode : Bool} {s : State} (hs : Keep pq s) : KeepO pq (execInjectSram req mmode s) := by
  unfold execInjectSram
  repeat' first
    | with_reducible assumption
    | with_reducible refine keepO_next ?_
    | (extract_lets +onlyGivenNames -underBinder x; (first | (have _h : Option _ := x; clear _h; generalize x = y; clear x) | (revert x; intro _)))
    | with_reducible refine keep_inject ?_ ?_
    | (intro _; intros)
    | with_reducible refine keep_of ?_

theorem keep_execInjectHbm {req : Requester} {mmode : Bool} {s : State} (hs : Keep pq s) : KeepO pq (execInjectHbm req mmode s) := by
  unfold execInjectHbm
  repeat' first
    | with_reducible assumption
    | with_reducible refine keepO_next ?_
    | (extract_lets +onlyGivenNames -underBinder x; (first | (have _h : Option _ := x; clear _h; generalize x = y; clear x) | (revert x; intro _)))
    | with_reducible refine keep_inject ?_ ?_
    | (intro _; intros)
    | with_reducible refine keep_of ?_

theorem keep_lockstep {s : State} {pair : Nat} {group : Nat} {cycle : Nat} {injected : Bool} (hs : Keep pq s) : Keep pq (State.lockstep s pair group cycle injected) := by
  unfold State.lockstep
  repeat' first
    | with_reducible assumption
    | (extract_lets +onlyGivenNames -underBinder x; (refine (fun (hx : Keep pq x) => ?_) ?_; generalize x = y at hx ⊢; clear x; rotate_left; unfold x; clear x; rotate_right))
    | with_reducible refine keep_sendMsg ?_
    | with_reducible refine keep_wf ?_
    | with_reducible refine keep_of ?_

theorem keep_execInjectLockstep {req : Requester} {mmode : Bool} {s : State} (hs : Keep pq s) : KeepO pq (execInjectLockstep req mmode s) := by
  unfold execInjectLockstep
  repeat' first
    | with_reducible assumption
    | with_reducible refine keepO_next ?_
    | (extract_lets +onlyGivenNames -underBinder x; (first | (have _h : Option _ := x; clear _h; generalize x = y; clear x) | (revert x; intro _)))
    | with_reducible refine keep_inject ?_ ?_
    | with_reducible refine keep_lockstep ?_
    | (intro _; intros)
    | split

theorem keep_seqMismatch {s : State} {p : Nat} {injected : Bool} (hs : Keep pq s) : Keep pq (State.seqMismatch s p injected) := by
  unfold State.seqMismatch
  repeat' first
    | with_reducible assumption
    | (extract_lets +onlyGivenNames -underBinder x; (refine (fun (hx : Keep pq x) => ?_) ?_; generalize x = y at hx ⊢; clear x; rotate_left; unfold x; clear x; rotate_right))
    | with_reducible refine keep_sendMsg ?_
    | with_reducible refine keep_wf ?_

theorem keep_execInjectSequencer {req : Requester} {mmode : Bool} {s : State} (hs : Keep pq s) : KeepO pq (execInjectSequencer req mmode s) := by
  unfold execInjectSequencer
  repeat' first
    | with_reducible assumption
    | with_reducible refine keepO_next ?_
    | (extract_lets +onlyGivenNames -underBinder x; (first | (have _h : Option _ := x; clear _h; generalize x = y; clear x) | (revert x; intro _)))
    | with_reducible refine keep_inject ?_ ?_
    | with_reducible refine keep_seqMismatch ?_
    | (intro _; intros)
    | split

theorem keep_execInjectDigest {req : Requester} {mmode : Bool} {s : State} (hs : Keep pq s) : KeepO pq (execInjectDigest req mmode s) := by
  unfold execInjectDigest
  repeat' first
    | with_reducible assumption
    | with_reducible refine keepO_next ?_
    | (extract_lets +onlyGivenNames -underBinder x; (first | (have _h : Option _ := x; clear _h; generalize x = y; clear x) | (revert x; intro _)))
    | with_reducible refine keep_inject ?_ ?_
    | (intro _; intros)
    | with_reducible refine keep_of ?_

theorem keep_execInjectTileCrc {req : Requester} {mmode : Bool} {s : State} (hs : Keep pq s) : KeepO pq (execInjectTileCrc req mmode s) := by
  unfold execInjectTileCrc
  repeat' first
    | with_reducible assumption
    | with_reducible refine keepO_next ?_
    | (extract_lets +onlyGivenNames -underBinder x; (first | (have _h : Option _ := x; clear _h; generalize x = y; clear x) | (revert x; intro _)))
    | with_reducible refine keep_inject ?_ ?_
    | (intro _; intros)
    | with_reducible refine keep_of ?_

theorem keep_execInjectAlive {req : Requester} {mmode : Bool} {s : State} (hs : Keep pq s) : KeepO pq (execInjectAlive req mmode s) := by
  unfold execInjectAlive
  repeat' first
    | with_reducible assumption
    | with_reducible refine keepO_next ?_
    | (extract_lets +onlyGivenNames -underBinder x; (first | (have _h : Option _ := x; clear _h; generalize x = y; clear x) | (revert x; intro _)))
    | with_reducible refine keep_inject ?_ ?_
    | (intro _; intros)
    | with_reducible refine keep_of ?_

theorem keep_execLockstepMismatch {pair : Fin 2} {group : Fin 5} {cycle : BitVec 32} {s : State} (hs : Keep pq s) : KeepO pq (execLockstepMismatch pair group cycle s) := by
  unfold execLockstepMismatch
  repeat' first
    | with_reducible assumption
    | with_reducible refine keepO_next ?_
    | with_reducible refine keep_lockstep ?_
    | split

theorem keep_execSequencerMismatch {phys : Fin 66} {s : State} (hs : Keep pq s) : KeepO pq (execSequencerMismatch phys s) := by
  unfold execSequencerMismatch
  repeat' first
    | with_reducible assumption
    | with_reducible refine keepO_next ?_
    | with_reducible refine keep_seqMismatch ?_

theorem keep_laneRound {s : State} {missed : List (Fin 72)} (hs : Keep pq s) : Keep pq (State.laneRound s missed) := by
  unfold State.laneRound
  repeat' first
    | with_reducible assumption
    | with_reducible refine keep_bump ?_
    | with_reducible refine keep_send ?_
    | with_reducible refine keep_foldl ?_ ?_
    | (intro _; intros)
    | split

theorem keep_execTestLaneRound {missed : List (Fin 72)} {s : State} (hs : Keep pq s) : KeepO pq (execTestLaneRound missed s) := by
  unfold execTestLaneRound
  repeat' first
    | with_reducible assumption
    | with_reducible refine keepO_next ?_
    | with_reducible refine keep_laneRound ?_
    | split

theorem keep_setHart {s : State} {h : Nat} {f : Hart → Hart} (hs : Keep pq s) : Keep pq (State.setHart s h f) := by
  unfold State.setHart
  repeat' first
    | with_reducible assumption
    | with_reducible refine keep_of ?_

theorem keep_dbgAction {s : State} {h : Nat} {f : Hart → Hart} (hs : Keep pq s) : Keep pq (State.dbgAction s h f) := by
  unfold State.dbgAction
  repeat' first
    | with_reducible assumption
    | with_reducible refine keep_bump ?_
    | with_reducible refine keep_setHart ?_
    | split

theorem keep_execDebugAttach {hart : Fin 3} {s : State} (hs : Keep pq s) : KeepO pq (execDebugAttach hart s) := by
  unfold execDebugAttach
  repeat' first
    | with_reducible assumption
    | with_reducible refine keepO_next ?_
    | with_reducible refine keep_send ?_
    | with_reducible refine keep_setHart ?_
    | with_reducible refine keep_wf ?_
    | split

theorem keep_execDebugDetach {hart : Fin 3} {s : State} (hs : Keep pq s) : KeepO pq (execDebugDetach hart s) := by
  unfold execDebugDetach
  repeat' first
    | with_reducible assumption
    | with_reducible refine keepO_next ?_
    | (extract_lets +onlyGivenNames -underBinder x; (first | (refine (fun (hx : Keep pq x) => ?_) ?_; generalize x = y at hx ⊢; clear x; rotate_left; unfold x; clear x; rotate_right) | (have _h : Option _ := x; clear _h; generalize x = y; clear x) | (revert x; intro _)))
    | with_reducible refine keep_send ?_
    | with_reducible refine keep_setHart ?_
    | with_reducible refine keep_wf ?_
    | split

theorem keep_execDebugHalt {hart : Fin 3} {s : State} (hs : Keep pq s) : KeepO pq (execDebugHalt hart s) := by
  unfold execDebugHalt
  repeat' first
    | with_reducible assumption
    | with_reducible refine keepO_next ?_
    | with_reducible refine keep_dbgAction ?_

theorem keep_execDebugResume {hart : Fin 3} {s : State} (hs : Keep pq s) : KeepO pq (execDebugResume hart s) := by
  unfold execDebugResume
  repeat' first
    | with_reducible assumption
    | with_reducible refine keepO_next ?_
    | with_reducible refine keep_dbgAction ?_

theorem keep_execDebugAbstractCommand {hart : Fin 3} {s : State} (hs : Keep pq s) : KeepO pq (execDebugAbstractCommand hart s) := by
  unfold execDebugAbstractCommand
  repeat' first
    | with_reducible assumption
    | with_reducible refine keepO_next ?_
    | with_reducible refine keep_dbgAction ?_

theorem keep_execDebugProgbufExec {hart : Fin 3} {s : State} (hs : Keep pq s) : KeepO pq (execDebugProgbufExec hart s) := by
  unfold execDebugProgbufExec
  repeat' first
    | with_reducible assumption
    | with_reducible refine keepO_next ?_
    | with_reducible refine keep_dbgAction ?_

theorem keep_execDebugTrigger {hart : Fin 3} {s : State} (hs : Keep pq s) : KeepO pq (execDebugTrigger hart s) := by
  unfold execDebugTrigger
  repeat' first
    | with_reducible assumption
    | with_reducible refine keepO_next ?_
    | with_reducible refine keep_dbgAction ?_

end Sys2Proof.Machine
end

