-- ==== Sys2Proof/Laws/KeepTimetable.lean ====
section
/-! SUPPORT. Every operation and meaning of Machine/Timetable.lean keeps a sound state sound and the queue as it is. -/

namespace Sys2Proof.Machine
open Sys2Proof
set_option Elab.async false
set_option linter.all false

variable {pq : List Instr}

theorem keep_ttFault {s : State} {p : Nat} {k : Kind} {task : Nat} {cyc : Nat} (hs : Keep pq s) : Keep pq (State.ttFault s p k task cyc) := by
  unfold State.ttFault
  repeat' first
    | with_reducible assumption
    | with_reducible refine keep_wf ?_

theorem keep_abandon {s : State} {n : Nat} (hs : Keep pq s) : Keep pq (State.abandon s n) := by
  unfold State.abandon
  repeat' first
    | with_reducible assumption
    | (extract_lets +onlyGivenNames -underBinder x; (first | (refine (fun (hx : Keep pq x) => ?_) ?_; generalize x = y at hx ⊢; clear x; rotate_left; unfold x; clear x; rotate_right) | (have _h : Option _ := x; clear _h; generalize x = y; clear x) | (revert x; intro _)))
    | with_reducible refine keep_setSeq ?_
    | with_reducible refine keep_voidCore ?_
    | with_reducible refine keep_wf ?_
    | with_reducible refine keep_of ?_

theorem keep_loadCode {s : State} {n : Nat} {k : Nat} {len : Nat} (hs : Keep pq s) : Keep pq (State.loadCode s n k len).2 := by
  unfold State.loadCode
  repeat' first
    | with_reducible assumption
    | split
    | with_reducible refine keep_abandon ?_
    | with_reducible refine keep_load ?_
    | with_reducible refine keep_eq3 ‹_› ?_
    | dsimp -zeta only

theorem keep_issue {s : State} {n : Nat} {ok : Nat → Bool} (hs : Keep pq s) : Keep pq (State.issue s n ok).2 := by
  unfold State.issue
  repeat' first
    | with_reducible assumption
    | (extract_lets +onlyGivenNames -underBinder x; (first | (refine (fun (hx : Keep pq x) => ?_) ?_; generalize x = y at hx ⊢; clear x; rotate_left; unfold x; clear x; rotate_right) | (have _h : Option _ := x; clear _h; generalize x = y; clear x) | (revert x; intro _)))
    | split
    | with_reducible refine keep_addCard ?_
    | with_reducible refine keep_advanceTo ?_
    | with_reducible refine keep_bump ?_
    | with_reducible refine keep_loadCode ?_
    | with_reducible refine keep_send ?_
    | with_reducible refine keep_setSeq ?_
    | with_reducible refine keep_ttFault ?_
    | with_reducible refine keep_wf ?_
    | with_reducible refine keep_eq2 ‹_› ?_
    | dsimp -zeta only

theorem keep_endJob {s : State} {j : Job} (hs : Keep pq s) : Keep pq (State.endJob s j) := by
  unfold State.endJob
  repeat' first
    | with_reducible assumption
    | (extract_lets +onlyGivenNames -underBinder x; (first | (refine (fun (hx : Keep pq x) => ?_) ?_; generalize x = y at hx ⊢; clear x; rotate_left; unfold x; clear x; rotate_right) | (have _h : Option _ := x; clear _h; generalize x = y; clear x) | (revert x; intro _)))
    | with_reducible refine keep_setSeq ?_
    | split
    | with_reducible refine keep_of ?_

theorem keep_startJob {s : State} {j : Job} (hs : Keep pq s) : Keep pq (State.startJob s j) := by
  unfold State.startJob
  repeat' first
    | with_reducible assumption
    | (extract_lets +onlyGivenNames -underBinder x; (first | (have _h : Option _ := x; clear _h; generalize x = y; clear x) | (revert x; intro _)))
    | with_reducible refine keep_of ?_

theorem keep_execTaskBegin {core : Fin 64} {s : State} (hs : Keep pq s) : KeepO pq (execTaskBegin core s) := by
  unfold execTaskBegin
  repeat' first
    | with_reducible assumption
    | with_reducible refine keepO_next ?_
    | split
    | with_reducible refine keep_issue ?_
    | with_reducible refine keep_setSeq ?_
    | with_reducible refine keep_eq2 ‹_› ?_
    | dsimp -zeta only

theorem keep_execBudget {core : Fin 64} {task : Byte} {s : State} (hs : Keep pq s) : KeepO pq (execBudget core task s) := by
  unfold execBudget
  repeat' first
    | with_reducible assumption
    | with_reducible refine keepO_next ?_
    | (extract_lets +onlyGivenNames -underBinder x; (first | (refine (fun (hx : Keep pq x) => ?_) ?_; generalize x = y at hx ⊢; clear x; rotate_left; unfold x; clear x; rotate_right) | (have _h : Option _ := x; clear _h; generalize x = y; clear x) | (revert x; intro _)))
    | with_reducible refine keep_advanceTo ?_
    | with_reducible refine keep_bump ?_
    | with_reducible refine keep_send ?_
    | with_reducible refine keep_setSeq ?_
    | with_reducible refine keep_ttFault ?_
    | split

theorem keep_execEnd {core : Fin 64} {s : State} (hs : Keep pq s) : KeepO pq (execEnd core s) := by
  unfold execEnd
  repeat' first
    | with_reducible assumption
    | with_reducible refine keepO_next ?_
    | (extract_lets +onlyGivenNames -underBinder x; (first | (refine (fun (hx : Keep pq x) => ?_) ?_; generalize x = y at hx ⊢; clear x; rotate_left; unfold x; clear x; rotate_right) | (have _h : Option _ := x; clear _h; generalize x = y; clear x) | (revert x; intro _)))
    | split
    | with_reducible refine keep_issue ?_
    | with_reducible refine keep_wf ?_
    | with_reducible refine keep_eq2 ‹_› ?_
    | dsimp -zeta only

theorem keep_deliver {s : State} {j : Job} {k : Nat} {whole : Bool} (hs : Keep pq s) : Keep pq (State.deliver s j k whole) := by
  unfold State.deliver
  repeat' first
    | with_reducible assumption
    | (extract_lets +onlyGivenNames -underBinder x; (first | (refine (fun (hx : Keep pq x) => ?_) ?_; generalize x = y at hx ⊢; clear x; rotate_left; unfold x; clear x; rotate_right) | (have _h : Option _ := x; clear _h; generalize x = y; clear x) | (revert x; intro _)))
    | split
    | with_reducible refine keep_hbmAccess ?_
    | with_reducible refine keep_receive ?_
    | with_reducible refine keep_writeTile ?_
    | with_reducible refine keep_eq4 ‹_› ?_
    | dsimp -zeta only

theorem keep_execMove {core : Fin 64} {s : State} (hs : Keep pq s) : KeepO pq (execMove core s) := by
  unfold execMove
  repeat' first
    | with_reducible assumption
    | with_reducible refine keepO_next ?_
    | (extract_lets +onlyGivenNames -underBinder x; (first | (have _h : Option _ := x; clear _h; generalize x = y; clear x) | (revert x; intro _)))
    | split
    | with_reducible refine keep_issue ?_
    | with_reducible refine keep_loadCode ?_
    | with_reducible refine keep_startJob ?_
    | with_reducible refine keep_eq2 ‹_› ?_
    | dsimp -zeta only

theorem keep_execMoveComplete {mover : BitVec 16} {extra : Nat} {links : List (Nat × Fin 6)} {s : State} (hs : Keep pq s) : KeepO pq (execMoveComplete mover extra links s) := by
  unfold execMoveComplete
  repeat' first
    | with_reducible assumption
    | with_reducible refine keepO_next ?_
    | (extract_lets +onlyGivenNames -underBinder x; (first | (refine (fun (hx : Keep pq x) => ?_) ?_; generalize x = y at hx ⊢; clear x; rotate_left; unfold x; clear x; rotate_right) | (have _h : Option _ := x; clear _h; generalize x = y; clear x) | (revert x; intro _)))
    | with_reducible refine keep_addUnits ?_
    | with_reducible refine keep_advanceTo ?_
    | with_reducible refine keep_deliver ?_
    | with_reducible refine keep_endJob ?_
    | with_reducible refine keep_linkFail ?_
    | with_reducible refine keep_setSeq ?_
    | with_reducible refine keep_foldl ?_ ?_
    | (intro _; intros)
    | split

theorem keep_execDeadline {mover : BitVec 16} {delivered : Nat} {s : State} (hs : Keep pq s) : KeepO pq (execDeadline mover delivered s) := by
  unfold execDeadline
  repeat' first
    | with_reducible assumption
    | with_reducible refine keepO_next ?_
    | (extract_lets +onlyGivenNames -underBinder x; (first | (refine (fun (hx : Keep pq x) => ?_) ?_; generalize x = y at hx ⊢; clear x; rotate_left; unfold x; clear x; rotate_right) | (have _h : Option _ := x; clear _h; generalize x = y; clear x) | (revert x; intro _)))
    | with_reducible refine keep_addCard ?_
    | with_reducible refine keep_advanceTo ?_
    | with_reducible refine keep_bump ?_
    | with_reducible refine keep_deliver ?_
    | with_reducible refine keep_endJob ?_
    | with_reducible refine keep_send ?_
    | with_reducible refine keep_ttFault ?_
    | with_reducible refine keep_foldl ?_ ?_
    | (intro _; intros)
    | split

theorem keep_execDigest {core : Fin 64} {s : State} (hs : Keep pq s) : KeepO pq (execDigest core s) := by
  unfold execDigest
  repeat' first
    | with_reducible assumption
    | with_reducible refine keepO_next ?_
    | (extract_lets +onlyGivenNames -underBinder x; (first | (refine (fun (hx : Keep pq x) => ?_) ?_; generalize x = y at hx ⊢; clear x; rotate_left; unfold x; clear x; rotate_right) | (have _h : Option _ := x; clear _h; generalize x = y; clear x) | (revert x; intro _)))
    | split
    | with_reducible refine keep_issue ?_
    | with_reducible refine keep_setSeq ?_
    | with_reducible refine keep_eq2 ‹_› ?_
    | with_reducible refine keep_of ?_
    | dsimp -zeta only

theorem keep_execBarrier {core : Fin 64} {s : State} (hs : Keep pq s) : KeepO pq (execBarrier core s) := by
  unfold execBarrier
  repeat' first
    | with_reducible assumption
    | with_reducible refine keepO_next ?_
    | (extract_lets +onlyGivenNames -underBinder x; (first | (refine (fun (hx : Keep pq x) => ?_) ?_; generalize x = y at hx ⊢; clear x; rotate_left; unfold x; clear x; rotate_right) | (have _h : Option _ := x; clear _h; generalize x = y; clear x) | (revert x; intro _)))
    | split
    | with_reducible refine keep_issue ?_
    | with_reducible refine keep_send ?_
    | with_reducible refine keep_setSeq ?_
    | with_reducible refine keep_foldl ?_ ?_
    | (intro _; intros)
    | with_reducible refine keep_eq2 ‹_› ?_
    | with_reducible refine keep_of ?_
    | dsimp -zeta only

end Sys2Proof.Machine
end

