-- ==== Sys2Proof/Laws/KeepStrand.lean ====
section
/-! SUPPORT. Every operation and meaning of Machine/Strand.lean keeps a sound state sound and the queue as it is. -/

namespace Sys2Proof.Machine
open Sys2Proof
set_option Elab.async false
set_option linter.all false

variable {pq : List Instr}

theorem keep_receiveResid {s : State} {p : Nat} {e : Nat} {st : Nat} {quiet : Bool} {rs : List Resid} (hs : Keep pq s) : Keep pq (State.receiveResid s p e st quiet rs).2 := by
  unfold State.receiveResid
  repeat' first
    | with_reducible assumption
    | split
    | with_reducible refine keep_receive ?_
    | with_reducible refine keep_foldl2 ?_ ?_
    | (intro _; intros)
    | with_reducible refine keep_eq4 ‹_› ?_
    | with_reducible refine keep_eq2 ‹_› ?_
    | dsimp -zeta only

theorem keep_setEng {s : State} {p : Nat} {e : Nat} {x : Eng} (hs : Keep pq s) : Keep pq (State.setEng s p e x) := by
  unfold State.setEng
  repeat' first
    | with_reducible assumption
    | with_reducible refine keep_of ?_

theorem keep_numFault {s : State} {src : Nat} {k : Kind} {stream : Nat} {idx : Nat} {st : Nat} (hs : Keep pq s) : Keep pq (State.numFault s src k stream idx st) := by
  unfold State.numFault
  repeat' first
    | with_reducible assumption
    | with_reducible refine keep_send ?_

theorem keep_engineRun {s : State} {n : Nat} {e : Nat} {st : Nat} {w : Nat} {d : Opd} (hs : Keep pq s) : Keep pq (State.engineRun s n e st w d).2 := by
  unfold State.engineRun
  repeat' first
    | with_reducible assumption
    | (extract_lets +onlyGivenNames -underBinder x; (first | (refine (fun (hx : Keep pq x) => ?_) ?_; generalize x = y at hx ⊢; clear x; rotate_left; unfold x; clear x; rotate_right) | (have _h : Option _ := x; clear _h; generalize x = y; clear x) | (revert x; intro _)))
    | split
    | with_reducible refine keep_bump ?_
    | with_reducible refine keep_load ?_
    | with_reducible refine keep_numFault ?_
    | with_reducible refine keep_receive ?_
    | with_reducible refine keep_receiveResid ?_
    | with_reducible refine keep_tally ?_
    | with_reducible refine keep_foldl6 ?_ ?_
    | (intro _; intros)
    | with_reducible refine keep_eq2 ‹_› ?_
    | with_reducible refine keep_eq3 ‹_› ?_
    | with_reducible refine keep_eq4 ‹_› ?_
    | with_reducible refine keep_eq6 ‹_› ?_
    | dsimp -zeta only

theorem keep_flush {s : State} {j : Job} {t : Nat} (hs : Keep pq s) : Keep pq (State.flush s j t) := by
  unfold State.flush
  repeat' first
    | with_reducible assumption
    | (extract_lets +onlyGivenNames -underBinder x; (first | (have _h : Option _ := x; clear _h; generalize x = y; clear x) | (revert x; intro _)))
    | with_reducible refine keep_writeTile ?_
    | with_reducible refine keep_foldl ?_ ?_
    | (intro _; intros)

theorem keep_startEngine {s : State} {n : Nat} {kind : JobKind} {op : Nat} {form : Nat} (hs : Keep pq s) : Keep pq (State.startEngine s n kind op form) := by
  unfold State.startEngine
  repeat' first
    | with_reducible assumption
    | (extract_lets +onlyGivenNames -underBinder x; (first | (refine (fun (hx : Keep pq x) => ?_) ?_; generalize x = y at hx ⊢; clear x; rotate_left; unfold x; clear x; rotate_right) | (have _h : Option _ := x; clear _h; generalize x = y; clear x) | (revert x; intro _)))
    | split
    | with_reducible refine keep_engineRun ?_
    | with_reducible refine keep_issue ?_
    | with_reducible refine keep_loadCode ?_
    | with_reducible refine keep_startJob ?_
    | with_reducible refine keep_wf ?_
    | with_reducible refine keep_eq2 ‹_› ?_
    | dsimp -zeta only

theorem keep_execMmFormT {core : Fin 64} {s : State} (hs : Keep pq s) : KeepO pq (execMmFormT core s) := by
  unfold execMmFormT
  repeat' first
    | with_reducible assumption
    | with_reducible refine keepO_next ?_
    | with_reducible refine keep_startEngine ?_

theorem keep_execMmFormW {core : Fin 64} {s : State} (hs : Keep pq s) : KeepO pq (execMmFormW core s) := by
  unfold execMmFormW
  repeat' first
    | with_reducible assumption
    | with_reducible refine keepO_next ?_
    | with_reducible refine keep_startEngine ?_

theorem keep_execEw {core : Fin 64} {s : State} (hs : Keep pq s) : KeepO pq (execEw core s) := by
  unfold execEw
  repeat' first
    | with_reducible assumption
    | with_reducible refine keepO_next ?_
    | with_reducible refine keep_startEngine ?_

theorem keep_noteMm {s : State} {j : Job} (hs : Keep pq s) : Keep pq (State.noteMm s j) := by
  unfold State.noteMm
  repeat' first
    | with_reducible assumption
    | (extract_lets +onlyGivenNames -underBinder x; (first | (have _h : Option _ := x; clear _h; generalize x = y; clear x) | (revert x; intro _)))
    | with_reducible refine keep_setSeq ?_
    | split

theorem keep_execMmComplete {engine : BitVec 16} {s : State} (hs : Keep pq s) : KeepO pq (execMmComplete engine s) := by
  unfold execMmComplete
  repeat' first
    | with_reducible assumption
    | with_reducible refine keepO_next ?_
    | (extract_lets +onlyGivenNames -underBinder x; (first | (refine (fun (hx : Keep pq x) => ?_) ?_; generalize x = y at hx ⊢; clear x; rotate_left; unfold x; clear x; rotate_right) | (have _h : Option _ := x; clear _h; generalize x = y; clear x) | (revert x; intro _)))
    | with_reducible refine keep_advanceTo ?_
    | with_reducible refine keep_endJob ?_
    | with_reducible refine keep_flush ?_
    | with_reducible refine keep_noteMm ?_
    | with_reducible refine keep_wf ?_
    | split

theorem keep_turnStart {s : State} {p : Nat} {e : Nat} (hs : Keep pq s) : Keep pq (State.turnStart s p e) := by
  unfold State.turnStart
  repeat' first
    | with_reducible assumption
    | (extract_lets +onlyGivenNames -underBinder x; (first | (have _h : Option _ := x; clear _h; generalize x = y; clear x) | (revert x; intro _)))
    | split
    | with_reducible refine keep_of ?_

theorem keep_execSwap {core : Fin 64} {s : State} (hs : Keep pq s) : KeepO pq (execSwap core s) := by
  unfold execSwap
  repeat' first
    | with_reducible assumption
    | with_reducible refine keepO_next ?_
    | (extract_lets +onlyGivenNames -underBinder x; (first | (refine (fun (hx : Keep pq x) => ?_) ?_; generalize x = y at hx ⊢; clear x; rotate_left; unfold x; clear x; rotate_right) | (have _h : Option _ := x; clear _h; generalize x = y; clear x) | (revert x; intro _)))
    | split
    | with_reducible refine keep_bump ?_
    | with_reducible refine keep_issue ?_
    | with_reducible refine keep_send ?_
    | with_reducible refine keep_setEng ?_
    | with_reducible refine keep_startJob ?_
    | with_reducible refine keep_turnStart ?_
    | with_reducible refine keep_wf ?_
    | with_reducible refine keep_eq2 ‹_› ?_
    | dsimp -zeta only

end Sys2Proof.Machine
end

