-- ==== Sys2Proof/Laws/KeepStation.lean ====
section
/-! SUPPORT. Every operation and meaning of Machine/Station.lean keeps a sound state sound and the queue as it is. -/

namespace Sys2Proof.Machine
open Sys2Proof
set_option Elab.async false
set_option linter.all false

variable {pq : List Instr}

theorem keep_recvTile {s : State} {n : Nat} {w : Nat} {src : Nat} {st : Nat} {stream : Nat} {idx : Nat} (hs : Keep pq s) : Keep pq (State.recvTile s n w src st stream idx).2.2.2 := by
  unfold State.recvTile
  repeat' first
    | with_reducible assumption
    | split
    | with_reducible refine keep_receive ?_

theorem keep_recvStream {s : State} {n : Nat} {w : Nat} {src : Nat} {st : Nat} {stream : Nat} (hs : Keep pq s) : Keep pq (State.recvStream s n w src st stream).2.2.2 := by
  unfold State.recvStream
  repeat' first
    | with_reducible assumption
    | split
    | with_reducible refine keep_recvTile ?_
    | with_reducible refine keep_foldl4 ?_ ?_
    | (intro _; intros)
    | with_reducible refine keep_eq4 ‹_› ?_
    | dsimp -zeta only

theorem keep_issueSta {s : State} {n : Nat} {kind : Nat} {ok : Nat → Bool} (hs : Keep pq s) : Keep pq (State.issueSta s n kind ok).2 := by
  unfold State.issueSta
  repeat' first
    | with_reducible assumption
    | with_reducible refine keep_issue ?_

theorem keep_startSta {s : State} {kind : JobKind} {n : Nat} {w : Nat} {i : Nat} {cycles : Nat} {desc : List Byte} {outs : List TileW} (hs : Keep pq s) : Keep pq (State.startSta s kind n w i cycles desc outs) := by
  unfold State.startSta
  repeat' first
    | with_reducible assumption
    | with_reducible refine keep_startJob ?_

theorem keep_endSta {s : State} {j : Job} (hs : Keep pq s) : Keep pq (State.endSta s j) := by
  unfold State.endSta
  repeat' first
    | with_reducible assumption
    | with_reducible refine keep_advanceTo ?_
    | with_reducible refine keep_endJob ?_
    | with_reducible refine keep_flush ?_

theorem keep_setBit {s : State} {f : Fld} {i : Nat} {b : Bool} (hs : Keep pq s) : Keep pq (State.setBit s f i b) := by
  unfold State.setBit
  repeat' first
    | with_reducible assumption
    | with_reducible refine keep_wf ?_

end Sys2Proof.Machine
end

