-- ==== Sys2Proof/Laws/KeepAttend.lean ====
section
/-! SUPPORT. Every operation and meaning of Machine/Attend.lean keeps a sound state sound and the queue as it is. -/

namespace Sys2Proof.Machine
open Sys2Proof
set_option Elab.async false
set_option linter.all false

variable {pq : List Instr}

theorem keep_setC {s : State} {c : Nat} {off : Nat} {n : Nat} {v : Nat} (hs : Keep pq s) : Keep pq (State.setC s c off n v) := by
  unfold State.setC
  repeat' first
    | with_reducible assumption
    | with_reducible refine keep_wrLe ?_

theorem keep_setCState {s : State} {c : Nat} {v : Nat} (hs : Keep pq s) : Keep pq (State.setCState s c v) := by
  unfold State.setCState
  repeat' first
    | with_reducible assumption
    | (extract_lets +onlyGivenNames -underBinder x; (first | (refine (fun (hx : Keep pq x) => ?_) ?_; generalize x = y at hx ⊢; clear x; rotate_left; unfold x; clear x; rotate_right) | (have _h : Option _ := x; clear _h; generalize x = y; clear x) | (revert x; intro _)))
    | with_reducible refine keep_bump ?_
    | with_reducible refine keep_setC ?_
    | with_reducible refine keep_wf ?_
    | split

theorem keep_setAtt {s : State} {f : Att → Att} (hs : Keep pq s) : Keep pq (State.setAtt s f) := by
  unfold State.setAtt
  repeat' first
    | with_reducible assumption
    | with_reducible refine keep_of ?_

theorem keep_attRegs {s : State} (hs : Keep pq s) : Keep pq (State.attRegs s) := by
  unfold State.attRegs
  repeat' first
    | with_reducible assumption
    | (extract_lets +onlyGivenNames -underBinder x; (refine (fun (hx : Keep pq x) => ?_) ?_; generalize x = y at hx ⊢; clear x; rotate_left; unfold x; clear x; rotate_right))
    | with_reducible refine keep_wf ?_
    | with_reducible refine keep_foldl ?_ ?_
    | (intro _; intros)

theorem keep_attDrain {s : State} (hs : Keep pq s) : Keep pq (State.attDrain s) := by
  unfold State.attDrain
  repeat' first
    | with_reducible assumption
    | (extract_lets +onlyGivenNames -underBinder x; (first | (have _h : Option _ := x; clear _h; generalize x = y; clear x) | (revert x; intro _)))
    | with_reducible refine keep_attRegs ?_
    | with_reducible refine keep_setAtt ?_
    | split

theorem keep_queueFrames {s : State} {fs : List Nat} (hs : Keep pq s) : Keep pq (State.queueFrames s fs) := by
  unfold State.queueFrames
  repeat' first
    | with_reducible assumption
    | with_reducible refine keep_setAtt ?_

theorem keep_addRefs {s : State} {cls : Nat} {fs : List Nat} (hs : Keep pq s) : Keep pq (State.addRefs s cls fs) := by
  unfold State.addRefs
  repeat' first
    | with_reducible assumption
    | with_reducible refine keep_setAtt ?_

theorem keep_allocate {s : State} {k : CtxClass} (hs : Keep pq s) : Keep pq (State.allocate s k).2 := by
  unfold State.allocate
  repeat' first
    | with_reducible assumption
    | (extract_lets +onlyGivenNames -underBinder x; (first | (have _h : Option _ := x; clear _h; generalize x = y; clear x) | (revert x; intro _)))
    | with_reducible refine keep_addRefs ?_
    | split

theorem keep_setNodeRefs {s : State} {i : Nat} {n : Nat} (hs : Keep pq s) : Keep pq (State.setNodeRefs s i n) := by
  unfold State.setNodeRefs
  repeat' first
    | with_reducible assumption
    | with_reducible refine keep_wrLe ?_

theorem keep_insertNode {s t : State} {k : CtxClass} {key : List Byte} {page refs pinned : Nat} {frames : List Nat}
    (e : s.insertNode k key page refs pinned frames = some t) (hs : Keep pq s) : Keep pq t := by
  unfold State.insertNode at e
  split at e
  · contradiction
  · cases e
    exact keep_addRefs (keep_setAtt (keep_wrN (keep_wrN hs)))

theorem keep_releasePage {s : State} {k : CtxClass} {c : Nat} {p : Nat} (hs : Keep pq s) : Keep pq (State.releasePage s k c p) := by
  unfold State.releasePage
  repeat' first
    | with_reducible assumption
    | (extract_lets +onlyGivenNames -underBinder x; (first | (refine (fun (hx : Keep pq x) => ?_) ?_; generalize x = y at hx ⊢; clear x; rotate_left; unfold x; clear x; rotate_right) | (have _h : Option _ := x; clear _h; generalize x = y; clear x) | (revert x; intro _)))
    | with_reducible refine keep_queueFrames ?_
    | with_reducible refine keep_setNodeRefs ?_
    | with_reducible refine keep_wrLe ?_
    | with_reducible refine keep_foldl ?_ ?_
    | (intro _; intros)
    | split

theorem keep_releaseCtx {s : State} {k : CtxClass} {c : Nat} (hs : Keep pq s) : Keep pq (State.releaseCtx s k c) := by
  unfold State.releaseCtx
  repeat' first
    | with_reducible assumption
    | (extract_lets +onlyGivenNames -underBinder x; (first | (refine (fun (hx : Keep pq x) => ?_) ?_; generalize x = y at hx ⊢; clear x; rotate_left; unfold x; clear x; rotate_right) | (have _h : Option _ := x; clear _h; generalize x = y; clear x) | (revert x; intro _)))
    | with_reducible refine keep_releasePage ?_
    | with_reducible refine keep_setAtt ?_
    | with_reducible refine keep_setC ?_
    | with_reducible refine keep_foldl ?_ ?_
    | (intro _; intros)

theorem keep_openCtx {s : State} {k : CtxClass} {c : Nat} (hs : Keep pq s) : Keep pq (State.openCtx s k c) := by
  unfold State.openCtx
  repeat' first
    | with_reducible assumption
    | (extract_lets +onlyGivenNames -underBinder x; (refine (fun (hx : Keep pq x) => ?_) ?_; generalize x = y at hx ⊢; clear x; rotate_left; unfold x; clear x; rotate_right))
    | with_reducible refine keep_releaseCtx ?_
    | with_reducible refine keep_setC ?_
    | with_reducible refine keep_setCState ?_
    | with_reducible refine keep_wrN ?_

theorem keep_startPrefix {s : State} {k : CtxClass} {c : Nat} {pre : Nat} (hs : Keep pq s) : Keep pq (State.startPrefix s k c pre) := by
  unfold State.startPrefix
  repeat' first
    | with_reducible assumption
    | (extract_lets +onlyGivenNames -underBinder x; (first | (refine (fun (hx : Keep pq x) => ?_) ?_; generalize x = y at hx ⊢; clear x; rotate_left; unfold x; clear x; rotate_right) | (have _h : Option _ := x; clear _h; generalize x = y; clear x) | (revert x; intro _)))
    | with_reducible refine keep_addRefs ?_
    | with_reducible refine keep_setC ?_
    | with_reducible refine keep_setNodeRefs ?_
    | with_reducible refine keep_wrLe ?_
    | with_reducible refine keep_wrN ?_
    | with_reducible refine keep_foldl ?_ ?_
    | (intro _; intros)
    | split

theorem keep_loadPrefixes {s : State} (hs : Keep pq s) : Keep pq (State.loadPrefixes s) := by
  unfold State.loadPrefixes
  repeat' first
    | with_reducible assumption
    | (extract_lets +onlyGivenNames -underBinder x; (first | (have _h : Option _ := x; clear _h; generalize x = y; clear x) | (revert x; intro _)))
    | with_reducible refine keep_insertNode ‹_› ?_
    | with_reducible refine keep_wrN ?_
    | with_reducible refine keep_foldl ?_ ?_
    | (intro _; intros)
    | split

theorem keep_attIssue {s : State} {n : Nat} {op : Nat} (hs : Keep pq s) : Keep pq (State.attIssue s n op).2 := by
  unfold State.attIssue
  repeat' first
    | with_reducible assumption
    | (extract_lets +onlyGivenNames -underBinder x; (first | (have _h : Option _ := x; clear _h; generalize x = y; clear x) | (revert x; intro _)))
    | split
    | with_reducible refine keep_attDrain ?_
    | with_reducible refine keep_issueSta ?_
    | with_reducible refine keep_eq2 ‹_› ?_
    | dsimp -zeta only

theorem keep_attStart {s : State} {n : Nat} {w : Nat} {i : Nat} {cycles : Nat} {d : List Byte} {outs : List TileW} (hs : Keep pq s) : Keep pq (State.attStart s n w i cycles d outs) := by
  unfold State.attStart
  repeat' first
    | with_reducible assumption
    | with_reducible refine keep_attRegs ?_
    | with_reducible refine keep_startSta ?_
    | with_reducible refine keep_wf ?_

theorem keep_control {s : State} {k : CtxClass} {c : Nat} {word : Nat} (hs : Keep pq s) : Keep pq (State.control s k c word).2 := by
  unfold State.control
  repeat' first
    | with_reducible assumption
    | with_reducible refine keep_openCtx ?_
    | with_reducible refine keep_releaseCtx ?_
    | with_reducible refine keep_send ?_
    | with_reducible refine keep_setC ?_
    | with_reducible refine keep_setCState ?_
    | with_reducible refine keep_startPrefix ?_
    | split

theorem keep_shareEntries {s : State} {k : CtxClass} {c : Nat} {p : Nat} {fs : List Nat} (hs : Keep pq s) : Keep pq (State.shareEntries s k c p fs) := by
  unfold State.shareEntries
  repeat' first
    | with_reducible assumption
    | with_reducible refine keep_wrLe ?_
    | with_reducible refine keep_foldl ?_ ?_
    | (intro _; intros)

theorem keep_sharePage {s : State} {k : CtxClass} {c : Nat} {p : Nat} (hs : Keep pq s) : Keep pq (State.sharePage s k c p) := by
  unfold State.sharePage
  repeat' first
    | with_reducible assumption
    | (extract_lets +onlyGivenNames -underBinder x; (first | (refine (fun (hx : Keep pq x) => ?_) ?_; generalize x = y at hx ⊢; clear x; rotate_left; unfold x; clear x; rotate_right) | (have _h : Option _ := x; clear _h; generalize x = y; clear x) | (revert x; intro _)))
    | with_reducible refine keep_absorb ?_
    | with_reducible refine keep_addRefs ?_
    | with_reducible refine keep_bump ?_
    | with_reducible refine keep_insertNode ‹_› ?_
    | with_reducible refine keep_queueFrames ?_
    | with_reducible refine keep_setNodeRefs ?_
    | with_reducible refine keep_shareEntries ?_
    | with_reducible refine keep_tally ?_
    | with_reducible refine keep_wrLe ?_
    | with_reducible refine keep_wrN ?_
    | split

theorem keep_evict {s : State} {lib : Bool} {stepping : List Nat} (hs : Keep pq s) : Keep pq (State.evict s lib stepping) := by
  unfold State.evict
  repeat' first
    | with_reducible assumption
    | (extract_lets +onlyGivenNames -underBinder x; (first | (refine (fun (hx : Keep pq x) => ?_) ?_; generalize x = y at hx ⊢; clear x; rotate_left; unfold x; clear x; rotate_right) | (have _h : Option _ := x; clear _h; generalize x = y; clear x) | (revert x; intro _)))
    | with_reducible refine keep_bump ?_
    | with_reducible refine keep_queueFrames ?_
    | with_reducible refine keep_releaseCtx ?_
    | with_reducible refine keep_send ?_
    | with_reducible refine keep_setAtt ?_
    | with_reducible refine keep_setCState ?_
    | with_reducible refine keep_wrN ?_
    | with_reducible refine keep_foldl ?_ ?_
    | (intro _; intros)
    | split

theorem keep_execAttPlan {core : Fin 64} {s : State} (hs : Keep pq s) : KeepO pq (execAttPlan core s) := by
  unfold execAttPlan
  repeat' first
    | with_reducible assumption
    | with_reducible refine keepO_next ?_
    | (extract_lets +onlyGivenNames -underBinder x; (first | (refine (fun (hx : Keep pq x) => ?_) ?_; generalize x = y at hx ⊢; clear x; rotate_left; unfold x; clear x; rotate_right) | (have _h : Option _ := x; clear _h; generalize x = y; clear x) | (revert x; intro _)))
    | split
    | with_reducible refine keep_attIssue ?_
    | with_reducible refine keep_attStart ?_
    | with_reducible refine keep_bump ?_
    | with_reducible refine keep_control ?_
    | with_reducible refine keep_evict ?_
    | with_reducible refine keep_recvStream ?_
    | with_reducible refine keep_send ?_
    | with_reducible refine keep_setAtt ?_
    | with_reducible refine keep_sharePage ?_
    | with_reducible refine keep_foldl ?_ ?_
    | with_reducible refine keep_foldl2 ?_ ?_
    | (intro _; intros)
    | with_reducible refine keep_eq2 ‹_› ?_
    | with_reducible refine keep_eq4 ‹_› ?_
    | dsimp -zeta only

theorem keep_putPage {s : State} {k : CtxClass} {c : Nat} {fs : List Nat} (hs : Keep pq s) : Keep pq (State.putPage s k c fs) := by
  unfold State.putPage
  repeat' first
    | with_reducible assumption
    | (extract_lets +onlyGivenNames -underBinder x; (first | (refine (fun (hx : Keep pq x) => ?_) ?_; generalize x = y at hx ⊢; clear x; rotate_left; unfold x; clear x; rotate_right) | (have _h : Option _ := x; clear _h; generalize x = y; clear x) | (revert x; intro _)))
    | with_reducible refine keep_setC ?_
    | with_reducible refine keep_wrLe ?_
    | with_reducible refine keep_foldl ?_ ?_
    | (intro _; intros)

theorem keep_failPage {s : State} {c : Nat} (hs : Keep pq s) : Keep pq (State.failPage s c).2 := by
  unfold State.failPage
  repeat' first
    | with_reducible assumption
    | with_reducible refine keep_bump ?_
    | with_reducible refine keep_send ?_

theorem keep_againPage {s : State} {k : CtxClass} {c : Nat} (hs : Keep pq s) : Keep pq (State.againPage s k c).2 := by
  unfold State.againPage
  repeat' first
    | with_reducible assumption
    | split
    | with_reducible refine keep_allocate ?_
    | with_reducible refine keep_failPage ?_
    | with_reducible refine keep_putPage ?_
    | with_reducible refine keep_eq2 ‹_› ?_
    | dsimp -zeta only

theorem keep_dropPage {s : State} {k : CtxClass} {c : Nat} (hs : Keep pq s) : Keep pq (State.dropPage s k c) := by
  unfold State.dropPage
  repeat' first
    | with_reducible assumption
    | with_reducible refine keep_setC ?_

theorem keep_newPage {s : State} {k : CtxClass} {c : Nat} (hs : Keep pq s) : Keep pq (State.newPage s k c).2 := by
  unfold State.newPage
  repeat' first
    | with_reducible assumption
    | (extract_lets +onlyGivenNames -underBinder x; (first | (refine (fun (hx : Keep pq x) => ?_) ?_; generalize x = y at hx ⊢; clear x; rotate_left; unfold x; clear x; rotate_right) | (have _h : Option _ := x; clear _h; generalize x = y; clear x) | (revert x; intro _)))
    | split
    | with_reducible refine keep_againPage ?_
    | with_reducible refine keep_allocate ?_
    | with_reducible refine keep_dropPage ?_
    | with_reducible refine keep_failPage ?_
    | with_reducible refine keep_putPage ?_
    | with_reducible refine keep_releaseCtx ?_
    | with_reducible refine keep_releasePage ?_
    | with_reducible refine keep_send ?_
    | with_reducible refine keep_setC ?_
    | with_reducible refine keep_wrLe ?_
    | with_reducible refine keep_wrN ?_
    | with_reducible refine keep_foldl ?_ ?_
    | (intro _; intros)
    | with_reducible refine keep_eq2 ‹_› ?_
    | dsimp -zeta only

theorem keep_writeFrame {s : State} {k : CtxClass} {a : Nat} {bs : List Byte} (hs : Keep pq s) : Keep pq (State.writeFrame s k a bs) := by
  unfold State.writeFrame
  repeat' first
    | with_reducible assumption
    | with_reducible refine keep_put ?_
    | with_reducible refine keep_store ?_
    | split

theorem keep_writeRow {s : State} {k : CtxClass} {c : Nat} {y : Nat} {tok : Nat} {row : List Byte} (hs : Keep pq s) : Keep pq (State.writeRow s k c y tok row) := by
  unfold State.writeRow
  repeat' first
    | with_reducible assumption
    | (extract_lets +onlyGivenNames -underBinder x; (first | (refine (fun (hx : Keep pq x) => ?_) ?_; generalize x = y at hx ⊢; clear x; rotate_left; unfold x; clear x; rotate_right) | (have _h : Option _ := x; clear _h; generalize x = y; clear x) | (revert x; intro _)))
    | with_reducible refine keep_writeFrame ?_
    | with_reducible refine keep_foldl ?_ ?_
    | (intro _; intros)

theorem keep_appendSlot {s : State} {k : CtxClass} {y : Nat} {sl : AttSlot} {row : List Byte} (hs : Keep pq s) : Keep pq (State.appendSlot s k y sl row).2 := by
  unfold State.appendSlot
  repeat' first
    | with_reducible assumption
    | (extract_lets +onlyGivenNames -underBinder x; (first | (refine (fun (hx : Keep pq x) => ?_) ?_; generalize x = y at hx ⊢; clear x; rotate_left; unfold x; clear x; rotate_right) | (have _h : Option _ := x; clear _h; generalize x = y; clear x) | (revert x; intro _)))
    | split
    | with_reducible refine keep_newPage ?_
    | with_reducible refine keep_send ?_
    | with_reducible refine keep_setAtt ?_
    | with_reducible refine keep_setC ?_
    | with_reducible refine keep_setCState ?_
    | with_reducible refine keep_tally ?_
    | with_reducible refine keep_writeRow ?_
    | with_reducible refine keep_eq2 ‹_› ?_
    | with_reducible refine keep_eq3 ‹_› ?_
    | dsimp -zeta only

theorem keep_execAttAppend {core : Fin 64} {s : State} (hs : Keep pq s) : KeepO pq (execAttAppend core s) := by
  unfold execAttAppend
  repeat' first
    | with_reducible assumption
    | with_reducible refine keepO_next ?_
    | (extract_lets +onlyGivenNames -underBinder x; (first | (refine (fun (hx : Keep pq x) => ?_) ?_; generalize x = y at hx ⊢; clear x; rotate_left; unfold x; clear x; rotate_right) | (have _h : Option _ := x; clear _h; generalize x = y; clear x) | (revert x; intro _)))
    | split
    | with_reducible refine keep_appendSlot ?_
    | with_reducible refine keep_attIssue ?_
    | with_reducible refine keep_attStart ?_
    | with_reducible refine keep_recvStream ?_
    | with_reducible refine keep_setAtt ?_
    | with_reducible refine keep_foldl2 ?_ ?_
    | (intro _; intros)
    | with_reducible refine keep_eq2 ‹_› ?_
    | with_reducible refine keep_eq4 ‹_› ?_
    | dsimp -zeta only

theorem keep_execAttFetch {core : Fin 64} {s : State} (hs : Keep pq s) : KeepO pq (execAttFetch core s) := by
  unfold execAttFetch
  repeat' first
    | with_reducible assumption
    | with_reducible refine keepO_next ?_
    | (extract_lets +onlyGivenNames -underBinder x; (first | (refine (fun (hx : Keep pq x) => ?_) ?_; generalize x = y at hx ⊢; clear x; rotate_left; unfold x; clear x; rotate_right) | (have _h : Option _ := x; clear _h; generalize x = y; clear x) | (revert x; intro _)))
    | split
    | with_reducible refine keep_attIssue ?_
    | with_reducible refine keep_attStart ?_
    | with_reducible refine keep_bump ?_
    | with_reducible refine keep_fetch ?_
    | with_reducible refine keep_load ?_
    | with_reducible refine keep_send ?_
    | with_reducible refine keep_foldl2 ?_ ?_
    | (intro _; intros)
    | with_reducible refine keep_eq2 ‹_› ?_
    | with_reducible refine keep_eq3 ‹_› ?_
    | dsimp -zeta only

theorem keep_execAttSpread {core : Fin 64} {s : State} (hs : Keep pq s) : KeepO pq (execAttSpread core s) := by
  unfold execAttSpread
  repeat' first
    | with_reducible assumption
    | with_reducible refine keepO_next ?_
    | (extract_lets +onlyGivenNames -underBinder x; (first | (have _h : Option _ := x; clear _h; generalize x = y; clear x) | (revert x; intro _)))
    | split
    | with_reducible refine keep_attIssue ?_
    | with_reducible refine keep_attStart ?_
    | with_reducible refine keep_recvStream ?_
    | with_reducible refine keep_eq2 ‹_› ?_
    | with_reducible refine keep_eq4 ‹_› ?_
    | dsimp -zeta only

theorem keep_execAttendComplete {late : Bool} {s : State} (hs : Keep pq s) : KeepO pq (execAttendComplete late s) := by
  unfold execAttendComplete
  repeat' first
    | with_reducible assumption
    | with_reducible refine keepO_next ?_
    | (extract_lets +onlyGivenNames -underBinder x; (first | (refine (fun (hx : Keep pq x) => ?_) ?_; generalize x = y at hx ⊢; clear x; rotate_left; unfold x; clear x; rotate_right) | (have _h : Option _ := x; clear _h; generalize x = y; clear x) | (revert x; intro _)))
    | with_reducible refine keep_advanceTo ?_
    | with_reducible refine keep_attRegs ?_
    | with_reducible refine keep_bump ?_
    | with_reducible refine keep_endJob ?_
    | with_reducible refine keep_flush ?_
    | with_reducible refine keep_send ?_
    | with_reducible refine keep_setAtt ?_
    | with_reducible refine keep_wf ?_
    | split

theorem keep_execAttReleaseFrame {s : State} (hs : Keep pq s) : KeepO pq (execAttReleaseFrame s) := by
  unfold execAttReleaseFrame
  repeat' first
    | with_reducible assumption
    | with_reducible refine keepO_next ?_
    | with_reducible refine keep_advanceTo ?_
    | with_reducible refine keep_attDrain ?_
    | split

end Sys2Proof.Machine
end

