-- ==== Sys2Proof/Laws/KeepRestart.lean ====
section
/-! SUPPORT. Every operation and meaning of Machine/Restart.lean keeps a sound state sound and the queue as it is. -/

namespace Sys2Proof.Machine
open Sys2Proof
set_option Elab.async false
set_option linter.all false

variable {pq : List Instr}

theorem keep_restart {s : State} (hs : Keep pq s) : Keep pq s.restart := by
  have h1 : Keep pq { State.reset with
      pending := s.pending, sent := s.sent, freeCount := s.freeCount, mem := storeCells s.mem,
      sec := { Sec.reset with keys := s.sec.keys, seed := s.sec.seed, half := s.sec.half, tampers := s.sec.tampers },
      pw := { Pw.reset with clkLoss := s.pw.clkLoss } } :=
    ⟨hs.1, { regs := trivial, mem := (smWfB_iff _).2 (smWf_filter (keep_wfMem hs) _), ecc := trivial, seqs := rfl, peers := rfl,
             harts := rfl, cams := rfl, pipes := rfl, gens := rfl, queues := rfl, keys := hs.2.keys, sec := Nat.two_pow_pos 48,
             ns := Nat.zero_lt_succ _, frac := Nat.zero_lt_succ _ }⟩
  unfold State.restart
  have h2 := keep_foldl (l := fuseFlds) (f := fun (r : State) f => r.wf f (s.rf f)) (fun _ _ h => keep_wf h) h1
  split
  · exact keep_wf h2
  · exact h2

theorem keep_turnOff {s : State} (hs : Keep pq s) : Keep pq (State.turnOff s) := by
  unfold State.turnOff
  repeat' first
    | with_reducible assumption
    | (extract_lets +onlyGivenNames -underBinder x; (refine (fun (hx : Keep pq x) => ?_) ?_; generalize x = y at hx ⊢; clear x; rotate_left; unfold x; clear x; rotate_right))
    | with_reducible refine keep_restart ?_
    | with_reducible refine keep_of ?_

theorem keep_settleN {s : State} {n : Nat} (hs : Keep pq s) : Keep pq (s.settleN n) := by
  induction n generalizing s with
  | zero => exact hs
  | succ n ih => exact ih (keep_faultRecord hs)

theorem keep_settle {s : State} (hs : Keep pq s) : Keep pq (State.settle s) := by
  unfold State.settle
  repeat' first
    | with_reducible assumption
    | with_reducible refine keep_settleN ?_

end Sys2Proof.Machine
end

