-- ==== Sys2Proof/Laws/KeepImage.lean ====
section
/-! SUPPORT. Every operation and meaning of Machine/Image.lean keeps a sound state sound and the queue as it is. -/

namespace Sys2Proof.Machine
open Sys2Proof
set_option Elab.async false
set_option linter.all false

variable {pq : List Instr}

theorem keep_program {s : State} {k : Nat} {bs : List Byte} (hs : Keep pq s) : Keep pq (State.program s k bs) := by
  unfold State.program
  repeat' first
    | with_reducible assumption
    | with_reducible refine keep_wrN ?_

theorem keep_rejectSlot {s : State} {d : Nat} (hs : Keep pq s) : Keep pq (State.rejectSlot s d) := by
  unfold State.rejectSlot
  repeat' first
    | with_reducible assumption
    | with_reducible refine keep_program ?_

theorem keep_imgReject {s : State} {d : Nat} {cause : Nat} {typ : Nat} {idx : Nat} (hs : Keep pq s) : Keep pq (State.imgReject s d cause typ idx) := by
  unfold State.imgReject
  repeat' first
    | with_reducible assumption
    | with_reducible refine keep_send ?_
    | with_reducible refine keep_settle ?_

theorem keep_reportSlot {s : State} {d : Nat} (hs : Keep pq s) : Keep pq (State.reportSlot s d) := by
  unfold State.reportSlot
  repeat' first
    | with_reducible assumption
    | (extract_lets +onlyGivenNames -underBinder x; (refine (fun (hx : Keep pq x) => ?_) ?_; generalize x = y at hx ⊢; clear x; rotate_left; unfold x; clear x; rotate_right))
    | split
    | with_reducible refine keep_imgReject ?_
    | with_reducible refine keep_send ?_
    | with_reducible refine keep_settle ?_

end Sys2Proof.Machine
end

