-- ==== Sys2Proof/Laws/KeepScales.lean ====
section
/-! SUPPORT. Every operation and meaning of Machine/Scales.lean keeps a sound state sound and the queue as it is. -/

namespace Sys2Proof.Machine
open Sys2Proof
set_option Elab.async false
set_option linter.all false

variable {pq : List Instr}

theorem keep_setTrack {s : State} {e : List Byte} {k : Int} {low : Nat} (hs : Keep pq s) : Keep pq (State.setTrack s e k low) := by
  unfold State.setTrack
  repeat' first
    | with_reducible assumption
    | with_reducible refine keep_store ?_
    | split

theorem keep_zeroStat {s : State} {e : List Byte} (hs : Keep pq s) : Keep pq (State.zeroStat s e) := by
  unfold State.zeroStat
  repeat' first
    | with_reducible assumption
    | with_reducible refine keep_store ?_

theorem keep_adaptOne {s : State} {i : Nat} {e : List Byte} (hs : Keep pq s) : Keep pq (State.adaptOne s i e) := by
  unfold State.adaptOne
  repeat' first
    | with_reducible assumption
    | (extract_lets +onlyGivenNames -underBinder x; (first | (refine (fun (hx : Keep pq x) => ?_) ?_; generalize x = y at hx ⊢; clear x; rotate_left; unfold x; clear x; rotate_right) | (have _h : Option _ := x; clear _h; generalize x = y; clear x) | (revert x; intro _)))
    | split
    | with_reducible refine keep_addCard ?_
    | with_reducible refine keep_load ?_
    | with_reducible refine keep_send ?_
    | with_reducible refine keep_setTrack ?_
    | with_reducible refine keep_zeroStat ?_
    | with_reducible refine keep_eq3 ‹_› ?_
    | dsimp -zeta only

theorem keep_phase1 {s : State} {allEnded : Bool} (hs : Keep pq s) : Keep pq (State.phase1 s allEnded) := by
  unfold State.phase1
  repeat' first
    | with_reducible assumption
    | (extract_lets +onlyGivenNames -underBinder x; (first | (have _h : Option _ := x; clear _h; generalize x = y; clear x) | (revert x; intro _)))
    | with_reducible refine keep_adaptOne ?_
    | with_reducible refine keep_foldl ?_ ?_
    | (intro _; intros)
    | split
    | with_reducible refine keep_of ?_

theorem keep_zeroSkipped {s : State} (hs : Keep pq s) : Keep pq (State.zeroSkipped s) := by
  unfold State.zeroSkipped
  repeat' first
    | with_reducible assumption
    | (extract_lets +onlyGivenNames -underBinder x; (first | (refine (fun (hx : Keep pq x) => ?_) ?_; generalize x = y at hx ⊢; clear x; rotate_left; unfold x; clear x; rotate_right) | (have _h : Option _ := x; clear _h; generalize x = y; clear x) | (revert x; intro _)))
    | with_reducible refine keep_zeroStat ?_
    | with_reducible refine keep_foldl ?_ ?_
    | (intro _; intros)
    | split
    | with_reducible refine keep_of ?_

theorem keep_patchSite {s : State} {p : Nat} {k : Int} {e : List Byte} (hs : Keep pq s) : Keep pq (State.patchSite s p k e) := by
  unfold State.patchSite
  repeat' first
    | with_reducible assumption
    | (extract_lets +onlyGivenNames -underBinder x; (first | (have _h : Option _ := x; clear _h; generalize x = y; clear x) | (revert x; intro _)))
    | split
    | with_reducible refine keep_load ?_
    | with_reducible refine keep_store ?_
    | with_reducible refine keep_foldl ?_ ?_
    | (intro _; intros)
    | with_reducible refine keep_eq3 ‹_› ?_
    | dsimp -zeta only

theorem keep_patchCore {s : State} {n : Nat} {p : Nat} {plan : Nat} (hs : Keep pq s) : Keep pq (State.patchCore s n p plan) := by
  unfold State.patchCore
  repeat' first
    | with_reducible assumption
    | (extract_lets +onlyGivenNames -underBinder x; (first | (have _h : Option _ := x; clear _h; generalize x = y; clear x) | (revert x; intro _)))
    | with_reducible refine keep_patchSite ?_
    | with_reducible refine keep_foldl ?_ ?_
    | (intro _; intros)
    | split

theorem keep_resetScales {s : State} {plan : Nat} {which : Nat → Bool} (hs : Keep pq s) : Keep pq (State.resetScales s plan which) := by
  unfold State.resetScales
  repeat' first
    | with_reducible assumption
    | with_reducible refine keep_setTrack ?_
    | with_reducible refine keep_foldl ?_ ?_
    | (intro _; intros)
    | split

theorem keep_execScalePhase2 {s : State} (hs : Keep pq s) : KeepO pq (execScalePhase2 s) := by
  unfold execScalePhase2
  repeat' first
    | with_reducible assumption
    | with_reducible refine keepO_next ?_
    | (extract_lets +onlyGivenNames -underBinder x; (first | (refine (fun (hx : Keep pq x) => ?_) ?_; generalize x = y at hx ⊢; clear x; rotate_left; unfold x; clear x; rotate_right) | (have _h : Option _ := x; clear _h; generalize x = y; clear x) | (revert x; intro _)))
    | with_reducible refine keep_advanceTo ?_
    | with_reducible refine keep_patchCore ?_
    | with_reducible refine keep_foldl ?_ ?_
    | (intro _; intros)
    | split
    | with_reducible refine keep_of ?_

theorem keep_loadCore {s : State} {n : Nat} {p : Nat} {plan : Nat} (hs : Keep pq s) : Keep pq (State.loadCore s n p plan) := by
  unfold State.loadCore
  repeat' first
    | with_reducible assumption
    | (extract_lets +onlyGivenNames -underBinder x; (first | (refine (fun (hx : Keep pq x) => ?_) ?_; generalize x = y at hx ⊢; clear x; rotate_left; unfold x; clear x; rotate_right) | (have _h : Option _ := x; clear _h; generalize x = y; clear x) | (revert x; intro _)))
    | with_reducible refine keep_patchCore ?_
    | with_reducible refine keep_store ?_
    | with_reducible refine keep_foldl ?_ ?_
    | (intro _; intros)
    | with_reducible refine keep_of ?_

theorem keep_execRemapLoadDone {core : Fin 64} {s : State} (hs : Keep pq s) : KeepO pq (execRemapLoadDone core s) := by
  unfold execRemapLoadDone
  repeat' first
    | with_reducible assumption
    | with_reducible refine keepO_next ?_
    | (extract_lets +onlyGivenNames -underBinder x; (first | (refine (fun (hx : Keep pq x) => ?_) ?_; generalize x = y at hx ⊢; clear x; rotate_left; unfold x; clear x; rotate_right) | (have _h : Option _ := x; clear _h; generalize x = y; clear x) | (revert x; intro _)))
    | with_reducible refine keep_loadCore ?_
    | with_reducible refine keep_wf ?_
    | split
    | with_reducible refine keep_of ?_

theorem keep_execPlanReload {s : State} (hs : Keep pq s) : KeepO pq (execPlanReload s) := by
  unfold execPlanReload
  repeat' first
    | with_reducible assumption
    | with_reducible refine keepO_next ?_
    | (extract_lets +onlyGivenNames -underBinder x; (first | (refine (fun (hx : Keep pq x) => ?_) ?_; generalize x = y at hx ⊢; clear x; rotate_left; unfold x; clear x; rotate_right) | (have _h : Option _ := x; clear _h; generalize x = y; clear x) | (revert x; intro _)))
    | with_reducible refine keep_advanceTo ?_
    | split
    | with_reducible refine keep_of ?_

theorem keep_execPlanReloadDone {core : Fin 64} {s : State} (hs : Keep pq s) : KeepO pq (execPlanReloadDone core s) := by
  unfold execPlanReloadDone
  split
  · exact keepO_next hs
  · refine keepO_next (keep_of (keep_loadCore ?_))
    split
    · exact hs
    · exact keep_resetScales hs

end Sys2Proof.Machine
end

