-- ==== Sys2Proof/Laws/KeepSecurity.lean ====
section
/-! SUPPORT. Every operation and meaning of Machine/Security.lean keeps a sound state sound and the queue as it is. -/

namespace Sys2Proof.Machine
open Sys2Proof
set_option Elab.async false
set_option linter.all false

variable {pq : List Instr}

theorem keep_execPhaseMismatch {clock : Fin 6} {s : State} (hs : Keep pq s) : KeepO pq (execPhaseMismatch clock s) := by
  unfold execPhaseMismatch
  repeat' first
    | with_reducible assumption
    | with_reducible refine keepO_next ?_
    | with_reducible refine keep_send ?_
    | with_reducible refine keep_wf ?_
    | split

theorem keep_endUnlock {s : State} (hs : Keep pq s) : Keep pq (State.endUnlock s) := by
  unfold State.endUnlock
  repeat' first
    | with_reducible assumption
    | (extract_lets +onlyGivenNames -underBinder x; (first | (refine (fun (hx : Keep pq x) => ?_) ?_; generalize x = y at hx ⊢; clear x; rotate_left; unfold x; clear x; rotate_right) | (have _h : Option _ := x; clear _h; generalize x = y; clear x) | (revert x; intro _)))
    | with_reducible refine keep_wf ?_
    | with_reducible refine keep_of ?_

theorem keep_secDone {s : State} {code : Nat} (hs : Keep pq s) : Keep pq (State.secDone s code) := by
  unfold State.secDone
  repeat' first
    | with_reducible assumption
    | with_reducible refine keep_wf ?_

theorem keep_signEnd {s : State} {code : Nat} {len : Nat} (hs : Keep pq s) : Keep pq (State.signEnd s code len) := by
  unfold State.signEnd
  repeat' first
    | with_reducible assumption
    | (extract_lets +onlyGivenNames -underBinder x; (first | (refine (fun (hx : Keep pq x) => ?_) ?_; generalize x = y at hx ⊢; clear x; rotate_left; unfold x; clear x; rotate_right) | (have _h : Option _ := x; clear _h; generalize x = y; clear x) | (revert x; intro _)))
    | with_reducible refine keep_secDone ?_
    | with_reducible refine keep_send ?_
    | with_reducible refine keep_wf ?_
    | split
    | with_reducible refine keep_of ?_

theorem keep_wipeLocket {s : State} (hs : Keep pq s) : Keep pq (State.wipeLocket s) := by
  unfold State.wipeLocket
  repeat' first
    | with_reducible assumption
    | (extract_lets +onlyGivenNames -underBinder x; (refine (fun (hx : Keep pq x) => ?_) ?_; generalize x = y at hx ⊢; clear x; rotate_left; unfold x; clear x; rotate_right))
    | with_reducible refine keep_signEnd ?_
    | with_reducible refine keep_wf ?_
    | with_reducible refine keep_zeroRange ?_

theorem keep_newChallenge {s : State} (hs : Keep pq s) : Keep pq (State.newChallenge s) := by
  unfold State.newChallenge
  repeat' first
    | with_reducible assumption
    | (extract_lets +onlyGivenNames -underBinder x; (first | (have _h : Option _ := x; clear _h; generalize x = y; clear x) | (revert x; intro _)))
    | with_reducible refine keep_wf ?_
    | with_reducible refine keep_foldl ?_ ?_
    | (intro _; intros)

theorem keep_token {s : State} {typ : Nat} {slots : List Nat} (hs : Keep pq s) : Keep pq (State.token s typ slots).2 := by
  unfold State.token
  repeat' first
    | with_reducible assumption
    | (extract_lets +onlyGivenNames -underBinder x; (first | (refine (fun (hx : Keep pq x) => ?_) ?_; generalize x = y at hx ⊢; clear x; rotate_left; unfold x; clear x; rotate_right) | (have _h : Option _ := x; clear _h; generalize x = y; clear x) | (revert x; intro _)))
    | with_reducible refine keep_newChallenge ?_
    | with_reducible refine keep_send ?_
    | with_reducible refine keep_wf ?_
    | split

theorem keep_secCmd {s : State} {req : Requester} {mmode : Bool} {f : State → State} (hs : Keep pq s) (hf : ∀ s, Keep pq s → Keep pq (f s)) : Keep pq (State.secCmd s req mmode f) := by
  unfold State.secCmd
  repeat' first
    | with_reducible assumption
    | with_reducible refine hf _ ?_
    | with_reducible refine keep_cmdWrite ?_ ?_
    | with_reducible refine keep_deny ?_
    | with_reducible refine keep_wf ?_
    | (intro _; intros)
    | split

theorem keep_attest {s : State} {a1 : Nat} {rq : List Byte} (hs : Keep pq s) : Keep pq (State.attest s a1 rq).2 := by
  unfold State.attest
  repeat' first
    | with_reducible assumption
    | (extract_lets +onlyGivenNames -underBinder x; (first | (have _h : Option _ := x; clear _h; generalize x = y; clear x) | (revert x; intro _)))
    | with_reducible refine keep_send ?_
    | with_reducible refine keep_wf ?_
    | split
    | with_reducible refine keep_of ?_

theorem keep_execSecAttest {req : Requester} {mmode : Bool} {s : State} (hs : Keep pq s) : KeepO pq (execSecAttest req mmode s) := by
  unfold execSecAttest
  repeat' first
    | with_reducible assumption
    | with_reducible refine keepO_next ?_
    | split
    | with_reducible refine keep_attest ?_
    | with_reducible refine keep_secCmd ?_ ?_
    | with_reducible refine keep_secDone ?_
    | with_reducible refine keep_wf ?_
    | (intro _; intros)
    | with_reducible refine keep_eq2 ‹_› ?_
    | dsimp -zeta only

theorem keep_execSigningDone {dt : Nat} {s : State} (hs : Keep pq s) : KeepO pq (execSigningDone dt s) := by
  unfold execSigningDone
  repeat' first
    | with_reducible assumption
    | with_reducible refine keepO_next ?_
    | (extract_lets +onlyGivenNames -underBinder x; (first | (refine (fun (hx : Keep pq x) => ?_) ?_; generalize x = y at hx ⊢; clear x; rotate_left; unfold x; clear x; rotate_right) | (have _h : Option _ := x; clear _h; generalize x = y; clear x) | (revert x; intro _)))
    | with_reducible refine keep_advance ?_
    | with_reducible refine keep_signEnd ?_
    | with_reducible refine keep_wrN ?_
    | split

theorem keep_execUnlock {req : Requester} {mmode : Bool} {s : State} (hs : Keep pq s) : KeepO pq (execUnlock req mmode s) := by
  unfold execUnlock
  repeat' first
    | with_reducible assumption
    | with_reducible refine keepO_next ?_
    | (extract_lets +onlyGivenNames -underBinder x; (first | (refine (fun (hx : Keep pq x) => ?_) ?_; generalize x = y at hx ⊢; clear x; rotate_left; unfold x; clear x; rotate_right) | (have _h : Option _ := x; clear _h; generalize x = y; clear x) | (revert x; intro _)))
    | split
    | with_reducible refine keep_secCmd ?_ ?_
    | with_reducible refine keep_secDone ?_
    | with_reducible refine keep_send ?_
    | with_reducible refine keep_token ?_
    | with_reducible refine keep_wf ?_
    | (intro _; intros)
    | with_reducible refine keep_eq2 ‹_› ?_
    | with_reducible refine keep_of ?_
    | dsimp -zeta only

theorem keep_execLcTransition {req : Requester} {mmode : Bool} {s : State} (hs : Keep pq s) : KeepO pq (execLcTransition req mmode s) := by
  unfold execLcTransition
  repeat' first
    | with_reducible assumption
    | with_reducible refine keepO_next ?_
    | (extract_lets +onlyGivenNames -underBinder x; (first | (refine (fun (hx : Keep pq x) => ?_) ?_; generalize x = y at hx ⊢; clear x; rotate_left; unfold x; clear x; rotate_right) | (have _h : Option _ := x; clear _h; generalize x = y; clear x) | (revert x; intro _)))
    | split
    | with_reducible refine keep_endUnlock ?_
    | with_reducible refine keep_secCmd ?_ ?_
    | with_reducible refine keep_secDone ?_
    | with_reducible refine keep_send ?_
    | with_reducible refine keep_token ?_
    | with_reducible refine keep_wipeLocket ?_
    | (intro _; intros)
    | with_reducible refine keep_eq2 ‹_› ?_
    | with_reducible refine keep_of ?_
    | dsimp -zeta only

theorem keep_programKey {s : State} {k : Nat} {pk : List Byte} (hs : Keep pq s) : Keep pq (State.programKey s k pk) := by
  unfold State.programKey
  repeat' first
    | with_reducible assumption
    | (extract_lets +onlyGivenNames -underBinder x; (first | (have _h : Option _ := x; clear _h; generalize x = y; clear x) | (revert x; intro _)))
    | with_reducible refine keep_wf ?_
    | with_reducible refine keep_of ?_

theorem keep_execOwnerKey {req : Requester} {mmode : Bool} {s : State} (hs : Keep pq s) : KeepO pq (execOwnerKey req mmode s) := by
  unfold execOwnerKey
  repeat' first
    | with_reducible assumption
    | with_reducible refine keepO_next ?_
    | (extract_lets +onlyGivenNames -underBinder x; (first | (have _h : Option _ := x; clear _h; generalize x = y; clear x) | (revert x; intro _)))
    | split
    | with_reducible refine keep_programKey ?_
    | with_reducible refine keep_secCmd ?_ ?_
    | with_reducible refine keep_secDone ?_
    | with_reducible refine keep_token ?_
    | with_reducible refine keep_wf ?_
    | (intro _; intros)
    | with_reducible refine keep_eq2 ‹_› ?_
    | dsimp -zeta only

theorem keep_arbNext {s : State} (hs : Keep pq s) : Keep pq (State.arbNext s) := by
  unfold State.arbNext
  repeat' first
    | with_reducible assumption
    | (extract_lets +onlyGivenNames -underBinder x; (first | (have _h : Option _ := x; clear _h; generalize x = y; clear x) | (revert x; intro _)))
    | with_reducible refine keep_secDone ?_
    | with_reducible refine keep_wf ?_
    | split
    | with_reducible refine keep_of ?_

theorem keep_execAdvanceArb {req : Requester} {mmode : Bool} {s : State} (hs : Keep pq s) : KeepO pq (execAdvanceArb req mmode s) := by
  unfold execAdvanceArb
  repeat' first
    | with_reducible assumption
    | with_reducible refine keepO_next ?_
    | with_reducible refine keep_arbNext ?_
    | with_reducible refine keep_secCmd ?_ ?_
    | with_reducible refine keep_secDone ?_
    | (intro _; intros)
    | split

theorem keep_arbBurn {s : State} (hs : Keep pq s) : Keep pq (State.arbBurn s) := by
  unfold State.arbBurn
  repeat' first
    | with_reducible assumption
    | (extract_lets +onlyGivenNames -underBinder x; (first | (refine (fun (hx : Keep pq x) => ?_) ?_; generalize x = y at hx ⊢; clear x; rotate_left; unfold x; clear x; rotate_right) | (have _h : Option _ := x; clear _h; generalize x = y; clear x) | (revert x; intro _)))
    | with_reducible refine keep_bump ?_
    | split
    | with_reducible refine keep_of ?_

theorem keep_execArbStepDone {s : State} (hs : Keep pq s) : KeepO pq (execArbStepDone s) := by
  unfold execArbStepDone
  repeat' first
    | with_reducible assumption
    | with_reducible refine keepO_next ?_
    | with_reducible refine keep_advanceTo ?_
    | with_reducible refine keep_arbBurn ?_
    | with_reducible refine keep_arbNext ?_
    | split

theorem keep_execTamperTrip {monitor : Fin 3} {s : State} (hs : Keep pq s) : KeepO pq (execTamperTrip monitor s) := by
  unfold execTamperTrip
  repeat' first
    | with_reducible assumption
    | with_reducible refine keepO_next ?_
    | (extract_lets +onlyGivenNames -underBinder x; (first | (refine (fun (hx : Keep pq x) => ?_) ?_; generalize x = y at hx ⊢; clear x; rotate_left; unfold x; clear x; rotate_right) | (have _h : Option _ := x; clear _h; generalize x = y; clear x) | (revert x; intro _)))
    | with_reducible refine keep_bump ?_
    | with_reducible refine keep_send ?_
    | with_reducible refine keep_wf ?_
    | with_reducible refine keep_wipeLocket ?_
    | split
    | with_reducible refine keep_of ?_

theorem keep_locketRead {s : State} {req : Requester} {mmode : Bool} (hs : Keep pq s) : Keep pq (State.locketRead s req mmode) := by
  unfold State.locketRead
  repeat' first
    | with_reducible assumption
    | (extract_lets +onlyGivenNames -underBinder x; (first | (have _h : Option _ := x; clear _h; generalize x = y; clear x) | (revert x; intro _)))
    | with_reducible refine keep_busError ?_
    | with_reducible refine keep_ocmAccess ?_
    | with_reducible refine keep_out ?_
    | with_reducible refine keep_wf ?_
    | split

theorem keep_execLocketDataRead {req : Requester} {mmode : Bool} {s : State} (hs : Keep pq s) : KeepO pq (execLocketDataRead req mmode s) := by
  unfold execLocketDataRead
  repeat' first
    | with_reducible assumption
    | with_reducible refine keepO_next ?_
    | with_reducible refine keep_locketRead ?_

theorem keep_execFactoryJtagTransition {grade : Fin 3} {serial : BitVec 14} {mac : BitVec 48} {seed key0 key1 : List Byte} {s : State}
    (hs : Keep pq s) : KeepO pq (execFactoryJtagTransition grade serial mac seed key0 key1 s) := by
  unfold execFactoryJtagTransition
  split
  · exact keepO_next hs
  · have h := keep_wipeLocket hs
    exact keepO_next (keep_wf (keep_wf (keep_wf (keep_wf (keep_wf (keep_wf (keep_wf (keep_of h (h8 := h.2.keys.symm)))))))))

end Sys2Proof.Machine
end

