-- ==== Sys2Proof/Laws/KeepSelftest.lean ====
section
/-! SUPPORT. Every operation and meaning of Machine/Selftest.lean keeps a sound state sound and the queue as it is. -/

namespace Sys2Proof.Machine
open Sys2Proof
set_option Elab.async false
set_option linter.all false

variable {pq : List Instr}

theorem keep_refuseRequest {s : State} {reason : Nat} {kind : Nat} (hs : Keep pq s) : Keep pq (State.refuseRequest s reason kind) := by
  unfold State.refuseRequest
  repeat' first
    | with_reducible assumption
    | with_reducible refine keep_send ?_

theorem keep_setQueue {s : State} {l : List TestReq} (hs : Keep pq s) : Keep pq (State.setQueue s l) := by
  unfold State.setQueue
  repeat' first
    | with_reducible assumption
    | (extract_lets +onlyGivenNames -underBinder x; (first | (have _h : Option _ := x; clear _h; generalize x = y; clear x) | (revert x; intro _)))
    | with_reducible refine keep_wf ?_
    | with_reducible refine keep_of ?_

theorem keep_setUnitT {s : State} {t : UnitT} (hs : Keep pq s) : Keep pq (State.setUnitT s t) := by
  unfold State.setUnitT
  repeat' first
    | with_reducible assumption
    | (extract_lets +onlyGivenNames -underBinder x; (first | (have _h : Option _ := x; clear _h; generalize x = y; clear x) | (revert x; intro _)))
    | with_reducible refine keep_of ?_

theorem keep_queueExt {s : State} {k : Nat} (hs : Keep pq s) : Keep pq (State.queueExt s k) := by
  unfold State.queueExt
  repeat' first
    | with_reducible assumption
    | (extract_lets +onlyGivenNames -underBinder x; (first | (have _h : Option _ := x; clear _h; generalize x = y; clear x) | (revert x; intro _)))
    | with_reducible refine keep_setUnitT ?_

theorem keep_request {s : State} {r : TestReq} (hs : Keep pq s) : Keep pq (State.request s r) := by
  unfold State.request
  repeat' first
    | with_reducible assumption
    | (extract_lets +onlyGivenNames -underBinder x; (first | (have _h : Option _ := x; clear _h; generalize x = y; clear x) | (revert x; intro _)))
    | with_reducible refine keep_queueExt ?_
    | with_reducible refine keep_refuseRequest ?_
    | with_reducible refine keep_setQueue ?_
    | with_reducible refine keep_foldl ?_ ?_
    | (intro _; intros)
    | split

theorem keep_requestWrite {s : State} {req : Requester} {mmode : Bool} {f : State → State} (hs : Keep pq s) (hf : ∀ s, Keep pq s → Keep pq (f s)) : Keep pq (State.requestWrite s req mmode f) := by
  unfold State.requestWrite
  repeat' first
    | with_reducible assumption
    | with_reducible refine hf _ ?_
    | with_reducible refine keep_cmdWrite ?_ ?_
    | with_reducible refine keep_deny ?_
    | (intro _; intros)
    | split

theorem keep_execStrandExtendedRequest {req : Requester} {mmode : Bool} {target : BitVec 7} {s : State} (hs : Keep pq s) : KeepO pq (execStrandExtendedRequest req mmode target s) := by
  unfold execStrandExtendedRequest
  repeat' first
    | with_reducible assumption
    | with_reducible refine keepO_next ?_
    | with_reducible refine keep_request ?_
    | with_reducible refine keep_requestWrite ?_ ?_
    | (intro _; intros)

theorem keep_execUnitExtendedRequest {req : Requester} {mmode : Bool} {target : BitVec 7} {s : State} (hs : Keep pq s) : KeepO pq (execUnitExtendedRequest req mmode target s) := by
  unfold execUnitExtendedRequest
  repeat' first
    | with_reducible assumption
    | with_reducible refine keepO_next ?_
    | with_reducible refine keep_request ?_
    | with_reducible refine keep_requestWrite ?_ ?_
    | (intro _; intros)

theorem keep_execStationExtendedRequest {req : Requester} {mmode : Bool} {detect : Bool} {target : BitVec 7} {s : State} (hs : Keep pq s) : KeepO pq (execStationExtendedRequest req mmode detect target s) := by
  unfold execStationExtendedRequest
  repeat' first
    | with_reducible assumption
    | with_reducible refine keepO_next ?_
    | with_reducible refine keep_request ?_
    | with_reducible refine keep_requestWrite ?_ ?_
    | (intro _; intros)

theorem keep_retire {s : State} {p : Nat} {e : Nat} {k : Nat} (hs : Keep pq s) : Keep pq (State.retire s p e k) := by
  unfold State.retire
  repeat' first
    | with_reducible assumption
    | (extract_lets +onlyGivenNames -underBinder x; (first | (refine (fun (hx : Keep pq x) => ?_) ?_; generalize x = y at hx ⊢; clear x; rotate_left; unfold x; clear x; rotate_right) | (have _h : Option _ := x; clear _h; generalize x = y; clear x) | (revert x; intro _)))
    | with_reducible refine keep_setEng ?_
    | with_reducible refine keep_wf ?_
    | split
    | with_reducible refine keep_of ?_

theorem keep_strandFail {s : State} {p : Nat} {e : Nat} {k : Nat} {group : Nat} (hs : Keep pq s) : Keep pq (State.strandFail s p e k group) := by
  unfold State.strandFail
  repeat' first
    | with_reducible assumption
    | with_reducible refine keep_bump ?_
    | with_reducible refine keep_retire ?_
    | with_reducible refine keep_send ?_

theorem keep_execRetirementMapWritten {s : State} (hs : Keep pq s) : KeepO pq (execRetirementMapWritten s) := by
  unfold execRetirementMapWritten
  repeat' first
    | with_reducible assumption
    | with_reducible refine keepO_next ?_
    | (extract_lets +onlyGivenNames -underBinder x; (first | (have _h : Option _ := x; clear _h; generalize x = y; clear x) | (revert x; intro _)))
    | with_reducible refine keep_wrN ?_
    | split
    | with_reducible refine keep_of ?_

theorem keep_execSwapComplete {engine : BitVec 16} {s : State} (hs : Keep pq s) : KeepO pq (execSwapComplete engine s) := by
  unfold execSwapComplete
  repeat' first
    | with_reducible assumption
    | with_reducible refine keepO_next ?_
    | (extract_lets +onlyGivenNames -underBinder x; (first | (refine (fun (hx : Keep pq x) => ?_) ?_; generalize x = y at hx ⊢; clear x; rotate_left; unfold x; clear x; rotate_right) | (have _h : Option _ := x; clear _h; generalize x = y; clear x) | (revert x; intro _)))
    | with_reducible refine keep_advanceTo ?_
    | with_reducible refine keep_endJob ?_
    | with_reducible refine keep_wf ?_
    | split
    | with_reducible refine keep_of ?_

theorem keep_turnsDone {s : State} {p : Nat} (hs : Keep pq s) : Keep pq (State.turnsDone s p) := by
  unfold State.turnsDone
  repeat' first
    | with_reducible assumption
    | (extract_lets +onlyGivenNames -underBinder x; (first | (refine (fun (hx : Keep pq x) => ?_) ?_; generalize x = y at hx ⊢; clear x; rotate_left; unfold x; clear x; rotate_right) | (have _h : Option _ := x; clear _h; generalize x = y; clear x) | (revert x; intro _)))
    | with_reducible refine keep_setQueue ?_
    | split
    | with_reducible refine keep_of ?_

theorem keep_takeSeg {s : State} {k : Nat} (hs : Keep pq s) : Keep pq (State.takeSeg s k) := by
  unfold State.takeSeg
  repeat' first
    | with_reducible assumption
    | (extract_lets +onlyGivenNames -underBinder x; (first | (have _h : Option _ := x; clear _h; generalize x = y; clear x) | (revert x; intro _)))
    | with_reducible refine keep_setUnitT ?_
    | split

theorem keep_openWindow {s : State} {k : Nat} {winEnd : Nat} (hs : Keep pq s) : Keep pq (State.openWindow s k winEnd) := by
  unfold State.openWindow
  repeat' first
    | with_reducible assumption
    | (extract_lets +onlyGivenNames -underBinder x; (first | (have _h : Option _ := x; clear _h; generalize x = y; clear x) | (revert x; intro _)))
    | with_reducible refine keep_setUnitT ?_
    | with_reducible refine keep_takeSeg ?_

theorem keep_execRecess {core : Fin 64} {s : State} (hs : Keep pq s) : KeepO pq (execRecess core s) := by
  unfold execRecess
  repeat' first
    | with_reducible assumption
    | with_reducible refine keepO_next ?_
    | (extract_lets +onlyGivenNames -underBinder x; (first | (refine (fun (hx : Keep pq x) => ?_) ?_; generalize x = y at hx ⊢; clear x; rotate_left; unfold x; clear x; rotate_right) | (have _h : Option _ := x; clear _h; generalize x = y; clear x) | (revert x; intro _)))
    | split
    | with_reducible refine keep_issue ?_
    | with_reducible refine keep_openWindow ?_
    | with_reducible refine keep_startJob ?_
    | with_reducible refine keep_foldl ?_ ?_
    | (intro _; intros)
    | with_reducible refine keep_eq2 ‹_› ?_
    | dsimp -zeta only

theorem keep_execRecessEnd {core : Fin 64} {s : State} (hs : Keep pq s) : KeepO pq (execRecessEnd core s) := by
  unfold execRecessEnd
  repeat' first
    | with_reducible assumption
    | with_reducible refine keepO_next ?_
    | (extract_lets +onlyGivenNames -underBinder x; (first | (refine (fun (hx : Keep pq x) => ?_) ?_; generalize x = y at hx ⊢; clear x; rotate_left; unfold x; clear x; rotate_right) | (have _h : Option _ := x; clear _h; generalize x = y; clear x) | (revert x; intro _)))
    | with_reducible refine keep_advanceTo ?_
    | with_reducible refine keep_setUnitT ?_
    | with_reducible refine keep_foldl ?_ ?_
    | (intro _; intros)
    | split
    | with_reducible refine keep_of ?_

theorem keep_segFail {s : State} {u : Nat} {i : Nat} {seg : Nat} (hs : Keep pq s) : Keep pq (State.segFail s u i seg) := by
  unfold State.segFail
  repeat' first
    | with_reducible assumption
    | (extract_lets +onlyGivenNames -underBinder x; (first | (refine (fun (hx : Keep pq x) => ?_) ?_; generalize x = y at hx ⊢; clear x; rotate_left; unfold x; clear x; rotate_right) | (have _h : Option _ := x; clear _h; generalize x = y; clear x) | (revert x; intro _)))
    | with_reducible refine keep_bump ?_
    | with_reducible refine keep_send ?_
    | split
    | with_reducible refine keep_of ?_

theorem keep_extDone {s : State} (hs : Keep pq s) : Keep pq (State.extDone s) := by
  unfold State.extDone
  repeat' first
    | with_reducible assumption
    | with_reducible refine keep_setQueue ?_

theorem keep_execUnitSegmentDone {unit : Fin 6} {index : Fin 66} {pass : Bool} {s : State} (hs : Keep pq s) : KeepO pq (execUnitSegmentDone unit index pass s) := by
  unfold execUnitSegmentDone
  repeat' first
    | with_reducible assumption
    | with_reducible refine keepO_next ?_
    | (extract_lets +onlyGivenNames -underBinder x; (first | (refine (fun (hx : Keep pq x) => ?_) ?_; generalize x = y at hx ⊢; clear x; rotate_left; unfold x; clear x; rotate_right) | (have _h : Option _ := x; clear _h; generalize x = y; clear x) | (revert x; intro _)))
    | with_reducible refine keep_advanceTo ?_
    | with_reducible refine keep_extDone ?_
    | with_reducible refine keep_segFail ?_
    | with_reducible refine keep_setUnitT ?_
    | with_reducible refine keep_takeSeg ?_
    | split

theorem keep_badObject {s : State} {cause : Nat} {o : Nat} (hs : Keep pq s) : Keep pq (State.badObject s cause o) := by
  unfold State.badObject
  repeat' first
    | with_reducible assumption
    | (extract_lets +onlyGivenNames -underBinder x; (first | (refine (fun (hx : Keep pq x) => ?_) ?_; generalize x = y at hx ⊢; clear x; rotate_left; unfold x; clear x; rotate_right) | (have _h : Option _ := x; clear _h; generalize x = y; clear x) | (revert x; intro _)))
    | with_reducible refine keep_send ?_
    | with_reducible refine keep_wf ?_
    | split
    | with_reducible refine keep_of ?_

theorem keep_execWeightDigestCheck {s : State} (hs : Keep pq s) : KeepO pq (execWeightDigestCheck s) := by
  unfold execWeightDigestCheck
  repeat' first
    | with_reducible assumption
    | with_reducible refine keepO_next ?_
    | (extract_lets +onlyGivenNames -underBinder x; (first | (refine (fun (hx : Keep pq x) => ?_) ?_; generalize x = y at hx ⊢; clear x; rotate_left; unfold x; clear x; rotate_right) | (have _h : Option _ := x; clear _h; generalize x = y; clear x) | (revert x; intro _)))
    | split
    | with_reducible refine keep_absorb ?_
    | with_reducible refine keep_badObject ?_
    | with_reducible refine keep_bump ?_
    | with_reducible refine keep_fetch ?_
    | with_reducible refine keep_wf ?_
    | with_reducible refine keep_eq3 ‹_› ?_
    | with_reducible refine keep_of ?_
    | dsimp -zeta only

theorem keep_coverageMissed {s : State} {src : Nat} {u : Nat} {p : Nat} {i : Nat} (hs : Keep pq s) : Keep pq (State.coverageMissed s src u p i) := by
  unfold State.coverageMissed
  repeat' first
    | with_reducible assumption
    | with_reducible refine keep_bump ?_
    | with_reducible refine keep_send ?_

theorem keep_execDigestPassTimeout {s : State} (hs : Keep pq s) : KeepO pq (execDigestPassTimeout s) := by
  unfold execDigestPassTimeout
  repeat' first
    | with_reducible assumption
    | with_reducible refine keepO_next ?_
    | (extract_lets +onlyGivenNames -underBinder x; (first | (refine (fun (hx : Keep pq x) => ?_) ?_; generalize x = y at hx ⊢; clear x; rotate_left; unfold x; clear x; rotate_right) | (have _h : Option _ := x; clear _h; generalize x = y; clear x) | (revert x; intro _)))
    | with_reducible refine keep_advanceTo ?_
    | with_reducible refine keep_coverageMissed ?_
    | split
    | with_reducible refine keep_of ?_

end Sys2Proof.Machine
end

