-- ==== Sys2Proof/Laws/KeepSieve.lean ====
section
/-! SUPPORT. Every operation and meaning of Machine/Sieve.lean keeps a sound state sound and the queue as it is. -/

namespace Sys2Proof.Machine
open Sys2Proof
set_option Elab.async false
set_option linter.all false

variable {pq : List Instr}

theorem keep_setLg {s : State} {l : Nat} {f : LidGen → LidGen} (hs : Keep pq s) : Keep pq (State.setLg s l f) := by
  unfold State.setLg
  repeat' first
    | with_reducible assumption
    | (extract_lets +onlyGivenNames -underBinder x; (first | (have _h : Option _ := x; clear _h; generalize x = y; clear x) | (revert x; intro _)))
    | with_reducible refine keep_of ?_

theorem keep_sieveShow {s : State} (hs : Keep pq s) : Keep pq (State.sieveShow s) := by
  unfold State.sieveShow
  repeat' first
    | with_reducible assumption
    | with_reducible refine keep_wf ?_

theorem keep_toFix {s : State} {v : Nat} (hs : Keep pq s) : Keep pq (State.toFix s v).2 := by
  unfold State.toFix
  repeat' first
    | with_reducible assumption
    | (extract_lets +onlyGivenNames -underBinder x; (first | (have _h : Option _ := x; clear _h; generalize x = y; clear x) | (revert x; intro _)))
    | with_reducible refine keep_freeNat ?_
    | split

theorem keep_dropPt {s : State} {l : Nat} {a2 : LidDrop} (hs : Keep pq s) : Keep pq (State.dropPt s l a2) := by
  unfold State.dropPt
  repeat' first
    | with_reducible assumption
    | with_reducible refine keep_bump ?_
    | split

theorem keep_ovfPoint {s : State} {l : Nat} (h : Keep pq s) : Keep pq (
    have first := !(s.lg l).overrun
    have s := (s.dropPt l .ovf).setLg l (fun g => { g with overrun := true })
    if first then s.send (srcSieve l) .LID_OVERRUN (s.sieve.gen % 2 ^ 32) else s) := by
  have h1 : Keep pq ((s.dropPt l .ovf).setLg l (fun g => { g with overrun := true })) := keep_setLg (keep_dropPt h)
  exact keep_ite (keep_send h1) h1

theorem keep_queuePoint {s : State} {r : List Byte} {rx ry rz ri t : Nat} {out : Option LidDrop} (hs : Keep pq s) :
    Keep pq (State.queuePoint s r rx ry rz ri t out) := by
  unfold State.queuePoint
  extract_lets +onlyGivenNames -underBinder l
  generalize l = l'
  split
  · exact keep_dropPt hs
  · refine keep_ite (keep_dropPt hs) (keep_ite hs ?_)
    extract_lets +onlyGivenNames -underBinder sc sx sy sz row
    generalize row = row'
    split
    rename_i e1
    have h1 := keep_eq2 e1 (keep_toFix hs)
    split
    rename_i e2
    have h2 := keep_eq2 e2 (keep_toFix h1)
    split
    rename_i e3
    have h3 := keep_eq2 e3 (keep_toFix h2)
    exact keep_ite (keep_ovfPoint h3) (keep_of h3)

theorem keep_takePoint {s : State} {r pkt : List Byte} {t0 i : Nat} (hs : Keep pq s) : Keep pq (State.takePoint s r pkt t0 i) := by
  unfold State.takePoint
  extract_lets +onlyGivenNames -underBinder o n rx ry rz ri dt t
  exact keep_queuePoint hs

theorem keep_dgSeq {s : State} {r : List Byte} {pkt : List Byte} (hs : Keep pq s) : Keep pq (State.dgSeq s r pkt) := by
  unfold State.dgSeq
  repeat' first
    | with_reducible assumption
    | (extract_lets +onlyGivenNames -underBinder x; (first | (refine (fun (hx : Keep pq x) => ?_) ?_; generalize x = y at hx ⊢; clear x; rotate_left; unfold x; clear x; rotate_right) | (have _h : Option _ := x; clear _h; generalize x = y; clear x) | (revert x; intro _)))
    | with_reducible refine keep_bump ?_
    | with_reducible refine keep_setLg ?_
    | split
    | with_reducible refine keep_of ?_

theorem keep_lidarTake {s : State} {port : Nat} {srcIp : Nat} {dstUdp : Nat} {checksumOk : Bool} {payload : List Byte} {ingress : Nat} (hs : Keep pq s) : Keep pq (State.lidarTake s port srcIp dstUdp checksumOk payload ingress) := by
  unfold State.lidarTake
  repeat' first
    | with_reducible assumption
    | (extract_lets +onlyGivenNames -underBinder x; (first | (refine (fun (hx : Keep pq x) => ?_) ?_; generalize x = y at hx ⊢; clear x; rotate_left; unfold x; clear x; rotate_right) | (have _h : Option _ := x; clear _h; generalize x = y; clear x) | (revert x; intro _)))
    | with_reducible refine keep_bump ?_
    | with_reducible refine keep_dgSeq ?_
    | with_reducible refine keep_send ?_
    | with_reducible refine keep_setLg ?_
    | with_reducible refine keep_sieveShow ?_
    | with_reducible refine keep_takePoint ?_
    | with_reducible refine keep_foldl ?_ ?_
    | (intro _; intros)
    | split

theorem keep_execLidarDatagram {port : Fin 6} {srcIp : BitVec 32} {dstUdp : BitVec 16} {checksumOk : Bool} {payload : List Byte} {dt : Nat} {s : State} (hs : Keep pq s) : KeepO pq (execLidarDatagram port srcIp dstUdp checksumOk payload dt s) := by
  unfold execLidarDatagram
  repeat' first
    | with_reducible assumption
    | with_reducible refine keepO_next ?_
    | (extract_lets +onlyGivenNames -underBinder x; (refine (fun (hx : Keep pq x) => ?_) ?_; generalize x = y at hx ⊢; clear x; rotate_left; unfold x; clear x; rotate_right))
    | with_reducible refine keep_advance ?_
    | with_reducible refine keep_lidarTake ?_
    | split

theorem keep_egoTake {s : State} {record : List Byte} (hs : Keep pq s) : Keep pq (State.egoTake s record) := by
  unfold State.egoTake
  repeat' first
    | with_reducible assumption
    | (extract_lets +onlyGivenNames -underBinder x; (first | (refine (fun (hx : Keep pq x) => ?_) ?_; generalize x = y at hx ⊢; clear x; rotate_left; unfold x; clear x; rotate_right) | (have _h : Option _ := x; clear _h; generalize x = y; clear x) | (revert x; intro _)))
    | with_reducible refine keep_bump ?_
    | with_reducible refine keep_send ?_
    | with_reducible refine keep_wf ?_
    | split
    | with_reducible refine keep_of ?_

theorem keep_execEgoMessage {port : Fin 6} {dstUdp : BitVec 16} {record : List Byte} {dt : Nat} {s : State} (hs : Keep pq s) : KeepO pq (execEgoMessage port dstUdp record dt s) := by
  unfold execEgoMessage
  repeat' first
    | with_reducible assumption
    | with_reducible refine keepO_next ?_
    | (extract_lets +onlyGivenNames -underBinder x; (refine (fun (hx : Keep pq x) => ?_) ?_; generalize x = y at hx ⊢; clear x; rotate_left; unfold x; clear x; rotate_right))
    | with_reducible refine keep_advance ?_
    | with_reducible refine keep_egoTake ?_
    | split

theorem keep_voxWrite {s : State} {slot : Nat} {v : Vox} (hs : Keep pq s) : Keep pq (State.voxWrite s slot v) := by
  unfold State.voxWrite
  repeat' first
    | with_reducible assumption
    | (extract_lets +onlyGivenNames -underBinder x; (first | (refine (fun (hx : Keep pq x) => ?_) ?_; generalize x = y at hx ⊢; clear x; rotate_left; unfold x; clear x; rotate_right) | (have _h : Option _ := x; clear _h; generalize x = y; clear x) | (revert x; intro _)))
    | with_reducible refine keep_put ?_
    | with_reducible refine keep_of ?_

theorem keep_voxInsert {s : State} {l : Nat} {carry : Vox} {slot n : Nat} (hs : Keep pq s) : Keep pq (State.voxInsert s l carry slot n) := by
  induction n generalizing s carry slot with
  | zero => exact hs
  | succ n ih =>
    unfold State.voxInsert
    refine keep_ite ?_ ?_
    · exact keep_ite (keep_send (keep_dropPt (keep_of hs))) (keep_dropPt (keep_of hs))
    · split
      rename_i b ok s1 e1
      have h1 : Keep pq s1 := keep_eq3 e1 (keep_fetch hs)
      extract_lets +onlyGivenNames -underBinder s2 e m own obstacle next
      have h2 : Keep pq s2 := keep_ite h1 (keep_setLg h1)
      generalize s2 = s2' at h2 ⊢
      refine keep_ite (keep_of (keep_voxWrite h2)) (keep_ite (keep_voxWrite h2) (keep_ite ?_ (ih h2)))
      exact keep_ite (ih (keep_voxWrite h2)) (ih h2)

theorem keep_freeEgo {s : State} (hs : Keep pq s) : Keep pq (State.freeEgo s).2 := by
  unfold State.freeEgo
  repeat' first
    | with_reducible assumption
    | split
    | with_reducible refine keep_freeNat ?_
    | with_reducible refine keep_foldl2 ?_ ?_
    | (intro _; intros)
    | with_reducible refine keep_eq2 ‹_› ?_
    | dsimp -zeta only

theorem keep_insertPoint {s : State} {p : LidPt} {out : Option LidDrop} (hs : Keep pq s) : Keep pq (State.insertPoint s p out) := by
  unfold State.insertPoint
  split
  · exact keep_dropPt hs
  · extract_lets +onlyGivenNames -underBinder l age stale sel
    generalize sel = sel'
    split
    rename_i w nd far s1 e1
    have h1 : Keep pq s1 := keep_eq4 e1 (by
      split
      · exact hs
      · exact keep_freeEgo hs)
    clear e1
    extract_lets +onlyGivenNames -underBinder first s2
    have h2 : Keep pq s2 := by
      unfold s2
      split
      · exact keep_ite (keep_send (keep_setLg h1)) (keep_setLg h1)
      · exact h1
    generalize s2 = s2' at h2 ⊢
    extract_lets +onlyGivenNames -underBinder s3
    have h3 : Keep pq s3 := keep_ite (keep_setLg h2) h2
    generalize s3 = s3' at h3 ⊢
    extract_lets +onlyGivenNames -underBinder e d ax x y z
    split
    rename_i e4
    have h4 := keep_eq2 e4 (keep_toFix h3)
    clear e4
    split
    rename_i e5
    have h5 := keep_eq2 e5 (keep_toFix h4)
    clear e5
    split
    rename_i e6
    have h6 := keep_eq2 e6 (keep_toFix h5)
    clear e6
    extract_lets +onlyGivenNames -underBinder fu cell cx cy cz out
    refine keep_ite (keep_dropPt h6) ?_
    extract_lets +onlyGivenNames -underBinder key v s7 s8
    have h7 : Keep pq s7 := keep_setLg h6
    have h8 : Keep pq s8 := by
      unfold s8
      split
      · exact keep_ite h7 (keep_of h7)
      · exact h7
    exact keep_voxInsert h8

theorem keep_execVoxelInsert {s : State} (hs : Keep pq s) : KeepO pq (execVoxelInsert s) := by
  unfold execVoxelInsert
  repeat' first
    | with_reducible assumption
    | with_reducible refine keepO_next ?_
    | (extract_lets +onlyGivenNames -underBinder x; (first | (refine (fun (hx : Keep pq x) => ?_) ?_; generalize x = y at hx ⊢; clear x; rotate_left; unfold x; clear x; rotate_right) | (have _h : Option _ := x; clear _h; generalize x = y; clear x) | (revert x; intro _)))
    | with_reducible refine keep_advanceTo ?_
    | with_reducible refine keep_insertPoint ?_
    | with_reducible refine keep_sieveShow ?_
    | with_reducible refine keep_wf ?_
    | split
    | with_reducible refine keep_of ?_

theorem keep_closeGen {s : State} {next : Nat} (hs : Keep pq s) : Keep pq (State.closeGen s next) := by
  unfold State.closeGen
  extract_lets +onlyGivenNames -underBinder s1
  have h1 : Keep pq s1 := keep_wf (keep_wf (keep_wf hs))
  generalize s1 = s1' at h1 ⊢
  extract_lets +onlyGivenNames -underBinder s2
  have h2 : Keep pq s2 := by
    refine keep_foldl (fun s l h => ?_) h1
    split
    · exact h
    · exact keep_wf (keep_wf (keep_absorb (keep_wf (keep_wf h))))
  generalize s2 = s2' at h2 ⊢
  exact keep_wf (keep_wf (keep_of h2 (h6 := h2.2.gens.symm)))

theorem keep_sieveStart {s : State} {first : Nat} (hs : Keep pq s) : Keep pq (State.sieveStart s first) :=
  keep_sieveShow (keep_wf (keep_wf (keep_of hs (h6 := hs.2.gens.symm))))

theorem keep_sieveDrop {s : State} {first : Nat} (hs : Keep pq s) : Keep pq (State.sieveDrop s first) := by
  unfold State.sieveDrop
  repeat' first
    | with_reducible assumption
    | (extract_lets +onlyGivenNames -underBinder x; (first | (refine (fun (hx : Keep pq x) => ?_) ?_; generalize x = y at hx ⊢; clear x; rotate_left; unfold x; clear x; rotate_right) | (have _h : Option _ := x; clear _h; generalize x = y; clear x) | (revert x; intro _)))
    | with_reducible refine keep_sieveStart ?_
    | with_reducible refine keep_of ?_

end Sys2Proof.Machine
end

