-- ==== Sys2Proof/Laws/KeepSupply.lean ====
section
/-! SUPPORT. Every operation and meaning of Machine/Supply.lean keeps a sound state sound and the queue as it is. -/

namespace Sys2Proof.Machine
open Sys2Proof
set_option Elab.async false
set_option linter.all false

variable {pq : List Instr}

theorem keep_setPoc {s : State} {c : Nat} {on : Bool} (hs : Keep pq s) : Keep pq (State.setPoc s c on) := by
  unfold State.setPoc
  repeat' first
    | with_reducible assumption
    | (extract_lets +onlyGivenNames -underBinder x; (first | (have _h : Option _ := x; clear _h; generalize x = y; clear x) | (revert x; intro _)))
    | with_reducible refine keep_wf ?_

theorem keep_pocOff {s : State} (hs : Keep pq s) : Keep pq (State.pocOff s) := by
  unfold State.pocOff
  repeat' first
    | with_reducible assumption
    | with_reducible refine keep_setPoc ?_
    | with_reducible refine keep_foldl ?_ ?_
    | (intro _; intros)

theorem keep_powerLimit {s : State} {cause : Nat} {v : Nat} (hs : Keep pq s) : Keep pq (State.powerLimit s cause v) := by
  unfold State.powerLimit
  repeat' first
    | with_reducible assumption
    | with_reducible refine keep_send ?_

theorem keep_powerWarn {s : State} {cause : Nat} {v : Nat} (hs : Keep pq s) : Keep pq (State.powerWarn s cause v) := by
  unfold State.powerWarn
  repeat' first
    | with_reducible assumption
    | with_reducible refine keep_send ?_

theorem keep_inputLimit {s : State} {cause : Nat} {vin : Nat} (hs : Keep pq s) : Keep pq (State.inputLimit s cause vin) := by
  unfold State.inputLimit
  repeat' first
    | with_reducible assumption
    | (extract_lets +onlyGivenNames -underBinder x; (first | (refine (fun (hx : Keep pq x) => ?_) ?_; generalize x = y at hx ⊢; clear x; rotate_left; unfold x; clear x; rotate_right) | (have _h : Option _ := x; clear _h; generalize x = y; clear x) | (revert x; intro _)))
    | with_reducible refine keep_pocOff ?_
    | with_reducible refine keep_powerLimit ?_
    | with_reducible refine keep_wf ?_
    | split
    | with_reducible refine keep_of ?_

theorem keep_execUndervoltage {vin : BitVec 16} {s : State} (hs : Keep pq s) : KeepO pq (execUndervoltage vin s) := by
  unfold execUndervoltage
  repeat' first
    | with_reducible assumption
    | with_reducible refine keepO_next ?_
    | with_reducible refine keep_inputLimit ?_

theorem keep_execOvervoltage {vin : BitVec 16} {s : State} (hs : Keep pq s) : KeepO pq (execOvervoltage vin s) := by
  unfold execOvervoltage
  repeat' first
    | with_reducible assumption
    | with_reducible refine keepO_next ?_
    | with_reducible refine keep_inputLimit ?_

theorem keep_execHoldUpEnd {s : State} (hs : Keep pq s) : KeepO pq (execHoldUpEnd s) := by
  unfold execHoldUpEnd
  repeat' first
    | with_reducible assumption
    | with_reducible refine keepO_next ?_
    | with_reducible refine keep_advanceTo ?_
    | with_reducible refine keep_turnOff ?_
    | split

theorem keep_execInputWarning {vin : BitVec 16} {s : State} (hs : Keep pq s) : KeepO pq (execInputWarning vin s) := by
  unfold execInputWarning
  repeat' first
    | with_reducible assumption
    | with_reducible refine keepO_next ?_
    | with_reducible refine keep_powerWarn ?_
    | with_reducible refine keep_wf ?_
    | split

theorem keep_execInputWarningClear {vin : BitVec 16} {s : State} (hs : Keep pq s) : KeepO pq (execInputWarningClear vin s) := by
  unfold execInputWarningClear
  repeat' first
    | with_reducible assumption
    | with_reducible refine keepO_next ?_
    | with_reducible refine keep_wf ?_
    | split

theorem keep_execRailFault {rail : BitVec 16} {s : State} (hs : Keep pq s) : KeepO pq (execRailFault rail s) := by
  unfold execRailFault
  repeat' first
    | with_reducible assumption
    | with_reducible refine keepO_next ?_
    | with_reducible refine keep_powerLimit ?_
    | split

theorem keep_judgeTemp {s : State} {f : Fld} {cause : Nat} {code : Nat} {warn : Bool} {limit : Bool} {clear : Bool} {was : Bool} (hs : Keep pq s) : Keep pq (State.judgeTemp s f cause code warn limit clear was) := by
  unfold State.judgeTemp
  repeat' first
    | with_reducible assumption
    | (extract_lets +onlyGivenNames -underBinder x; (refine (fun (hx : Keep pq x) => ?_) ?_; generalize x = y at hx ⊢; clear x; rotate_left; unfold x; clear x; rotate_right))
    | with_reducible refine keep_powerLimit ?_
    | with_reducible refine keep_powerWarn ?_
    | with_reducible refine keep_wf ?_
    | split

theorem keep_execDieTempSample {die : BitVec 8} {vin : BitVec 16} {iin : BitVec 16} {pin : BitVec 16} {poc : BitVec 16} {mw : List (BitVec 16)} {s : State} (hs : Keep pq s) : KeepO pq (execDieTempSample die vin iin pin poc mw s) := by
  unfold execDieTempSample
  repeat' first
    | with_reducible assumption
    | with_reducible refine keepO_next ?_
    | (extract_lets +onlyGivenNames -underBinder x; (first | (refine (fun (hx : Keep pq x) => ?_) ?_; generalize x = y at hx ⊢; clear x; rotate_left; unfold x; clear x; rotate_right) | (have _h : Option _ := x; clear _h; generalize x = y; clear x) | (revert x; intro _)))
    | with_reducible refine keep_judgeTemp ?_
    | with_reducible refine keep_wf ?_
    | with_reducible refine keep_foldl ?_ ?_
    | (intro _; intros)
    | split

theorem keep_execCoolantTempSample {inlet : BitVec 8} {s : State} (hs : Keep pq s) : KeepO pq (execCoolantTempSample inlet s) := by
  unfold execCoolantTempSample
  repeat' first
    | with_reducible assumption
    | with_reducible refine keepO_next ?_
    | (extract_lets +onlyGivenNames -underBinder x; (first | (refine (fun (hx : Keep pq x) => ?_) ?_; generalize x = y at hx ⊢; clear x; rotate_left; unfold x; clear x; rotate_right) | (have _h : Option _ := x; clear _h; generalize x = y; clear x) | (revert x; intro _)))
    | split
    | with_reducible refine keep_judgeTemp ?_
    | with_reducible refine keep_wf ?_

theorem keep_execPocTrip {camera : Fin 16} {s : State} (hs : Keep pq s) : KeepO pq (execPocTrip camera s) := by
  unfold execPocTrip
  repeat' first
    | with_reducible assumption
    | with_reducible refine keepO_next ?_
    | (extract_lets +onlyGivenNames -underBinder x; (first | (refine (fun (hx : Keep pq x) => ?_) ?_; generalize x = y at hx ⊢; clear x; rotate_left; unfold x; clear x; rotate_right) | (have _h : Option _ := x; clear _h; generalize x = y; clear x) | (revert x; intro _)))
    | with_reducible refine keep_send ?_
    | with_reducible refine keep_setPoc ?_
    | with_reducible refine keep_wf ?_
    | split
    | with_reducible refine keep_of ?_

theorem keep_execPocRestore {camera : Fin 16} {s : State} (hs : Keep pq s) : KeepO pq (execPocRestore camera s) := by
  unfold execPocRestore
  repeat' first
    | with_reducible assumption
    | with_reducible refine keepO_next ?_
    | (extract_lets +onlyGivenNames -underBinder x; (first | (have _h : Option _ := x; clear _h; generalize x = y; clear x) | (revert x; intro _)))
    | with_reducible refine keep_advanceTo ?_
    | with_reducible refine keep_setPoc ?_
    | split

end Sys2Proof.Machine
end

