-- ==== Sys2Proof/Laws/KeepTime.lean ====
section
/-! SUPPORT. Every operation and meaning of Machine/Time.lean keeps a sound state sound and the queue as it is. -/

namespace Sys2Proof.Machine
open Sys2Proof
set_option Elab.async false
set_option linter.all false

variable {pq : List Instr}

theorem keep_setServo {s : State} {x : Nat} (hs : Keep pq s) : Keep pq (State.setServo s x) := by
  unfold State.setServo
  repeat' first
    | with_reducible assumption
    | with_reducible refine keep_wf ?_

theorem keep_ptpBad {s : State} {port : Nat} {typ : Nat} (hs : Keep pq s) : Keep pq (State.ptpBad s port typ) := by
  unfold State.ptpBad
  repeat' first
    | with_reducible assumption
    | with_reducible refine keep_bump ?_
    | with_reducible refine keep_send ?_

theorem keep_armBell {s : State} {n : Nat} (hs : Keep pq s) : Keep pq (State.armBell s n) := by
  unfold State.armBell
  repeat' first
    | with_reducible assumption
    | (extract_lets +onlyGivenNames -underBinder x; (first | (refine (fun (hx : Keep pq x) => ?_) ?_; generalize x = y at hx ⊢; clear x; rotate_left; unfold x; clear x; rotate_right) | (have _h : Option _ := x; clear _h; generalize x = y; clear x) | (revert x; intro _)))
    | with_reducible refine keep_wf ?_
    | split
    | with_reducible refine keep_of ?_

theorem keep_rearm {s : State} (hs : Keep pq s) : Keep pq (State.rearm s) := by
  unfold State.rearm
  repeat' first
    | with_reducible assumption
    | with_reducible refine keep_armBell ?_
    | split

theorem keep_setRate {s : State} {r : Int} (hs : Keep pq s) : Keep pq (State.setRate s r) := by
  unfold State.setRate
  repeat' first
    | with_reducible assumption
    | (extract_lets +onlyGivenNames -underBinder x; (first | (refine (fun (hx : Keep pq x) => ?_) ?_; generalize x = y at hx ⊢; clear x; rotate_left; unfold x; clear x; rotate_right) | (have _h : Option _ := x; clear _h; generalize x = y; clear x) | (revert x; intro _)))
    | with_reducible refine keep_send ?_
    | with_reducible refine keep_wf ?_
    | split
    | with_reducible refine keep_of ?_

theorem keep_timeFail {s : State} {o : Int} (hs : Keep pq s) : Keep pq (State.timeFail s o) := by
  unfold State.timeFail
  repeat' first
    | with_reducible assumption
    | with_reducible refine keep_send ?_
    | with_reducible refine keep_setServo ?_
    | with_reducible refine keep_wf ?_

theorem keep_ofUnits {s : State} {u : Nat} {i : Int} {g : Nat} {p : Option Int} (hs : Keep pq s) :
    Keep pq { s with tsu := { (s.tsu.ofUnits u) with integ := i, good := g, prevO := p } } :=
  have h := Tsu.ofUnits_ok s.tsu u
  keep_tsu hs h.1 h.2.1 h.2.2

theorem keep_applyStep {s : State} {o : Int} (hs : Keep pq s) : Keep pq (State.applyStep s o) := by
  have h : Keep pq { s with tsu := { s.tsu with held := none } } := keep_of hs
  unfold State.applyStep
  extract_lets +onlyGivenNames -underBinder u
  dsimp only
  split
  · exact keep_timeFail h
  · exact keep_setServo (keep_wf (keep_wf (keep_wf (keep_ofUnits h))))

theorem keep_servoRun {s : State} {o : Int} (hs : Keep pq s) : Keep pq (State.servoRun s o) := by
  unfold State.servoRun
  repeat' first
    | with_reducible assumption
    | (extract_lets +onlyGivenNames -underBinder x; (first | (refine (fun (hx : Keep pq x) => ?_) ?_; generalize x = y at hx ⊢; clear x; rotate_left; unfold x; clear x; rotate_right) | (have _h : Option _ := x; clear _h; generalize x = y; clear x) | (revert x; intro _)))
    | with_reducible refine keep_setRate ?_
    | with_reducible refine keep_of ?_

@[simp] theorem State.setServo_tsu (s : State) (x : Nat) : (s.setServo x).tsu = s.tsu := by unfold State.setServo; simp

theorem keep_good {s : State} {o : Int} (h : Keep pq s) : Keep pq (
    have g := if o.natAbs ≤ s.recLe recTime 24 2 then s.tsu.good + 1 else 0
    have s := { s with tsu := { s.tsu with good := g } }
    if 8 ≤ g then
      have s := { s with tsu := { s.tsu with locked := true } }
      (s.setServo stLocked).wf F.TSU_STATUS_FREE_RUNNING 0
    else s) := by
  extract_lets +onlyGivenNames -underBinder g
  exact keep_ite (keep_wf (keep_setServo (keep_of (keep_of h)))) (keep_of h)

theorem keep_goodRun {s : State} {o : Int} (h : Keep pq s) : Keep pq (
    have s := s.servoRun o
    if s.servo = stStepped then
      have g := if o.natAbs ≤ s.recLe recTime 24 2 then s.tsu.good + 1 else 0
      have s := { s with tsu := { s.tsu with good := g } }
      if 8 ≤ g then
        have s := { s with tsu := { s.tsu with locked := true } }
        (s.setServo stLocked).wf F.TSU_STATUS_FREE_RUNNING 0
      else s
    else s) := keep_ite (keep_good (keep_servoRun h)) (keep_servoRun h)

theorem keep_offset {s : State} {o : Int} (hs : Keep pq s) : Keep pq (State.offset s o) := by
  unfold State.offset
  refine keep_ite hs ?_
  extract_lets +onlyGivenNames -underBinder x
  have h : Keep pq x := keep_wf hs
  generalize x = y at h ⊢
  clear x
  refine keep_ite ?_ (keep_ite (keep_timeFail h) (keep_ite (keep_of (keep_setServo h)) (keep_goodRun h)))
  split
  · exact h
  · exact keep_ite (keep_ite (keep_of h) (keep_rearm (keep_applyStep h))) (keep_of h)
  · exact keep_of h

theorem keep_syncMeasure {s : State} {t1 : Int} {t2 : Int} {corr : Int} (hs : Keep pq s) : Keep pq (State.syncMeasure s t1 t2 corr) := by
  unfold State.syncMeasure
  repeat' first
    | with_reducible assumption
    | (extract_lets +onlyGivenNames -underBinder x; (first | (refine (fun (hx : Keep pq x) => ?_) ?_; generalize x = y at hx ⊢; clear x; rotate_left; unfold x; clear x; rotate_right) | (have _h : Option _ := x; clear _h; generalize x = y; clear x) | (revert x; intro _)))
    | with_reducible refine keep_offset ?_
    | split
    | with_reducible refine keep_of ?_

theorem keep_setSlave {s : State} {p : Nat} (hs : Keep pq s) : Keep pq (State.setSlave s p) := by
  unfold State.setSlave
  repeat' first
    | with_reducible assumption
    | with_reducible refine keep_wf ?_
    | with_reducible refine keep_foldl ?_ ?_
    | (intro _; intros)
    | split

theorem keep_ptpOther {s : State} {m : PtpMsg} {typ : Nat} (hs : Keep pq s) : Keep pq (State.ptpOther s m typ) := by
  unfold State.ptpOther
  repeat' first
    | with_reducible assumption
    | with_reducible refine keep_ptpBad ?_
    | split

theorem keep_syncFrom {s t : State} {m : PtpMsg} (e : s.syncFrom m = some t) (hs : Keep pq s) : Keep pq t := by
  unfold State.syncFrom at e
  dsimp only at e
  repeat' split at e
  all_goals first | contradiction | (cases e; first | exact hs | exact keep_setSlave hs)

theorem keep_execPtpSync {m : PtpMsg} {s : State} (hs : Keep pq s) : KeepO pq (execPtpSync m s) := by
  unfold execPtpSync
  split
  · exact keepO_next hs
  · have h := keep_advance (k := m.dt) hs
    dsimp only
    split
    · exact keepO_next (keep_ptpOther h)
    · rename_i s' e
      have h1 := keep_syncFrom e h
      have h2 : Keep pq (if s'.servo = stFree then s'.setServo stAcquire else s') := by
        split
        · exact keep_setServo h1
        · exact h1
      split
      · exact keepO_next (keep_of (keep_of h2))
      · exact keepO_next (keep_syncMeasure (keep_of h2))

theorem keep_execPtpFollowUp {m : PtpMsg} {s : State} (hs : Keep pq s) : KeepO pq (execPtpFollowUp m s) := by
  unfold execPtpFollowUp
  split
  · exact keepO_next hs
  · have h := keep_advance (k := m.dt) hs
    dsimp only
    split
    · exact keepO_next (keep_ptpOther h)
    · rename_i s' e
      have h1 := keep_syncFrom e h
      split
      · split
        · exact keepO_next (keep_syncMeasure (keep_of h1))
        · exact keepO_next h1
      · exact keepO_next h1

theorem keep_setDelay {s : State} {d : Int} (hs : Keep pq s) : Keep pq (State.setDelay s d) := by
  unfold State.setDelay
  repeat' first
    | with_reducible assumption
    | (extract_lets +onlyGivenNames -underBinder x; (first | (have _h : Option _ := x; clear _h; generalize x = y; clear x) | (revert x; intro _)))
    | with_reducible refine keep_wf ?_
    | with_reducible refine keep_of ?_

theorem keep_execPtpDelayReq {m : PtpMsg} {s : State} (hs : Keep pq s) : KeepO pq (execPtpDelayReq m s) := by
  unfold execPtpDelayReq
  repeat' first
    | with_reducible assumption
    | with_reducible refine keepO_next ?_
    | (extract_lets +onlyGivenNames -underBinder x; (first | (refine (fun (hx : Keep pq x) => ?_) ?_; generalize x = y at hx ⊢; clear x; rotate_left; unfold x; clear x; rotate_right) | (have _h : Option _ := x; clear _h; generalize x = y; clear x) | (revert x; intro _)))
    | with_reducible refine keep_advance ?_
    | with_reducible refine keep_out ?_
    | with_reducible refine keep_ptpBad ?_
    | split

theorem keep_execPtpDelayResp {m : PtpMsg} {s : State} (hs : Keep pq s) : KeepO pq (execPtpDelayResp m s) := by
  unfold execPtpDelayResp
  repeat' first
    | with_reducible assumption
    | with_reducible refine keepO_next ?_
    | (extract_lets +onlyGivenNames -underBinder x; (first | (refine (fun (hx : Keep pq x) => ?_) ?_; generalize x = y at hx ⊢; clear x; rotate_left; unfold x; clear x; rotate_right) | (have _h : Option _ := x; clear _h; generalize x = y; clear x) | (revert x; intro _)))
    | with_reducible refine keep_advance ?_
    | with_reducible refine keep_ptpBad ?_
    | with_reducible refine keep_ptpOther ?_
    | with_reducible refine keep_setDelay ?_
    | split
    | with_reducible refine keep_of ?_

theorem keep_execPtpPdelayReq {m : PtpMsg} {s : State} (hs : Keep pq s) : KeepO pq (execPtpPdelayReq m s) := by
  unfold execPtpPdelayReq
  repeat' first
    | with_reducible assumption
    | with_reducible refine keepO_next ?_
    | (extract_lets +onlyGivenNames -underBinder x; (first | (refine (fun (hx : Keep pq x) => ?_) ?_; generalize x = y at hx ⊢; clear x; rotate_left; unfold x; clear x; rotate_right) | (have _h : Option _ := x; clear _h; generalize x = y; clear x) | (revert x; intro _)))
    | with_reducible refine keep_advance ?_
    | with_reducible refine keep_out ?_
    | with_reducible refine keep_ptpBad ?_
    | split

theorem keep_execPtpPdelayResp {m : PtpMsg} {s : State} (hs : Keep pq s) : KeepO pq (execPtpPdelayResp m s) := by
  unfold execPtpPdelayResp
  repeat' first
    | with_reducible assumption
    | with_reducible refine keepO_next ?_
    | (extract_lets +onlyGivenNames -underBinder x; (first | (refine (fun (hx : Keep pq x) => ?_) ?_; generalize x = y at hx ⊢; clear x; rotate_left; unfold x; clear x; rotate_right) | (have _h : Option _ := x; clear _h; generalize x = y; clear x) | (revert x; intro _)))
    | with_reducible refine keep_advance ?_
    | with_reducible refine keep_ptpBad ?_
    | with_reducible refine keep_setDelay ?_
    | split
    | with_reducible refine keep_of ?_

theorem keep_execPtpPdelayRespFollowUp {m : PtpMsg} {s : State} (hs : Keep pq s) : KeepO pq (execPtpPdelayRespFollowUp m s) := by
  unfold execPtpPdelayRespFollowUp
  repeat' first
    | with_reducible assumption
    | with_reducible refine keepO_next ?_
    | (extract_lets +onlyGivenNames -underBinder x; (first | (refine (fun (hx : Keep pq x) => ?_) ?_; generalize x = y at hx ⊢; clear x; rotate_left; unfold x; clear x; rotate_right) | (have _h : Option _ := x; clear _h; generalize x = y; clear x) | (revert x; intro _)))
    | with_reducible refine keep_advance ?_
    | with_reducible refine keep_ptpBad ?_
    | with_reducible refine keep_setDelay ?_
    | split
    | with_reducible refine keep_of ?_

theorem keep_execPtpAnnounce {a : PtpAnn} {s : State} (hs : Keep pq s) : KeepO pq (execPtpAnnounce a s) := by
  unfold execPtpAnnounce
  repeat' first
    | with_reducible assumption
    | with_reducible refine keepO_next ?_
    | (extract_lets +onlyGivenNames -underBinder x; (first | (have _h : Option _ := x; clear _h; generalize x = y; clear x) | (revert x; intro _)))
    | with_reducible refine keep_ptpBad ?_
    | with_reducible refine keep_setSlave ?_
    | split
    | with_reducible refine keep_of ?_

theorem keep_execPtpSyncSend {s : State} (hs : Keep pq s) : KeepO pq (execPtpSyncSend s) := by
  unfold execPtpSyncSend
  repeat' first
    | with_reducible assumption
    | with_reducible refine keepO_next ?_
    | (extract_lets +onlyGivenNames -underBinder x; (first | (have _h : Option _ := x; clear _h; generalize x = y; clear x) | (revert x; intro _)))
    | with_reducible refine keep_out ?_
    | with_reducible refine keep_foldl ?_ ?_
    | (intro _; intros)
    | split

theorem keep_execPtpAnnounceSend {s : State} (hs : Keep pq s) : KeepO pq (execPtpAnnounceSend s) := by
  unfold execPtpAnnounceSend
  repeat' first
    | with_reducible assumption
    | with_reducible refine keepO_next ?_
    | (extract_lets +onlyGivenNames -underBinder x; (first | (have _h : Option _ := x; clear _h; generalize x = y; clear x) | (revert x; intro _)))
    | with_reducible refine keep_out ?_
    | with_reducible refine keep_foldl ?_ ?_
    | (intro _; intros)
    | split

theorem keep_execPtpDelayReqSend {s : State} (hs : Keep pq s) : KeepO pq (execPtpDelayReqSend s) := by
  unfold execPtpDelayReqSend
  repeat' first
    | with_reducible assumption
    | with_reducible refine keepO_next ?_
    | (extract_lets +onlyGivenNames -underBinder x; (first | (refine (fun (hx : Keep pq x) => ?_) ?_; generalize x = y at hx ⊢; clear x; rotate_left; unfold x; clear x; rotate_right) | (have _h : Option _ := x; clear _h; generalize x = y; clear x) | (revert x; intro _)))
    | with_reducible refine keep_out ?_
    | split
    | with_reducible refine keep_of ?_

theorem keep_execSyncLoss {s : State} (hs : Keep pq s) : KeepO pq (execSyncLoss s) := by
  unfold execSyncLoss
  repeat' first
    | with_reducible assumption
    | with_reducible refine keepO_next ?_
    | (extract_lets +onlyGivenNames -underBinder x; (first | (refine (fun (hx : Keep pq x) => ?_) ?_; generalize x = y at hx ⊢; clear x; rotate_left; unfold x; clear x; rotate_right) | (have _h : Option _ := x; clear _h; generalize x = y; clear x) | (revert x; intro _)))
    | with_reducible refine keep_advanceTo ?_
    | with_reducible refine keep_send ?_
    | with_reducible refine keep_setServo ?_
    | split
    | with_reducible refine keep_of ?_

theorem keep_execHoldoverMax {s : State} (hs : Keep pq s) : KeepO pq (execHoldoverMax s) := by
  unfold execHoldoverMax
  repeat' first
    | with_reducible assumption
    | with_reducible refine keepO_next ?_
    | (extract_lets +onlyGivenNames -underBinder x; (refine (fun (hx : Keep pq x) => ?_) ?_; generalize x = y at hx ⊢; clear x; rotate_left; unfold x; clear x; rotate_right))
    | with_reducible refine keep_advanceTo ?_
    | with_reducible refine keep_send ?_
    | with_reducible refine keep_wf ?_
    | split

theorem keep_execLockTimeout {s : State} (hs : Keep pq s) : KeepO pq (execLockTimeout s) := by
  unfold execLockTimeout
  repeat' first
    | with_reducible assumption
    | with_reducible refine keepO_next ?_
    | (extract_lets +onlyGivenNames -underBinder x; (refine (fun (hx : Keep pq x) => ?_) ?_; generalize x = y at hx ⊢; clear x; rotate_left; unfold x; clear x; rotate_right))
    | with_reducible refine keep_advanceTo ?_
    | with_reducible refine keep_send ?_
    | with_reducible refine keep_wf ?_
    | split

end Sys2Proof.Machine
end

