-- ==== Sys2Proof/Laws/KeepBoot.lean ====
section
/-! SUPPORT. Every operation and meaning of Machine/Boot.lean keeps a sound state sound and the queue as it is. -/

namespace Sys2Proof.Machine
open Sys2Proof
set_option Elab.async false
set_option linter.all false

variable {pq : List Instr}

theorem keep_stepDone {s : State} {env : StartEnv} {i : Nat} (hs : Keep pq s) : Keep pq (State.stepDone s env i) := by
  unfold State.stepDone
  repeat' first
    | with_reducible assumption
    | (extract_lets +onlyGivenNames -underBinder x; (first | (refine (fun (hx : Keep pq x) => ?_) ?_; generalize x = y at hx ⊢; clear x; rotate_left; unfold x; clear x; rotate_right) | (have _h : Option _ := x; clear _h; generalize x = y; clear x) | (revert x; intro _)))
    | with_reducible refine keep_advance ?_
    | with_reducible refine keep_wf ?_

theorem keep_inBoot {s : State} {f : State → State} (hs : Keep pq s) (hf : ∀ s, Keep pq s → Keep pq (f s)) : Keep pq (State.inBoot s f) := by
  unfold State.inBoot
  repeat' first
    | with_reducible assumption
    | with_reducible refine hf _ ?_
    | split

theorem keep_bootHalt {s : State} {cause : Nat} {src : Nat} {k : Kind} (hs : Keep pq s) : Keep pq (State.bootHalt s cause src k) := by
  unfold State.bootHalt
  repeat' first
    | with_reducible assumption
    | with_reducible refine keep_enterHalt ?_
    | with_reducible refine keep_settle ?_
    | with_reducible refine keep_wf ?_

theorem keep_boot12 {s : State} {env : StartEnv} (hs : Keep pq s) : Keep pq (State.boot12 s env) := by
  unfold State.boot12
  repeat' first
    | with_reducible assumption
    | (extract_lets +onlyGivenNames -underBinder x; (first | (refine (fun (hx : Keep pq x) => ?_) ?_; generalize x = y at hx ⊢; clear x; rotate_left; unfold x; clear x; rotate_right) | (have _h : Option _ := x; clear _h; generalize x = y; clear x) | (revert x; intro _)))
    | with_reducible refine keep_bootHalt ?_
    | with_reducible refine keep_send ?_
    | with_reducible refine keep_wf ?_
    | split

theorem keep_deriveKey {s : State} (hs : Keep pq s) : Keep pq (State.deriveKey s) := by
  unfold State.deriveKey
  repeat' first
    | with_reducible assumption
    | (extract_lets +onlyGivenNames -underBinder x; (first | (refine (fun (hx : Keep pq x) => ?_) ?_; generalize x = y at hx ⊢; clear x; rotate_left; unfold x; clear x; rotate_right) | (have _h : Option _ := x; clear _h; generalize x = y; clear x) | (revert x; intro _)))
    | split
    | with_reducible refine keep_wf ?_
    | with_reducible refine keep_wrN ?_
    | with_reducible refine keep_foldl ?_ ?_
    | (intro _; intros)

theorem keep_countBoot {s : State} (hs : Keep pq s) : Keep pq (State.countBoot s) := by
  unfold State.countBoot
  repeat' first
    | with_reducible assumption
    | (extract_lets +onlyGivenNames -underBinder x; (first | (refine (fun (hx : Keep pq x) => ?_) ?_; generalize x = y at hx ⊢; clear x; rotate_left; unfold x; clear x; rotate_right) | (have _h : Option _ := x; clear _h; generalize x = y; clear x) | (revert x; intro _)))
    | with_reducible refine keep_wf ?_
    | with_reducible refine keep_wrN ?_
    | with_reducible refine keep_of ?_

theorem keep_boot3 {s : State} {env : StartEnv} (hs : Keep pq s) : Keep pq (State.boot3 s env) := by
  unfold State.boot3
  repeat' first
    | with_reducible assumption
    | (extract_lets +onlyGivenNames -underBinder x; (first | (refine (fun (hx : Keep pq x) => ?_) ?_; generalize x = y at hx ⊢; clear x; rotate_left; unfold x; clear x; rotate_right) | (have _h : Option _ := x; clear _h; generalize x = y; clear x) | (revert x; intro _)))
    | with_reducible refine keep_countBoot ?_
    | with_reducible refine keep_deriveKey ?_
    | with_reducible refine keep_newChallenge ?_
    | with_reducible refine keep_send ?_
    | with_reducible refine keep_settle ?_
    | with_reducible refine keep_stepDone ?_
    | with_reducible refine keep_wf ?_
    | with_reducible refine keep_wipeLocket ?_
    | split
    | with_reducible refine keep_of ?_

theorem keep_takeTime {s : State} {recs : List ImgRec} (hs : Keep pq s) : Keep pq (State.takeTime s recs) := by
  unfold State.takeTime
  repeat' first
    | with_reducible assumption
    | (extract_lets +onlyGivenNames -underBinder x; (first | (refine (fun (hx : Keep pq x) => ?_) ?_; generalize x = y at hx ⊢; clear x; rotate_left; unfold x; clear x; rotate_right) | (have _h : Option _ := x; clear _h; generalize x = y; clear x) | (revert x; intro _)))
    | with_reducible refine keep_units ?_
    | with_reducible refine keep_wf ?_
    | with_reducible refine keep_foldl ?_ ?_
    | (intro _; intros)
    | split
    | with_reducible refine keep_of ?_

theorem keep_boot4 {s : State} {env : StartEnv} (hs : Keep pq s) : Keep pq (State.boot4 s env) := by
  unfold State.boot4
  repeat' first
    | with_reducible assumption
    | (extract_lets +onlyGivenNames -underBinder x; (first | (refine (fun (hx : Keep pq x) => ?_) ?_; generalize x = y at hx ⊢; clear x; rotate_left; unfold x; clear x; rotate_right) | (have _h : Option _ := x; clear _h; generalize x = y; clear x) | (revert x; intro _)))
    | with_reducible refine keep_reportSlot ?_
    | with_reducible refine keep_stepDone ?_
    | with_reducible refine keep_takeTime ?_
    | with_reducible refine keep_wf ?_
    | split

theorem keep_boot5 {s : State} {env : StartEnv} (hs : Keep pq s) : Keep pq (State.boot5 s env) := by
  unfold State.boot5
  repeat' first
    | with_reducible assumption
    | (extract_lets +onlyGivenNames -underBinder x; (first | (refine (fun (hx : Keep pq x) => ?_) ?_; generalize x = y at hx ⊢; clear x; rotate_left; unfold x; clear x; rotate_right) | (have _h : Option _ := x; clear _h; generalize x = y; clear x) | (revert x; intro _)))
    | with_reducible refine keep_bootHalt ?_
    | with_reducible refine keep_send ?_
    | with_reducible refine keep_stepDone ?_
    | with_reducible refine keep_wf ?_
    | with_reducible refine keep_zeroRange ?_
    | split
    | with_reducible refine keep_of ?_

theorem keep_loadFault {s : State} (hs : Keep pq s) : Keep pq (State.loadFault s) := by
  unfold State.loadFault
  repeat' first
    | with_reducible assumption
    | (extract_lets +onlyGivenNames -underBinder x; (first | (refine (fun (hx : Keep pq x) => ?_) ?_; generalize x = y at hx ⊢; clear x; rotate_left; unfold x; clear x; rotate_right) | (have _h : Option _ := x; clear _h; generalize x = y; clear x) | (revert x; intro _)))
    | with_reducible refine keep_setReg ?_
    | with_reducible refine keep_wf ?_
    | with_reducible refine keep_foldl ?_ ?_
    | (intro _; intros)
    | with_reducible refine keep_of ?_

theorem keep_rollRecords {s : State} {l : List Nat} (hs : Keep pq s) : Keep pq (State.rollRecords s l) := by
  induction l generalizing s with
  | nil => exact hs
  | cons d r ih =>
    unfold State.rollRecords
    have hr {b c i : Nat} : Keep pq (((s.imgReject d b c i).rejectSlot d).rollRecords r) := ih (keep_rejectSlot (keep_imgReject hs))
    extract_lets +onlyGivenNames -underBinder es s2
    have h2 : Keep pq s2 := keep_of hs
    generalize s2 = s2' at h2 ⊢
    split
    · exact hr
    · exact keep_ite hr (keep_ite hr (keep_ite hr (keep_loadFault h2)))

theorem keep_rollCompare {s : State} {env : StartEnv} (hs : Keep pq s) : Keep pq (State.rollCompare s env) := by
  unfold State.rollCompare
  repeat' first
    | with_reducible assumption
    | (extract_lets +onlyGivenNames -underBinder x; (first | (refine (fun (hx : Keep pq x) => ?_) ?_; generalize x = y at hx ⊢; clear x; rotate_left; unfold x; clear x; rotate_right) | (have _h : Option _ := x; clear _h; generalize x = y; clear x) | (revert x; intro _)))
    | with_reducible refine keep_bootHalt ?_
    | with_reducible refine keep_send ?_
    | with_reducible refine keep_settle ?_
    | with_reducible refine keep_wf ?_
    | with_reducible refine keep_foldl ?_ ?_
    | (intro _; intros)
    | split

theorem keep_loadRetired {s : State} (hs : Keep pq s) : Keep pq (State.loadRetired s) := by
  unfold State.loadRetired
  repeat' first
    | with_reducible assumption
    | (extract_lets +onlyGivenNames -underBinder x; (first | (have _h : Option _ := x; clear _h; generalize x = y; clear x) | (revert x; intro _)))
    | with_reducible refine keep_setEng ?_
    | with_reducible refine keep_setReg ?_
    | with_reducible refine keep_foldl ?_ ?_
    | (intro _; intros)
    | split

theorem keep_rollStrands {s : State} {env : StartEnv} (hs : Keep pq s) : Keep pq (State.rollStrands s env) := by
  unfold State.rollStrands
  repeat' first
    | with_reducible assumption
    | (extract_lets +onlyGivenNames -underBinder x; (refine (fun (hx : Keep pq x) => ?_) ?_; generalize x = y at hx ⊢; clear x; rotate_left; unfold x; clear x; rotate_right))
    | with_reducible refine keep_settle ?_
    | with_reducible refine keep_strandFail ?_
    | with_reducible refine keep_foldl ?_ ?_
    | (intro _; intros)
    | with_reducible refine keep_of ?_

theorem keep_showEngs {s : State} (hs : Keep pq s) : Keep pq (State.showEngs s) := by
  unfold State.showEngs
  repeat' first
    | with_reducible assumption
    | with_reducible refine keep_wf ?_
    | with_reducible refine keep_foldl ?_ ?_
    | (intro _; intros)

theorem keep_rollUnits {s : State} {env : StartEnv} (hs : Keep pq s) : Keep pq (State.rollUnits s env) := by
  unfold State.rollUnits
  repeat' first
    | with_reducible assumption
    | (extract_lets +onlyGivenNames -underBinder x; (first | (refine (fun (hx : Keep pq x) => ?_) ?_; generalize x = y at hx ⊢; clear x; rotate_left; unfold x; clear x; rotate_right) | (have _h : Option _ := x; clear _h; generalize x = y; clear x) | (revert x; intro _)))
    | with_reducible refine keep_segFail ?_
    | with_reducible refine keep_settle ?_
    | with_reducible refine keep_wf ?_
    | with_reducible refine keep_foldl ?_ ?_
    | (intro _; intros)
    | split
    | with_reducible refine keep_of ?_

theorem keep_showSpare {s : State} (hs : Keep pq s) : Keep pq (State.showSpare s) := by
  unfold State.showSpare
  repeat' first
    | with_reducible assumption
    | (extract_lets +onlyGivenNames -underBinder x; (first | (have _h : Option _ := x; clear _h; generalize x = y; clear x) | (revert x; intro _)))
    | with_reducible refine keep_wf ?_

theorem keep_mapCores {s : State} {ok : List Nat} (hs : Keep pq s) : Keep pq (State.mapCores s ok) := by
  unfold State.mapCores
  repeat' first
    | with_reducible assumption
    | (extract_lets +onlyGivenNames -underBinder x; (refine (fun (hx : Keep pq x) => ?_) ?_; generalize x = y at hx ⊢; clear x; rotate_left; unfold x; clear x; rotate_right))
    | with_reducible refine keep_showSpare ?_
    | with_reducible refine keep_wf ?_
    | with_reducible refine keep_foldl ?_ ?_
    | (intro _; intros)
    | split

theorem keep_rollFail {s : State} {cause : Nat} {healthy : Nat} (hs : Keep pq s) : Keep pq (State.rollFail s cause healthy) := by
  unfold State.rollFail
  repeat' first
    | with_reducible assumption
    | with_reducible refine keep_bootHalt ?_
    | with_reducible refine keep_send ?_

theorem keep_boot6 {s : State} {env : StartEnv} (hs : Keep pq s) : Keep pq (State.boot6 s env) := by
  unfold State.boot6
  repeat' first
    | with_reducible assumption
    | (extract_lets +onlyGivenNames -underBinder x; (first | (refine (fun (hx : Keep pq x) => ?_) ?_; generalize x = y at hx ⊢; clear x; rotate_left; unfold x; clear x; rotate_right) | (have _h : Option _ := x; clear _h; generalize x = y; clear x) | (revert x; intro _)))
    | with_reducible refine keep_bootHalt ?_
    | with_reducible refine keep_inBoot ?_ ?_
    | with_reducible refine keep_loadRetired ?_
    | with_reducible refine keep_mapCores ?_
    | with_reducible refine keep_rollCompare ?_
    | with_reducible refine keep_rollFail ?_
    | with_reducible refine keep_rollRecords ?_
    | with_reducible refine keep_rollStrands ?_
    | with_reducible refine keep_rollUnits ?_
    | with_reducible refine keep_send ?_
    | with_reducible refine keep_settle ?_
    | with_reducible refine keep_showEngs ?_
    | with_reducible refine keep_stepDone ?_
    | with_reducible refine keep_wf ?_
    | (intro _; intros)
    | split

theorem keep_placeRegs {s : State} {d : Nat} (hs : Keep pq s) : Keep pq (State.placeRegs s d) := by
  unfold State.placeRegs
  repeat' first
    | with_reducible assumption
    | (extract_lets +onlyGivenNames -underBinder x; (first | (refine (fun (hx : Keep pq x) => ?_) ?_; generalize x = y at hx ⊢; clear x; rotate_left; unfold x; clear x; rotate_right) | (have _h : Option _ := x; clear _h; generalize x = y; clear x) | (revert x; intro _)))
    | with_reducible refine keep_wf ?_
    | with_reducible refine keep_foldl ?_ ?_
    | (intro _; intros)
    | split

theorem keep_placeMem {s : State} (hs : Keep pq s) : Keep pq (State.placeMem s) := by
  unfold State.placeMem
  repeat' first
    | with_reducible assumption
    | with_reducible refine keep_wrN ?_
    | with_reducible refine keep_foldl ?_ ?_
    | (intro _; intros)
    | split

theorem keep_coreRegs {s : State} {plan : Nat} {n : Nat} {p : Nat} (hs : Keep pq s) : Keep pq (State.coreRegs s plan n p) := by
  unfold State.coreRegs
  repeat' first
    | with_reducible assumption
    | (extract_lets +onlyGivenNames -underBinder x; (first | (refine (fun (hx : Keep pq x) => ?_) ?_; generalize x = y at hx ⊢; clear x; rotate_left; unfold x; clear x; rotate_right) | (have _h : Option _ := x; clear _h; generalize x = y; clear x) | (revert x; intro _)))
    | with_reducible refine keep_wf ?_
    | with_reducible refine keep_foldl ?_ ?_
    | (intro _; intros)

theorem keep_planRegs {s : State} {plan : Nat} (hs : Keep pq s) : Keep pq (State.planRegs s plan) := by
  unfold State.planRegs
  repeat' first
    | with_reducible assumption
    | with_reducible refine keep_coreRegs ?_
    | with_reducible refine keep_foldl ?_ ?_
    | (intro _; intros)
    | split

theorem keep_placePlan {s : State} {plan : Nat} (hs : Keep pq s) : Keep pq (State.placePlan s plan) := by
  unfold State.placePlan
  repeat' first
    | with_reducible assumption
    | (extract_lets +onlyGivenNames -underBinder x; (refine (fun (hx : Keep pq x) => ?_) ?_; generalize x = y at hx ⊢; clear x; rotate_left; unfold x; clear x; rotate_right))
    | with_reducible refine keep_loadCore ?_
    | with_reducible refine keep_planRegs ?_
    | with_reducible refine keep_resetScales ?_
    | with_reducible refine keep_foldl ?_ ?_
    | (intro _; intros)
    | split

theorem keep_loadSlot {s : State} {d : Nat} (hs : Keep pq s) : Keep pq (State.loadSlot s d).2 := by
  unfold State.loadSlot
  repeat' first
    | with_reducible assumption
    | (extract_lets +onlyGivenNames -underBinder x; (first | (refine (fun (hx : Keep pq x) => ?_) ?_; generalize x = y at hx ⊢; clear x; rotate_left; unfold x; clear x; rotate_right) | (have _h : Option _ := x; clear _h; generalize x = y; clear x) | (revert x; intro _)))
    | with_reducible refine keep_attRegs ?_
    | with_reducible refine keep_loadFault ?_
    | with_reducible refine keep_loadPrefixes ?_
    | with_reducible refine keep_placeMem ?_
    | with_reducible refine keep_placePlan ?_
    | with_reducible refine keep_placeRegs ?_
    | with_reducible refine keep_takeTime ?_
    | split

theorem keep_pocOn {s : State} (hs : Keep pq s) : Keep pq (State.pocOn s) := by
  unfold State.pocOn
  repeat' first
    | with_reducible assumption
    | with_reducible refine keep_setPoc ?_
    | with_reducible refine keep_foldl ?_ ?_
    | (intro _; intros)
    | split

theorem keep_tReady {s : State} {first : Nat} (hs : Keep pq s) : Keep pq (State.tReady s first) := by
  unfold State.tReady
  repeat' first
    | with_reducible assumption
    | (extract_lets +onlyGivenNames -underBinder x; (first | (refine (fun (hx : Keep pq x) => ?_) ?_; generalize x = y at hx ⊢; clear x; rotate_left; unfold x; clear x; rotate_right) | (have _h : Option _ := x; clear _h; generalize x = y; clear x) | (revert x; intro _)))
    | with_reducible refine keep_armBell ?_
    | with_reducible refine keep_setPState ?_
    | with_reducible refine keep_sieveStart ?_
    | with_reducible refine keep_wf ?_
    | split
    | with_reducible refine keep_of ?_

theorem keep_noImage {s : State} (hs : Keep pq s) : Keep pq (State.noImage s) := by
  unfold State.noImage
  repeat' first
    | with_reducible assumption
    | with_reducible refine keep_setPState ?_
    | with_reducible refine keep_wf ?_

theorem keep_loadSlots {s : State} {us : Nat} {l : List Nat} (hs : Keep pq s) : Keep pq (State.loadSlots s us l) := by
  induction l generalizing s with
  | nil => exact keep_noImage hs
  | cons d r ih =>
    unfold State.loadSlots
    extract_lets +onlyGivenNames -underBinder s1
    have h1 : Keep pq s1 := keep_wf hs
    generalize s1 = s1' at h1 ⊢
    refine keep_ite (keep_wf (keep_of h1)) ?_
    split
    rename_i e
    have h2 := keep_eq2 e (keep_loadSlot h1)
    refine keep_ite ?_ (ih (keep_rejectSlot (keep_imgReject h1)))
    exact keep_inBoot (keep_settle (keep_wf (keep_wf (keep_wf (keep_wf (keep_wf (keep_advance h2))))))) (fun _ h => keep_tReady h)

theorem keep_boot7 {s : State} {us : Nat} (hs : Keep pq s) : Keep pq (State.boot7 s us) := by
  unfold State.boot7
  repeat' first
    | with_reducible assumption
    | with_reducible refine keep_loadSlots ?_
    | with_reducible refine keep_pocOn ?_

theorem keep_bootUp {s : State} {env : StartEnv} (hs : Keep pq s) : Keep pq (State.bootUp s env) := by
  unfold State.bootUp
  repeat' first
    | with_reducible assumption
    | (extract_lets +onlyGivenNames -underBinder x; (refine (fun (hx : Keep pq x) => ?_) ?_; generalize x = y at hx ⊢; clear x; rotate_left; unfold x; clear x; rotate_right))
    | with_reducible refine keep_boot12 ?_
    | with_reducible refine keep_boot3 ?_
    | with_reducible refine keep_boot4 ?_
    | with_reducible refine keep_boot5 ?_
    | with_reducible refine keep_boot6 ?_
    | with_reducible refine keep_boot7 ?_
    | with_reducible refine keep_inBoot ?_ ?_
    | (intro _; intros)
    | split

theorem keep_execPowerOnStart {env : StartEnv} {s : State} (hs : Keep pq s) : KeepO pq (execPowerOnStart env s) := by
  unfold execPowerOnStart
  repeat' first
    | with_reducible assumption
    | with_reducible refine keepO_next ?_
    | (extract_lets +onlyGivenNames -underBinder x; (first | (refine (fun (hx : Keep pq x) => ?_) ?_; generalize x = y at hx ⊢; clear x; rotate_left; unfold x; clear x; rotate_right) | (have _h : Option _ := x; clear _h; generalize x = y; clear x) | (revert x; intro _)))
    | with_reducible refine keep_bootUp ?_
    | with_reducible refine keep_restart ?_
    | with_reducible refine keep_wf ?_
    | split
    | with_reducible refine keep_of ?_

theorem keep_nvmFinish {s : State} (hs : Keep pq s) : Keep pq (State.nvmFinish s) := by
  unfold State.nvmFinish
  repeat' first
    | with_reducible assumption
    | (extract_lets +onlyGivenNames -underBinder x; (refine (fun (hx : Keep pq x) => ?_) ?_; generalize x = y at hx ⊢; clear x; rotate_left; unfold x; clear x; rotate_right))
    | with_reducible refine keep_arbBurn ?_
    | with_reducible refine keep_nvmPut ?_
    | with_reducible refine keep_wrN ?_
    | split

theorem keep_execWarmReset {env : StartEnv} {s : State} (hs : Keep pq s) : KeepO pq (execWarmReset env s) := by
  unfold execWarmReset
  repeat' first
    | with_reducible assumption
    | with_reducible refine keepO_next ?_
    | (extract_lets +onlyGivenNames -underBinder x; (refine (fun (hx : Keep pq x) => ?_) ?_; generalize x = y at hx ⊢; clear x; rotate_left; unfold x; clear x; rotate_right))
    | with_reducible refine keep_bootUp ?_
    | with_reducible refine keep_nvmFinish ?_
    | with_reducible refine keep_restart ?_
    | with_reducible refine keep_wf ?_
    | split

theorem keep_execClockLoss {cause : Fin 3} {s : State} (hs : Keep pq s) : KeepO pq (execClockLoss cause s) := by
  unfold execClockLoss
  repeat' first
    | with_reducible assumption
    | with_reducible refine keepO_next ?_
    | (extract_lets +onlyGivenNames -underBinder x; (first | (have _h : Option _ := x; clear _h; generalize x = y; clear x) | (revert x; intro _)))
    | with_reducible refine keep_turnOff ?_
    | split
    | with_reducible refine keep_of ?_

theorem keep_execImageLoadWatchdog {us : Nat} {s : State} (hs : Keep pq s) : KeepO pq (execImageLoadWatchdog us s) := by
  unfold execImageLoadWatchdog
  split
  · exact keepO_next hs
  · rename_i t d _
    have h1 : Keep pq ((s.advanceTo (t + 4000000000)).imgReject d 8 0 0) := keep_imgReject (keep_advanceTo hs)
    exact keepO_next (keep_inBoot (keep_wf (keep_of h1)) (fun _ h => keep_loadSlots h))

theorem keep_askReset {s : State} {a1 : Nat} (hs : Keep pq s) : Keep pq (State.askReset s a1) := by
  unfold State.askReset
  repeat' first
    | with_reducible assumption
    | (extract_lets +onlyGivenNames -underBinder x; (first | (have _h : Option _ := x; clear _h; generalize x = y; clear x) | (revert x; intro _)))
    | with_reducible refine keep_stopAlive ?_
    | with_reducible refine keep_of ?_

end Sys2Proof.Machine
end

