-- ==== Sys2Proof/Laws/KeepCamera.lean ====
section
/-! SUPPORT. Every operation and meaning of Machine/Camera.lean keeps a sound state sound and the queue as it is. -/

namespace Sys2Proof.Machine
open Sys2Proof
set_option Elab.async false
set_option linter.all false

variable {pq : List Instr}

theorem keep_setCam {s : State} {c : Nat} {f : Cam → Cam} (hs : Keep pq s) : Keep pq (State.setCam s c f) := by
  unfold State.setCam
  repeat' first
    | with_reducible assumption
    | with_reducible refine keep_of ?_

theorem keep_camShow {s : State} {c : Nat} (hs : Keep pq s) : Keep pq (State.camShow s c) := by
  unfold State.camShow
  repeat' first
    | with_reducible assumption
    | (extract_lets +onlyGivenNames -underBinder x; (first | (refine (fun (hx : Keep pq x) => ?_) ?_; generalize x = y at hx ⊢; clear x; rotate_left; unfold x; clear x; rotate_right) | (have _h : Option _ := x; clear _h; generalize x = y; clear x) | (revert x; intro _)))
    | with_reducible refine keep_wf ?_
    | with_reducible refine keep_foldl ?_ ?_
    | (intro _; intros)
    | split

theorem keep_setBuf {s : State} {c : Nat} {k : Nat} {f : CamBuf → CamBuf} (hs : Keep pq s) : Keep pq (State.setBuf s c k f) := by
  unfold State.setBuf
  repeat' first
    | with_reducible assumption
    | with_reducible refine keep_camShow ?_
    | with_reducible refine keep_setCam ?_

theorem keep_camHeader {s : State} {c : Nat} {vc : Nat} {ecc : Nat} {dt : Nat} (hs : Keep pq s) : Keep pq (State.camHeader s c vc ecc dt).2 := by
  unfold State.camHeader
  repeat' first
    | with_reducible assumption
    | (extract_lets +onlyGivenNames -underBinder x; (first | (refine (fun (hx : Keep pq x) => ?_) ?_; generalize x = y at hx ⊢; clear x; rotate_left; unfold x; clear x; rotate_right) | (have _h : Option _ := x; clear _h; generalize x = y; clear x) | (revert x; intro _)))
    | with_reducible refine keep_advance ?_
    | with_reducible refine keep_bump ?_
    | with_reducible refine keep_send ?_
    | with_reducible refine keep_setCam ?_
    | split

theorem keep_camLine {s : State} {c : Nat} {k : Nat} {r : List Byte} {e : Nat} {i : Nat} {bs : List Byte} (hs : Keep pq s) : Keep pq (State.camLine s c k r e i bs) := by
  unfold State.camLine
  repeat' first
    | with_reducible assumption
    | with_reducible refine keep_put ?_

theorem keep_endPlane {s : State} {c : Nat} {r : List Byte} {o : CamOpen} {e : Nat} (hs : Keep pq s) : Keep pq (State.endPlane s c r o e).2 := by
  unfold State.endPlane
  repeat' first
    | with_reducible assumption
    | (extract_lets +onlyGivenNames -underBinder x; (first | (refine (fun (hx : Keep pq x) => ?_) ?_; generalize x = y at hx ⊢; clear x; rotate_left; unfold x; clear x; rotate_right) | (have _h : Option _ := x; clear _h; generalize x = y; clear x) | (revert x; intro _)))
    | with_reducible refine keep_camLine ?_
    | with_reducible refine keep_foldl ?_ ?_
    | (intro _; intros)
    | split

theorem keep_finishFrame {s : State} {c : Nat} {r : List Byte} {o : CamOpen} (hs : Keep pq s) : Keep pq (State.finishFrame s c r o) := by
  unfold State.finishFrame
  repeat' first
    | with_reducible assumption
    | (extract_lets +onlyGivenNames -underBinder x; (first | (refine (fun (hx : Keep pq x) => ?_) ?_; generalize x = y at hx ⊢; clear x; rotate_left; unfold x; clear x; rotate_right) | (have _h : Option _ := x; clear _h; generalize x = y; clear x) | (revert x; intro _)))
    | split
    | with_reducible refine keep_absorb ?_
    | with_reducible refine keep_bump ?_
    | with_reducible refine keep_put ?_
    | with_reducible refine keep_send ?_
    | with_reducible refine keep_setBuf ?_
    | with_reducible refine keep_tally ?_
    | with_reducible refine keep_wf ?_

theorem keep_endPlanes {s : State} {c : Nat} {r : List Byte} {es : List Nat} {sel : CamOpen → Bool} (hs : Keep pq s) : Keep pq (State.endPlanes s c r es sel) := by
  unfold State.endPlanes
  repeat' first
    | with_reducible assumption
    | (extract_lets +onlyGivenNames -underBinder x; (first | (refine (fun (hx : Keep pq x) => ?_) ?_; generalize x = y at hx ⊢; clear x; rotate_left; unfold x; clear x; rotate_right) | (have _h : Option _ := x; clear _h; generalize x = y; clear x) | (revert x; intro _)))
    | split
    | with_reducible refine keep_endPlane ?_
    | with_reducible refine keep_finishFrame ?_
    | with_reducible refine keep_setCam ?_
    | with_reducible refine keep_foldl ?_ ?_
    | with_reducible refine keep_foldl2 ?_ ?_
    | (intro _; intros)
    | with_reducible refine keep_eq2 ‹_› ?_
    | dsimp -zeta only

theorem keep_openFrame {s : State} {c : Nat} {r : List Byte} {frame : Nat} {sof : Nat} (hs : Keep pq s) : Keep pq (State.openFrame s c r frame sof) := by
  unfold State.openFrame
  repeat' first
    | with_reducible assumption
    | (extract_lets +onlyGivenNames -underBinder x; (first | (refine (fun (hx : Keep pq x) => ?_) ?_; generalize x = y at hx ⊢; clear x; rotate_left; unfold x; clear x; rotate_right) | (have _h : Option _ := x; clear _h; generalize x = y; clear x) | (revert x; intro _)))
    | split
    | with_reducible refine keep_bump ?_
    | with_reducible refine keep_send ?_
    | with_reducible refine keep_setBuf ?_
    | with_reducible refine keep_setCam ?_
    | with_reducible refine keep_wf ?_

theorem keep_execFrameStart {camera : Fin 16} {vc : Fin 4} {frame : BitVec 16} {ecc : Fin 3} {latency : Nat} {dt : Nat} {s : State} (hs : Keep pq s) : KeepO pq (execFrameStart camera vc frame ecc latency dt s) := by
  unfold execFrameStart
  repeat' first
    | with_reducible assumption
    | with_reducible refine keepO_next ?_
    | (extract_lets +onlyGivenNames -underBinder x; (first | (refine (fun (hx : Keep pq x) => ?_) ?_; generalize x = y at hx ⊢; clear x; rotate_left; unfold x; clear x; rotate_right) | (have _h : Option _ := x; clear _h; generalize x = y; clear x) | (revert x; intro _)))
    | split
    | with_reducible refine keep_camHeader ?_
    | with_reducible refine keep_endPlanes ?_
    | with_reducible refine keep_openFrame ?_
    | with_reducible refine keep_setCam ?_
    | with_reducible refine keep_eq2 ‹_› ?_
    | dsimp -zeta only

theorem keep_takeLine {s : State} {c : Nat} {r : List Byte} {o : CamOpen} {e : Nat} {crcOk : Bool} {payload : List Byte} (hs : Keep pq s) : Keep pq (State.takeLine s c r o e crcOk payload).2 := by
  unfold State.takeLine
  repeat' first
    | with_reducible assumption
    | (extract_lets +onlyGivenNames -underBinder x; (first | (refine (fun (hx : Keep pq x) => ?_) ?_; generalize x = y at hx ⊢; clear x; rotate_left; unfold x; clear x; rotate_right) | (have _h : Option _ := x; clear _h; generalize x = y; clear x) | (revert x; intro _)))
    | with_reducible refine keep_bump ?_
    | with_reducible refine keep_camLine ?_
    | with_reducible refine keep_send ?_
    | split

theorem keep_execLongPacket {camera : Fin 16} {vc : Fin 4} {dtype : BitVec 6} {ecc : Fin 3} {crcOk : Bool} {payload : List Byte} {dt : Nat} {s : State} (hs : Keep pq s) : KeepO pq (execLongPacket camera vc dtype ecc crcOk payload dt s) := by
  unfold execLongPacket
  repeat' first
    | with_reducible assumption
    | with_reducible refine keepO_next ?_
    | (extract_lets +onlyGivenNames -underBinder x; (first | (have _h : Option _ := x; clear _h; generalize x = y; clear x) | (revert x; intro _)))
    | split
    | with_reducible refine keep_bump ?_
    | with_reducible refine keep_camHeader ?_
    | with_reducible refine keep_setCam ?_
    | with_reducible refine keep_takeLine ?_
    | with_reducible refine keep_eq2 ‹_› ?_
    | dsimp -zeta only

theorem keep_execFrameEnd {camera : Fin 16} {vc : Fin 4} {ecc : Fin 3} {dt : Nat} {s : State} (hs : Keep pq s) : KeepO pq (execFrameEnd camera vc ecc dt s) := by
  unfold execFrameEnd
  repeat' first
    | with_reducible assumption
    | with_reducible refine keepO_next ?_
    | (extract_lets +onlyGivenNames -underBinder x; (first | (have _h : Option _ := x; clear _h; generalize x = y; clear x) | (revert x; intro _)))
    | split
    | with_reducible refine keep_camHeader ?_
    | with_reducible refine keep_endPlanes ?_
    | with_reducible refine keep_eq2 ‹_› ?_
    | dsimp -zeta only

theorem keep_execFrameTimeout {camera : Fin 16} {s : State} (hs : Keep pq s) : KeepO pq (execFrameTimeout camera s) := by
  unfold execFrameTimeout
  repeat' first
    | with_reducible assumption
    | with_reducible refine keepO_next ?_
    | (extract_lets +onlyGivenNames -underBinder x; (first | (refine (fun (hx : Keep pq x) => ?_) ?_; generalize x = y at hx ⊢; clear x; rotate_left; unfold x; clear x; rotate_right) | (have _h : Option _ := x; clear _h; generalize x = y; clear x) | (revert x; intro _)))
    | with_reducible refine keep_advanceTo ?_
    | with_reducible refine keep_endPlanes ?_
    | split

theorem keep_camDown {s : State} {c : Nat} (hs : Keep pq s) : Keep pq (State.camDown s c) := by
  unfold State.camDown
  repeat' first
    | with_reducible assumption
    | with_reducible refine keep_send ?_
    | with_reducible refine keep_wf ?_
    | split

theorem keep_execCamLinkDown {camera : Fin 16} {s : State} (hs : Keep pq s) : KeepO pq (execCamLinkDown camera s) := by
  unfold execCamLinkDown
  repeat' first
    | with_reducible assumption
    | with_reducible refine keepO_next ?_
    | with_reducible refine keep_camDown ?_
    | with_reducible refine keep_wf ?_
    | split

theorem keep_execCamLinkUp {camera : Fin 16} {gear : Fin 6} {scriptOk : Bool} {s : State} (hs : Keep pq s) : KeepO pq (execCamLinkUp camera gear scriptOk s) := by
  unfold execCamLinkUp
  repeat' first
    | with_reducible assumption
    | with_reducible refine keepO_next ?_
    | (extract_lets +onlyGivenNames -underBinder x; (first | (refine (fun (hx : Keep pq x) => ?_) ?_; generalize x = y at hx ⊢; clear x; rotate_left; unfold x; clear x; rotate_right) | (have _h : Option _ := x; clear _h; generalize x = y; clear x) | (revert x; intro _)))
    | with_reducible refine keep_send ?_
    | with_reducible refine keep_setCam ?_
    | with_reducible refine keep_wf ?_
    | split

theorem keep_execCameraTrigger {camera : Fin 16} {s : State} (hs : Keep pq s) : KeepO pq (execCameraTrigger camera s) := by
  unfold execCameraTrigger
  repeat' first
    | with_reducible assumption
    | with_reducible refine keepO_next ?_
    | (extract_lets +onlyGivenNames -underBinder x; (first | (refine (fun (hx : Keep pq x) => ?_) ?_; generalize x = y at hx ⊢; clear x; rotate_left; unfold x; clear x; rotate_right) | (have _h : Option _ := x; clear _h; generalize x = y; clear x) | (revert x; intro _)))
    | with_reducible refine keep_advanceToNs ?_
    | with_reducible refine keep_out ?_
    | with_reducible refine keep_setCam ?_
    | split

theorem keep_csiSend {s : State} {link : Nat} {vc : Nat} {frame : Nat} {packets : List (Nat × List Byte)} (hs : Keep pq s) : Keep pq (State.csiSend s link vc frame packets) := by
  unfold State.csiSend
  repeat' first
    | with_reducible assumption
    | with_reducible refine keep_bump ?_
    | with_reducible refine keep_out ?_
    | with_reducible refine keep_tally ?_
    | split

theorem keep_sendVideo {s : State} {c : Nat} {r : List Byte} {st : CamSet} {levels : List (List Byte)} (hs : Keep pq s) : Keep pq (State.sendVideo s c r st levels) := by
  unfold State.sendVideo
  repeat' first
    | with_reducible assumption
    | (extract_lets +onlyGivenNames -underBinder x; (first | (have _h : Option _ := x; clear _h; generalize x = y; clear x) | (revert x; intro _)))
    | with_reducible refine keep_csiSend ?_
    | with_reducible refine keep_foldl ?_ ?_
    | (intro _; intros)
    | split

theorem keep_psetShow {s : State} {c : Nat} {cur : Nat} (hs : Keep pq s) : Keep pq (State.psetShow s c cur) := by
  unfold State.psetShow
  repeat' first
    | with_reducible assumption
    | with_reducible refine keep_wf ?_

theorem keep_pickPset {s : State} {p : Nat} {c : Nat} {tag : Nat} {frame : Nat} (hs : Keep pq s) : Keep pq (State.pickPset s p c tag frame) := by
  unfold State.pickPset
  repeat' first
    | with_reducible assumption
    | (extract_lets +onlyGivenNames -underBinder x; (first | (refine (fun (hx : Keep pq x) => ?_) ?_; generalize x = y at hx ⊢; clear x; rotate_left; unfold x; clear x; rotate_right) | (have _h : Option _ := x; clear _h; generalize x = y; clear x) | (revert x; intro _)))
    | with_reducible refine keep_bump ?_
    | with_reducible refine keep_psetShow ?_
    | with_reducible refine keep_send ?_
    | with_reducible refine keep_setCam ?_
    | split

theorem keep_execPsetCommit {req : Requester} {camera : Fin 16} {tag : BitVec 32} {s : State} (hs : Keep pq s) : KeepO pq (execPsetCommit req camera tag s) := by
  unfold execPsetCommit
  repeat' first
    | with_reducible assumption
    | with_reducible refine keepO_next ?_
    | (extract_lets +onlyGivenNames -underBinder x; (first | (refine (fun (hx : Keep pq x) => ?_) ?_; generalize x = y at hx ⊢; clear x; rotate_left; unfold x; clear x; rotate_right) | (have _h : Option _ := x; clear _h; generalize x = y; clear x) | (revert x; intro _)))
    | with_reducible refine keep_bump ?_
    | with_reducible refine keep_cmdWrite ?_ ?_
    | with_reducible refine keep_psetShow ?_
    | with_reducible refine keep_setCam ?_
    | (intro _; intros)
    | split

theorem keep_execIspFrameStart {pipe : Fin 4} {s : State} (hs : Keep pq s) : KeepO pq (execIspFrameStart pipe s) := by
  unfold execIspFrameStart
  repeat' first
    | with_reducible assumption
    | with_reducible refine keepO_next ?_
    | (extract_lets +onlyGivenNames -underBinder x; (first | (refine (fun (hx : Keep pq x) => ?_) ?_; generalize x = y at hx ⊢; clear x; rotate_left; unfold x; clear x; rotate_right) | (have _h : Option _ := x; clear _h; generalize x = y; clear x) | (revert x; intro _)))
    | with_reducible refine keep_pickPset ?_
    | with_reducible refine keep_setBuf ?_
    | with_reducible refine keep_setCam ?_
    | with_reducible refine keep_wf ?_
    | split
    | with_reducible refine keep_of ?_

theorem keep_loadPlane {s : State} {c : Nat} {k : Nat} {r : List Byte} {e : Nat} (hs : Keep pq s) : Keep pq (State.loadPlane s c k r e).2.2 := by
  unfold State.loadPlane
  repeat' first
    | with_reducible assumption
    | split
    | with_reducible refine keep_fetch ?_
    | with_reducible refine keep_foldl3 ?_ ?_
    | (intro _; intros)
    | with_reducible refine keep_eq3 ‹_› ?_
    | dsimp -zeta only

theorem keep_checkFb {s : State} {p : Nat} {r : List Byte} {j : PipeJob} {frame : Nat} (hs : Keep pq s) : Keep pq (State.checkFb s p r j frame).2.2 := by
  unfold State.checkFb
  repeat' first
    | with_reducible assumption
    | (extract_lets +onlyGivenNames -underBinder x; (first | (refine (fun (hx : Keep pq x) => ?_) ?_; generalize x = y at hx ⊢; clear x; rotate_left; unfold x; clear x; rotate_right) | (have _h : Option _ := x; clear _h; generalize x = y; clear x) | (revert x; intro _)))
    | split
    | with_reducible refine keep_bump ?_
    | with_reducible refine keep_fetch ?_
    | with_reducible refine keep_loadPlane ?_
    | with_reducible refine keep_send ?_
    | with_reducible refine keep_foldl3 ?_ ?_
    | (intro _; intros)
    | with_reducible refine keep_eq3 ‹_› ?_
    | dsimp -zeta only

theorem keep_putStats {s : State} {c : Nat} {tag : Nat} {st : CamSet} {body : List Byte} {quads : Nat} (hs : Keep pq s) : Keep pq (State.putStats s c tag st body quads) := by
  unfold State.putStats
  repeat' first
    | with_reducible assumption
    | (extract_lets +onlyGivenNames -underBinder x; (first | (refine (fun (hx : Keep pq x) => ?_) ?_; generalize x = y at hx ⊢; clear x; rotate_left; unfold x; clear x; rotate_right) | (have _h : Option _ := x; clear _h; generalize x = y; clear x) | (revert x; intro _)))
    | with_reducible refine keep_store ?_
    | with_reducible refine keep_wf ?_
    | split

theorem keep_sendTap {s : State} {p : Nat} {r : List Byte} {c : Nat} {st : CamSet} {lines : List (Nat × List Byte)} {dropped : List Nat} (hs : Keep pq s) : Keep pq (State.sendTap s p r c st lines dropped) := by
  unfold State.sendTap
  repeat' first
    | with_reducible assumption
    | (extract_lets +onlyGivenNames -underBinder x; (first | (refine (fun (hx : Keep pq x) => ?_) ?_; generalize x = y at hx ⊢; clear x; rotate_left; unfold x; clear x; rotate_right) | (have _h : Option _ := x; clear _h; generalize x = y; clear x) | (revert x; intro _)))
    | with_reducible refine keep_bump ?_
    | with_reducible refine keep_csiSend ?_
    | with_reducible refine keep_send ?_
    | split

theorem keep_execIspFrameDone {pipe : Fin 4} {dropped : List Nat} {s : State} (hs : Keep pq s) : KeepO pq (execIspFrameDone pipe dropped s) := by
  unfold execIspFrameDone
  repeat' first
    | with_reducible assumption
    | with_reducible refine keepO_next ?_
    | (extract_lets +onlyGivenNames -underBinder x; (first | (refine (fun (hx : Keep pq x) => ?_) ?_; generalize x = y at hx ⊢; clear x; rotate_left; unfold x; clear x; rotate_right) | (have _h : Option _ := x; clear _h; generalize x = y; clear x) | (revert x; intro _)))
    | split
    | with_reducible refine keep_advanceTo ?_
    | with_reducible refine keep_checkFb ?_
    | with_reducible refine keep_putStats ?_
    | with_reducible refine keep_sendTap ?_
    | with_reducible refine keep_sendVideo ?_
    | with_reducible refine keep_setBuf ?_
    | with_reducible refine keep_setCam ?_
    | with_reducible refine keep_store ?_
    | with_reducible refine keep_tally ?_
    | with_reducible refine keep_wf ?_
    | with_reducible refine keep_foldl ?_ ?_
    | (intro _; intros)
    | with_reducible refine keep_eq3 ‹_› ?_
    | with_reducible refine keep_of ?_
    | dsimp -zeta only

theorem keep_i2cNext {s : State} {c : Nat} {r : List Byte} (hs : Keep pq s) : Keep pq (State.i2cNext s c r) := by
  unfold State.i2cNext
  repeat' first
    | with_reducible assumption
    | (extract_lets +onlyGivenNames -underBinder x; (first | (refine (fun (hx : Keep pq x) => ?_) ?_; generalize x = y at hx ⊢; clear x; rotate_left; unfold x; clear x; rotate_right) | (have _h : Option _ := x; clear _h; generalize x = y; clear x) | (revert x; intro _)))
    | with_reducible refine keep_out ?_
    | with_reducible refine keep_setCam ?_
    | with_reducible refine keep_wf ?_
    | with_reducible refine keep_foldl ?_ ?_
    | (intro _; intros)
    | split

theorem keep_i2cPush {s : State} {c : Nat} {q : Nat} {op : I2cOp} (hs : Keep pq s) : Keep pq (State.i2cPush s c q op) := by
  unfold State.i2cPush
  repeat' first
    | with_reducible assumption
    | with_reducible refine keep_setCam ?_

theorem keep_i2cCmd {s : State} {req : Requester} {c : Nat} {q : Nat} {op : Nat} {cmd : Nat} {f : List Byte → State → State} (hs : Keep pq s) (hf : ∀ b s, Keep pq s → Keep pq (f b s)) : Keep pq (State.i2cCmd s req c q op cmd f) := by
  unfold State.i2cCmd
  repeat' first
    | with_reducible assumption
    | with_reducible refine hf _ _ ?_
    | with_reducible refine keep_cmdWrite ?_ ?_
    | with_reducible refine keep_i2cNext ?_
    | (intro _; intros)
    | split

theorem keep_execI2cWrite {req : Requester} {camera : Fin 16} {queue : Fin 2} {cmd : BitVec 32} {data : BitVec 32} {s : State} (hs : Keep pq s) : KeepO pq (execI2cWrite req camera queue cmd data s) := by
  unfold execI2cWrite
  repeat' first
    | with_reducible assumption
    | with_reducible refine keepO_next ?_
    | (extract_lets +onlyGivenNames -underBinder x; (first | (have _h : Option _ := x; clear _h; generalize x = y; clear x) | (revert x; intro _)))
    | with_reducible refine keep_i2cCmd ?_ ?_
    | with_reducible refine keep_i2cPush ?_
    | with_reducible refine keep_setCam ?_
    | (intro _; intros)
    | split

theorem keep_execI2cRead {req : Requester} {camera : Fin 16} {queue : Fin 2} {cmd : BitVec 32} {s : State} (hs : Keep pq s) : KeepO pq (execI2cRead req camera queue cmd s) := by
  unfold execI2cRead
  repeat' first
    | with_reducible assumption
    | with_reducible refine keepO_next ?_
    | with_reducible refine keep_i2cCmd ?_ ?_
    | with_reducible refine keep_i2cPush ?_
    | (intro _; intros)
    | split

theorem keep_execGroupOpen {req : Requester} {camera : Fin 16} {queue : Fin 2} {cmd : BitVec 32} {s : State} (hs : Keep pq s) : KeepO pq (execGroupOpen req camera queue cmd s) := by
  unfold execGroupOpen
  repeat' first
    | with_reducible assumption
    | with_reducible refine keepO_next ?_
    | (extract_lets +onlyGivenNames -underBinder x; (first | (have _h : Option _ := x; clear _h; generalize x = y; clear x) | (revert x; intro _)))
    | with_reducible refine keep_i2cCmd ?_ ?_
    | with_reducible refine keep_setCam ?_
    | (intro _; intros)
    | split

theorem keep_execGroupCommit {req : Requester} {camera : Fin 16} {queue : Fin 2} {cmd : BitVec 32} {s : State} (hs : Keep pq s) : KeepO pq (execGroupCommit req camera queue cmd s) := by
  unfold execGroupCommit
  repeat' first
    | with_reducible assumption
    | with_reducible refine keepO_next ?_
    | with_reducible refine keep_i2cCmd ?_ ?_
    | with_reducible refine keep_i2cPush ?_
    | with_reducible refine keep_setCam ?_
    | (intro _; intros)
    | split

theorem keep_execI2cTransactionDone {camera : Fin 16} {nack : Option Nat} {data : BitVec 32} {dt : Nat} {s : State} (hs : Keep pq s) : KeepO pq (execI2cTransactionDone camera nack data dt s) := by
  unfold execI2cTransactionDone
  repeat' first
    | with_reducible assumption
    | with_reducible refine keepO_next ?_
    | (extract_lets +onlyGivenNames -underBinder x; (first | (refine (fun (hx : Keep pq x) => ?_) ?_; generalize x = y at hx ⊢; clear x; rotate_left; unfold x; clear x; rotate_right) | (have _h : Option _ := x; clear _h; generalize x = y; clear x) | (revert x; intro _)))
    | with_reducible refine keep_advance ?_
    | with_reducible refine keep_i2cNext ?_
    | with_reducible refine keep_send ?_
    | with_reducible refine keep_setCam ?_
    | with_reducible refine keep_wf ?_
    | split

theorem keep_execI2cTimeout {camera : Fin 16} {step : Nat} {s : State} (hs : Keep pq s) : KeepO pq (execI2cTimeout camera step s) := by
  unfold execI2cTimeout
  repeat' first
    | with_reducible assumption
    | with_reducible refine keepO_next ?_
    | (extract_lets +onlyGivenNames -underBinder x; (first | (refine (fun (hx : Keep pq x) => ?_) ?_; generalize x = y at hx ⊢; clear x; rotate_left; unfold x; clear x; rotate_right) | (have _h : Option _ := x; clear _h; generalize x = y; clear x) | (revert x; intro _)))
    | with_reducible refine keep_advance ?_
    | with_reducible refine keep_i2cNext ?_
    | with_reducible refine keep_send ?_
    | with_reducible refine keep_setCam ?_
    | with_reducible refine keep_wf ?_
    | split

theorem keep_camFirst {s : State} (hs : Keep pq s) : Keep pq (State.camFirst s) := by
  unfold State.camFirst
  repeat' first
    | with_reducible assumption
    | (extract_lets +onlyGivenNames -underBinder x; (refine (fun (hx : Keep pq x) => ?_) ?_; generalize x = y at hx ⊢; clear x; rotate_left; unfold x; clear x; rotate_right))
    | with_reducible refine keep_psetShow ?_
    | with_reducible refine keep_setCam ?_
    | with_reducible refine keep_foldl ?_ ?_
    | (intro _; intros)
    | split

theorem keep_camClear {s : State} (hs : Keep pq s) : Keep pq s.camClear := by
  have h1 : Keep pq { s with
      cams := s.cams.map (fun m => { Cam.reset with pset := m.pset, pocTrip := m.pocTrip, pocDead := m.pocDead, seq := m.seq }),
      pipes := List.replicate 4 none } := keep_of hs (h5 := hs.2.pipes.symm)
  exact keep_foldl (fun _ _ h => keep_wf (keep_wf h)) (keep_foldl (fun _ _ h => keep_camShow (keep_wf (keep_wf h))) h1)

end Sys2Proof.Machine
end

