-- ==== Sys2Proof/Laws/KeepEvidence.lean ====
section
/-! SUPPORT. Every operation and meaning of Machine/Evidence.lean keeps a sound state sound and the queue as it is. -/

namespace Sys2Proof.Machine
open Sys2Proof
set_option Elab.async false
set_option linter.all false

variable {pq : List Instr}

theorem keep_writeEv {s : State} {v : Evid} {outcome : Nat} (hs : Keep pq s) : Keep pq (State.writeEv s v outcome) := by
  unfold State.writeEv
  repeat' first
    | with_reducible assumption
    | (extract_lets +onlyGivenNames -underBinder x; (first | (refine (fun (hx : Keep pq x) => ?_) ?_; generalize x = y at hx ⊢; clear x; rotate_left; unfold x; clear x; rotate_right) | (have _h : Option _ := x; clear _h; generalize x = y; clear x) | (revert x; intro _)))
    | with_reducible refine keep_wrN ?_
    | split
    | with_reducible refine keep_of ?_

theorem keep_countUnattr {s : State} {p : Nat} (hs : Keep pq s) : Keep pq (State.countUnattr s p) := by
  unfold State.countUnattr
  repeat' first
    | with_reducible assumption
    | (extract_lets +onlyGivenNames -underBinder x; (first | (refine (fun (hx : Keep pq x) => ?_) ?_; generalize x = y at hx ⊢; clear x; rotate_left; unfold x; clear x; rotate_right) | (have _h : Option _ := x; clear _h; generalize x = y; clear x) | (revert x; intro _)))
    | with_reducible refine keep_send ?_
    | with_reducible refine keep_wf ?_
    | split
    | with_reducible refine keep_of ?_

theorem keep_evNone {s : State} {v : Evid} (hs : Keep pq s) : Keep pq (State.evNone s v) := by
  unfold State.evNone
  repeat' first
    | with_reducible assumption
    | (extract_lets +onlyGivenNames -underBinder x; (first | (refine (fun (hx : Keep pq x) => ?_) ?_; generalize x = y at hx ⊢; clear x; rotate_left; unfold x; clear x; rotate_right) | (have _h : Option _ := x; clear _h; generalize x = y; clear x) | (revert x; intro _)))
    | with_reducible refine keep_bump ?_
    | with_reducible refine keep_countUnattr ?_
    | with_reducible refine keep_request ?_
    | with_reducible refine keep_writeEv ?_
    | with_reducible refine keep_foldl ?_ ?_
    | (intro _; intros)
    | with_reducible refine keep_of ?_

theorem keep_evResolve {s : State} {v : Evid} (hs : Keep pq s) : Keep pq (State.evResolve s v) := by
  unfold State.evResolve
  repeat' first
    | with_reducible assumption
    | (extract_lets +onlyGivenNames -underBinder x; (first | (refine (fun (hx : Keep pq x) => ?_) ?_; generalize x = y at hx ⊢; clear x; rotate_left; unfold x; clear x; rotate_right) | (have _h : Option _ := x; clear _h; generalize x = y; clear x) | (revert x; intro _)))
    | with_reducible refine keep_bump ?_
    | with_reducible refine keep_countUnattr ?_
    | with_reducible refine keep_send ?_
    | with_reducible refine keep_writeEv ?_
    | split
    | with_reducible refine keep_of ?_

theorem keep_sweepEvs {s : State} (hs : Keep pq s) : Keep pq (State.sweepEvs s) := by
  unfold State.sweepEvs
  repeat' first
    | with_reducible assumption
    | (extract_lets +onlyGivenNames -underBinder x; (first | (refine (fun (hx : Keep pq x) => ?_) ?_; generalize x = y at hx ⊢; clear x; rotate_left; unfold x; clear x; rotate_right) | (have _h : Option _ := x; clear _h; generalize x = y; clear x) | (revert x; intro _)))
    | with_reducible refine keep_evResolve ?_
    | with_reducible refine keep_foldl ?_ ?_
    | (intro _; intros)
    | with_reducible refine keep_of ?_

theorem keep_markDigest {s : State} {l : List Nat} (hs : Keep pq s) : Keep pq (State.markDigest s l) := by
  unfold State.markDigest
  repeat' first
    | with_reducible assumption
    | with_reducible refine keep_markResult ?_
    | with_reducible refine keep_foldl ?_ ?_
    | (intro _; intros)

theorem keep_execDigestCompare {region : Byte} {s : State} (hs : Keep pq s) : KeepO pq (execDigestCompare region s) := by
  unfold execDigestCompare
  repeat' first
    | with_reducible assumption
    | with_reducible refine keepO_next ?_
    | (extract_lets +onlyGivenNames -underBinder x; (first | (refine (fun (hx : Keep pq x) => ?_) ?_; generalize x = y at hx ⊢; clear x; rotate_left; unfold x; clear x; rotate_right) | (have _h : Option _ := x; clear _h; generalize x = y; clear x) | (revert x; intro _)))
    | split
    | with_reducible refine keep_advanceTo ?_
    | with_reducible refine keep_bump ?_
    | with_reducible refine keep_evNone ?_
    | with_reducible refine keep_markDigest ?_
    | with_reducible refine keep_send ?_
    | with_reducible refine keep_sendMsg ?_
    | with_reducible refine keep_voidStreams ?_
    | with_reducible refine keep_of ?_

theorem keep_execEvidenceCaptureDone {slot : Byte} {dt : Nat} {s : State} (hs : Keep pq s) : KeepO pq (execEvidenceCaptureDone slot dt s) := by
  unfold execEvidenceCaptureDone
  repeat' first
    | with_reducible assumption
    | with_reducible refine keepO_next ?_
    | (extract_lets +onlyGivenNames -underBinder x; (first | (refine (fun (hx : Keep pq x) => ?_) ?_; generalize x = y at hx ⊢; clear x; rotate_left; unfold x; clear x; rotate_right) | (have _h : Option _ := x; clear _h; generalize x = y; clear x) | (revert x; intro _)))
    | with_reducible refine keep_advance ?_
    | with_reducible refine keep_sweepEvs ?_
    | with_reducible refine keep_writeEv ?_
    | split
    | with_reducible refine keep_of ?_

theorem keep_execEvidenceHoldEnd {slot : Byte} {s : State} (hs : Keep pq s) : KeepO pq (execEvidenceHoldEnd slot s) := by
  unfold execEvidenceHoldEnd
  repeat' first
    | with_reducible assumption
    | with_reducible refine keepO_next ?_
    | with_reducible refine keep_advanceTo ?_
    | with_reducible refine keep_evNone ?_
    | split

theorem keep_execStrandProgramDone {phys : Fin 66} {engine : Fin 8} {fails : List (Fin 100 × BitVec 16)} {s : State} (hs : Keep pq s) : KeepO pq (execStrandProgramDone phys engine fails s) := by
  unfold execStrandProgramDone
  repeat' first
    | with_reducible assumption
    | with_reducible refine keepO_next ?_
    | (extract_lets +onlyGivenNames -underBinder x; (first | (refine (fun (hx : Keep pq x) => ?_) ?_; generalize x = y at hx ⊢; clear x; rotate_left; unfold x; clear x; rotate_right) | (have _h : Option _ := x; clear _h; generalize x = y; clear x) | (revert x; intro _)))
    | with_reducible refine keep_advanceTo ?_
    | with_reducible refine keep_strandFail ?_
    | with_reducible refine keep_sweepEvs ?_
    | with_reducible refine keep_turnsDone ?_
    | with_reducible refine keep_foldl ?_ ?_
    | (intro _; intros)
    | split
    | with_reducible refine keep_of ?_

theorem keep_execSuspectReplayDone {slot : Byte} {suspect : Fin 8} {equal : Bool} {s : State} (hs : Keep pq s) : KeepO pq (execSuspectReplayDone slot suspect equal s) := by
  unfold execSuspectReplayDone
  repeat' first
    | with_reducible assumption
    | with_reducible refine keepO_next ?_
    | (extract_lets +onlyGivenNames -underBinder x; (first | (refine (fun (hx : Keep pq x) => ?_) ?_; generalize x = y at hx ⊢; clear x; rotate_left; unfold x; clear x; rotate_right) | (have _h : Option _ := x; clear _h; generalize x = y; clear x) | (revert x; intro _)))
    | split
    | with_reducible refine keep_advance ?_
    | with_reducible refine keep_freeNat ?_
    | with_reducible refine keep_strandFail ?_
    | with_reducible refine keep_sweepEvs ?_
    | with_reducible refine keep_eq2 ‹_› ?_
    | with_reducible refine keep_of ?_
    | dsimp -zeta only

end Sys2Proof.Machine
end

