-- ==== Sys2Proof/Laws/KeepIngest.lean ====
section
/-! SUPPORT. Every operation and meaning of Machine/Ingest.lean keeps a sound state sound and the queue as it is. -/

namespace Sys2Proof.Machine
open Sys2Proof
set_option Elab.async false
set_option linter.all false

variable {pq : List Instr}

theorem keep_readSet {s : State} {r : List Byte} {k : Nat} (hs : Keep pq s) : Keep pq (State.readSet s r k).2.2 := by
  unfold State.readSet
  repeat' first
    | with_reducible assumption
    | (extract_lets +onlyGivenNames -underBinder x; (first | (have _h : Option _ := x; clear _h; generalize x = y; clear x) | (revert x; intro _)))
    | split
    | with_reducible refine keep_load ?_
    | with_reducible refine keep_foldl3 ?_ ?_
    | (intro _; intros)
    | with_reducible refine keep_eq3 ‹_› ?_
    | dsimp -zeta only

theorem keep_selectCam {s : State} {c : Nat} {r : List Byte} (hs : Keep pq s) : Keep pq (State.selectCam s c r).2.2 := by
  unfold State.selectCam
  repeat' first
    | with_reducible assumption
    | (extract_lets +onlyGivenNames -underBinder x; (first | (refine (fun (hx : Keep pq x) => ?_) ?_; generalize x = y at hx ⊢; clear x; rotate_left; unfold x; clear x; rotate_right) | (have _h : Option _ := x; clear _h; generalize x = y; clear x) | (revert x; intro _)))
    | split
    | with_reducible refine keep_readSet ?_
    | with_reducible refine keep_setCam ?_
    | with_reducible refine keep_eq3 ‹_› ?_
    | dsimp -zeta only

theorem keep_ingestTile {s : State} {stream : Nat} {i : Nat} {a3 : List Hdr} {void : Bool} {pay : List Byte} (hs : Keep pq s) : Keep pq (State.ingestTile s stream i a3 void pay) := by
  unfold State.ingestTile
  repeat' first
    | with_reducible assumption
    | (extract_lets +onlyGivenNames -underBinder x; (first | (have _h : Option _ := x; clear _h; generalize x = y; clear x) | (revert x; intro _)))
    | split
    | with_reducible refine keep_writeTile ?_

theorem keep_levelStreams {s : State} {r : List Byte} {x : CamSel} {data : List (List Byte)} (hs : Keep pq s) : Keep pq (State.levelStreams s r x data) := by
  unfold State.levelStreams
  repeat' first
    | with_reducible assumption
    | (extract_lets +onlyGivenNames -underBinder x; (first | (have _h : Option _ := x; clear _h; generalize x = y; clear x) | (revert x; intro _)))
    | with_reducible refine keep_ingestTile ?_
    | with_reducible refine keep_foldl ?_ ?_
    | (intro _; intros)
    | split

theorem keep_camSlot {s : State} {b : List Byte} {k : Nat} {x : CamSel} {r : List Byte} {data : List (List Byte)} (hs : Keep pq s) : Keep pq (State.camSlot s b k x r data) := by
  unfold State.camSlot
  repeat' first
    | with_reducible assumption
    | (extract_lets +onlyGivenNames -underBinder x; (first | (have _h : Option _ := x; clear _h; generalize x = y; clear x) | (revert x; intro _)))
    | with_reducible refine keep_ingestTile ?_
    | with_reducible refine keep_foldl ?_ ?_
    | (intro _; intros)
    | split

theorem keep_lidSlot {s : State} {b : List Byte} {k : Nat} {x : LidSample} {vs : List Vox} {free : Bool} (hs : Keep pq s) : Keep pq (State.lidSlot s b k x vs free) := by
  unfold State.lidSlot
  repeat' first
    | with_reducible assumption
    | (extract_lets +onlyGivenNames -underBinder x; (first | (have _h : Option _ := x; clear _h; generalize x = y; clear x) | (revert x; intro _)))
    | with_reducible refine keep_ingestTile ?_
    | with_reducible refine keep_foldl ?_ ?_
    | (intro _; intros)

theorem keep_snapshot {s : State} (hs : Keep pq s) : Keep pq (State.snapshot s) := by
  unfold State.snapshot
  repeat' first
    | with_reducible assumption
    | (extract_lets +onlyGivenNames -underBinder x; (first | (refine (fun (hx : Keep pq x) => ?_) ?_; generalize x = y at hx ⊢; clear x; rotate_left; unfold x; clear x; rotate_right) | (have _h : Option _ := x; clear _h; generalize x = y; clear x) | (revert x; intro _)))
    | split
    | with_reducible refine keep_absorb ?_
    | with_reducible refine keep_addCard ?_
    | with_reducible refine keep_camSlot ?_
    | with_reducible refine keep_closeGen ?_
    | with_reducible refine keep_ingestTile ?_
    | with_reducible refine keep_levelStreams ?_
    | with_reducible refine keep_lidSlot ?_
    | with_reducible refine keep_selectCam ?_
    | with_reducible refine keep_send ?_
    | with_reducible refine keep_tally ?_
    | with_reducible refine keep_foldl ?_ ?_
    | with_reducible refine keep_foldl2 ?_ ?_
    | (intro _; intros)
    | with_reducible refine keep_eq2 ‹_› ?_
    | with_reducible refine keep_eq3 ‹_› ?_
    | with_reducible refine keep_of ?_
    | dsimp -zeta only

theorem keep_execBatchReadyDeadline {batch : Fin 32} {late : Option (BitVec 12)} {s : State} (hs : Keep pq s) : KeepO pq (execBatchReadyDeadline batch late s) := by
  unfold execBatchReadyDeadline
  repeat' first
    | with_reducible assumption
    | with_reducible refine keepO_next ?_
    | (extract_lets +onlyGivenNames -underBinder x; (first | (refine (fun (hx : Keep pq x) => ?_) ?_; generalize x = y at hx ⊢; clear x; rotate_left; unfold x; clear x; rotate_right) | (have _h : Option _ := x; clear _h; generalize x = y; clear x) | (revert x; intro _)))
    | with_reducible refine keep_advanceTo ?_
    | with_reducible refine keep_bump ?_
    | with_reducible refine keep_ingestTile ?_
    | with_reducible refine keep_send ?_
    | with_reducible refine keep_foldl ?_ ?_
    | (intro _; intros)
    | split

end Sys2Proof.Machine
end

