-- ==== Sys2Proof/Laws/KeepJexong.lean ====
section
/-! SUPPORT. Every operation and meaning of Machine/Jexong.lean keeps a sound state sound and the queue as it is. -/

namespace Sys2Proof.Machine
open Sys2Proof
set_option Elab.async false
set_option linter.all false

variable {pq : List Instr}

theorem keep_setPeer {s : State} {m : Nat} {f : Peer → Peer} (hs : Keep pq s) : Keep pq (State.setPeer s m f) := by
  unfold State.setPeer
  repeat' first
    | with_reducible assumption
    | (extract_lets +onlyGivenNames -underBinder x; (first | (have _h : Option _ := x; clear _h; generalize x = y; clear x) | (revert x; intro _)))
    | with_reducible refine keep_of ?_

theorem keep_jxSend {s : State} {typ : Nat} {body : List Byte} (hs : Keep pq s) : Keep pq (State.jxSend s typ body) := by
  unfold State.jxSend
  repeat' first
    | with_reducible assumption
    | (extract_lets +onlyGivenNames -underBinder x; (first | (have _h : Option _ := x; clear _h; generalize x = y; clear x) | (revert x; intro _)))
    | with_reducible refine keep_out ?_

theorem keep_jxRefuse {s : State} {k : Nat} {code : Nat} {major : Nat} (hs : Keep pq s) : Keep pq (State.jxRefuse s k code major) := by
  unfold State.jxRefuse
  repeat' first
    | with_reducible assumption
    | (extract_lets +onlyGivenNames -underBinder x; (refine (fun (hx : Keep pq x) => ?_) ?_; generalize x = y at hx ⊢; clear x; rotate_left; unfold x; clear x; rotate_right))
    | with_reducible refine keep_bump ?_
    | with_reducible refine keep_jxSend ?_
    | with_reducible refine keep_send ?_
    | with_reducible refine keep_setPeer ?_

theorem keep_jxAgree {s : State} (hs : Keep pq s) : Keep pq (State.jxAgree s) := by
  unfold State.jxAgree
  repeat' first
    | with_reducible assumption
    | with_reducible refine keep_wf ?_

theorem keep_execJxHello {m : JxMsg} {s : State} (hs : Keep pq s) : KeepO pq (execJxHello m s) := by
  unfold execJxHello
  repeat' first
    | with_reducible assumption
    | with_reducible refine keepO_next ?_
    | (extract_lets +onlyGivenNames -underBinder x; (first | (have _h : Option _ := x; clear _h; generalize x = y; clear x) | (revert x; intro _)))
    | with_reducible refine keep_jxAgree ?_
    | with_reducible refine keep_jxRefuse ?_
    | with_reducible refine keep_setPeer ?_
    | split

theorem keep_execJxHelloSend {s : State} (hs : Keep pq s) : KeepO pq (execJxHelloSend s) := by
  unfold execJxHelloSend
  repeat' first
    | with_reducible assumption
    | with_reducible refine keepO_next ?_
    | with_reducible refine keep_jxSend ?_
    | split

theorem keep_execJxReady {m : JxMsg} {s : State} (hs : Keep pq s) : KeepO pq (execJxReady m s) := by
  unfold execJxReady
  repeat' first
    | with_reducible assumption
    | with_reducible refine keepO_next ?_
    | with_reducible refine keep_setPeer ?_
    | split

theorem keep_execJxReadySend {s : State} (hs : Keep pq s) : KeepO pq (execJxReadySend s) := by
  unfold execJxReadySend
  repeat' first
    | with_reducible assumption
    | with_reducible refine keepO_next ?_
    | (extract_lets +onlyGivenNames -underBinder x; (first | (refine (fun (hx : Keep pq x) => ?_) ?_; generalize x = y at hx ⊢; clear x; rotate_left; unfold x; clear x; rotate_right) | (have _h : Option _ := x; clear _h; generalize x = y; clear x) | (revert x; intro _)))
    | with_reducible refine keep_jxSend ?_
    | with_reducible refine keep_wf ?_
    | split
    | with_reducible refine keep_of ?_

theorem keep_holdArm {s : State} {members : Nat} {first : Nat} {go : Nat} (hs : Keep pq s) : Keep pq (State.holdArm s members first go) := by
  unfold State.holdArm
  repeat' first
    | with_reducible assumption
    | (extract_lets +onlyGivenNames -underBinder x; (first | (refine (fun (hx : Keep pq x) => ?_) ?_; generalize x = y at hx ⊢; clear x; rotate_left; unfold x; clear x; rotate_right) | (have _h : Option _ := x; clear _h; generalize x = y; clear x) | (revert x; intro _)))
    | with_reducible refine keep_wf ?_
    | with_reducible refine keep_of ?_

theorem keep_sendArm {s : State} (hs : Keep pq s) : Keep pq (State.sendArm s) := by
  unfold State.sendArm
  repeat' first
    | with_reducible assumption
    | (extract_lets +onlyGivenNames -underBinder x; (first | (refine (fun (hx : Keep pq x) => ?_) ?_; generalize x = y at hx ⊢; clear x; rotate_left; unfold x; clear x; rotate_right) | (have _h : Option _ := x; clear _h; generalize x = y; clear x) | (revert x; intro _)))
    | with_reducible refine keep_holdArm ?_
    | with_reducible refine keep_jxSend ?_
    | with_reducible refine keep_send ?_
    | with_reducible refine keep_foldl ?_ ?_
    | (intro _; intros)
    | split
    | with_reducible refine keep_of ?_

theorem keep_execArmSend {s : State} (hs : Keep pq s) : KeepO pq (execArmSend s) := by
  unfold execArmSend
  repeat' first
    | with_reducible assumption
    | with_reducible refine keepO_next ?_
    | with_reducible refine keep_sendArm ?_
    | split

theorem keep_execReadyTimeout {s : State} (hs : Keep pq s) : KeepO pq (execReadyTimeout s) := by
  unfold execReadyTimeout
  repeat' first
    | with_reducible assumption
    | with_reducible refine keepO_next ?_
    | with_reducible refine keep_advanceTo ?_
    | with_reducible refine keep_sendArm ?_
    | split

theorem keep_execArmFallback {s : State} (hs : Keep pq s) : KeepO pq (execArmFallback s) := by
  unfold execArmFallback
  repeat' first
    | with_reducible assumption
    | with_reducible refine keepO_next ?_
    | (extract_lets +onlyGivenNames -underBinder x; (first | (have _h : Option _ := x; clear _h; generalize x = y; clear x) | (revert x; intro _)))
    | with_reducible refine keep_advanceTo ?_
    | with_reducible refine keep_sendArm ?_
    | split

theorem keep_setFirst {s : State} {n : Nat} (hs : Keep pq s) : Keep pq (State.setFirst s n) := by
  unfold State.setFirst
  repeat' first
    | with_reducible assumption
    | with_reducible refine keep_armBell ?_
    | split

theorem keep_noGo {s : State} {locked : Bool} {first : Nat} (hs : Keep pq s) : Keep pq (State.noGo s locked first) := by
  unfold State.noGo
  repeat' first
    | with_reducible assumption
    | (extract_lets +onlyGivenNames -underBinder x; (first | (refine (fun (hx : Keep pq x) => ?_) ?_; generalize x = y at hx ⊢; clear x; rotate_left; unfold x; clear x; rotate_right) | (have _h : Option _ := x; clear _h; generalize x = y; clear x) | (revert x; intro _)))
    | with_reducible refine keep_send ?_
    | with_reducible refine keep_setFirst ?_
    | with_reducible refine keep_wf ?_
    | split
    | with_reducible refine keep_of ?_

theorem keep_execJxArm {m : JxMsg} {s : State} (hs : Keep pq s) : KeepO pq (execJxArm m s) := by
  unfold execJxArm
  repeat' first
    | with_reducible assumption
    | with_reducible refine keepO_next ?_
    | (extract_lets +onlyGivenNames -underBinder x; (first | (have _h : Option _ := x; clear _h; generalize x = y; clear x) | (revert x; intro _)))
    | with_reducible refine keep_holdArm ?_
    | with_reducible refine keep_noGo ?_
    | split

theorem keep_execGoDrive {s : State} (hs : Keep pq s) : KeepO pq (execGoDrive s) := by
  unfold execGoDrive
  repeat' first
    | with_reducible assumption
    | with_reducible refine keepO_next ?_
    | (extract_lets +onlyGivenNames -underBinder x; (first | (refine (fun (hx : Keep pq x) => ?_) ?_; generalize x = y at hx ⊢; clear x; rotate_left; unfold x; clear x; rotate_right) | (have _h : Option _ := x; clear _h; generalize x = y; clear x) | (revert x; intro _)))
    | with_reducible refine keep_advanceToNs ?_
    | with_reducible refine keep_out ?_
    | split
    | with_reducible refine keep_of ?_

theorem keep_strayGo {s : State} (hs : Keep pq s) : Keep pq (State.strayGo s) := by
  unfold State.strayGo
  repeat' first
    | with_reducible assumption
    | with_reducible refine keep_send ?_

theorem keep_execGoEdge {late : Nat} {s : State} (hs : Keep pq s) : KeepO pq (execGoEdge late s) := by
  unfold execGoEdge
  repeat' first
    | with_reducible assumption
    | with_reducible refine keepO_next ?_
    | (extract_lets +onlyGivenNames -underBinder x; (first | (refine (fun (hx : Keep pq x) => ?_) ?_; generalize x = y at hx ⊢; clear x; rotate_left; unfold x; clear x; rotate_right) | (have _h : Option _ := x; clear _h; generalize x = y; clear x) | (revert x; intro _)))
    | with_reducible refine keep_units ?_
    | with_reducible refine keep_advance ?_
    | with_reducible refine keep_advanceToNs ?_
    | with_reducible refine keep_send ?_
    | with_reducible refine keep_setFirst ?_
    | with_reducible refine keep_strayGo ?_
    | with_reducible refine keep_wf ?_
    | split
    | with_reducible refine keep_of ?_

theorem keep_execGoTimeout {s : State} (hs : Keep pq s) : KeepO pq (execGoTimeout s) := by
  unfold execGoTimeout
  repeat' first
    | with_reducible assumption
    | with_reducible refine keepO_next ?_
    | with_reducible refine keep_advanceToNs ?_
    | with_reducible refine keep_noGo ?_
    | split

theorem keep_execGoLoopCheck {returned : Option (BitVec 16)} {s : State} (hs : Keep pq s) : KeepO pq (execGoLoopCheck returned s) := by
  unfold execGoLoopCheck
  repeat' first
    | with_reducible assumption
    | with_reducible refine keepO_next ?_
    | with_reducible refine keep_send ?_
    | with_reducible refine keep_wf ?_
    | split

theorem keep_execJxHeartbeat {m : JxMsg} {s : State} (hs : Keep pq s) : KeepO pq (execJxHeartbeat m s) := by
  unfold execJxHeartbeat
  repeat' first
    | with_reducible assumption
    | with_reducible refine keepO_next ?_
    | (extract_lets +onlyGivenNames -underBinder x; (first | (refine (fun (hx : Keep pq x) => ?_) ?_; generalize x = y at hx ⊢; clear x; rotate_left; unfold x; clear x; rotate_right) | (have _h : Option _ := x; clear _h; generalize x = y; clear x) | (revert x; intro _)))
    | with_reducible refine keep_send ?_
    | with_reducible refine keep_setPeer ?_
    | with_reducible refine keep_wf ?_
    | split
    | with_reducible refine keep_of ?_

theorem keep_sendHeartbeat {s : State} (hs : Keep pq s) : Keep pq (State.sendHeartbeat s) := by
  unfold State.sendHeartbeat
  repeat' first
    | with_reducible assumption
    | (extract_lets +onlyGivenNames -underBinder x; (first | (have _h : Option _ := x; clear _h; generalize x = y; clear x) | (revert x; intro _)))
    | with_reducible refine keep_jxSend ?_
    | split

theorem keep_execHeartbeatDeadline {s : State} (hs : Keep pq s) : KeepO pq (execHeartbeatDeadline s) := by
  unfold execHeartbeatDeadline
  repeat' first
    | with_reducible assumption
    | with_reducible refine keepO_next ?_
    | (extract_lets +onlyGivenNames -underBinder x; (first | (refine (fun (hx : Keep pq x) => ?_) ?_; generalize x = y at hx ⊢; clear x; rotate_left; unfold x; clear x; rotate_right) | (have _h : Option _ := x; clear _h; generalize x = y; clear x) | (revert x; intro _)))
    | with_reducible refine keep_advanceTo ?_
    | with_reducible refine keep_bump ?_
    | with_reducible refine keep_send ?_
    | with_reducible refine keep_wf ?_
    | with_reducible refine keep_foldl ?_ ?_
    | (intro _; intros)
    | split
    | with_reducible refine keep_of ?_

theorem keep_execJxJoin {m : JxMsg} {s : State} (hs : Keep pq s) : KeepO pq (execJxJoin m s) := by
  unfold execJxJoin
  repeat' first
    | with_reducible assumption
    | with_reducible refine keepO_next ?_
    | (extract_lets +onlyGivenNames -underBinder x; (first | (refine (fun (hx : Keep pq x) => ?_) ?_; generalize x = y at hx ⊢; clear x; rotate_left; unfold x; clear x; rotate_right) | (have _h : Option _ := x; clear _h; generalize x = y; clear x) | (revert x; intro _)))
    | with_reducible refine keep_setFirst ?_
    | with_reducible refine keep_wf ?_
    | split
    | with_reducible refine keep_of ?_

theorem keep_execJxJoinSend {s : State} (hs : Keep pq s) : KeepO pq (execJxJoinSend s) := by
  unfold execJxJoinSend
  repeat' first
    | with_reducible assumption
    | with_reducible refine keepO_next ?_
    | (extract_lets +onlyGivenNames -underBinder x; (first | (refine (fun (hx : Keep pq x) => ?_) ?_; generalize x = y at hx ⊢; clear x; rotate_left; unfold x; clear x; rotate_right) | (have _h : Option _ := x; clear _h; generalize x = y; clear x) | (revert x; intro _)))
    | with_reducible refine keep_jxSend ?_
    | with_reducible refine keep_setPeer ?_
    | split
    | with_reducible refine keep_of ?_

theorem keep_execJxRefuse {m : JxMsg} {s : State} (hs : Keep pq s) : KeepO pq (execJxRefuse m s) := by
  unfold execJxRefuse
  repeat' first
    | with_reducible assumption
    | with_reducible refine keepO_next ?_
    | with_reducible refine keep_bump ?_
    | split

end Sys2Proof.Machine
end

