-- ==== Sys2Proof/Laws/KeepOutputs.lean ====
section
/-! SUPPORT. Every operation and meaning of Machine/Outputs.lean keeps a sound state sound and the queue as it is. -/

namespace Sys2Proof.Machine
open Sys2Proof
set_option Elab.async false
set_option linter.all false

variable {pq : List Instr}

theorem keep_outPort {s : State} {src : Nat} {cause : Nat} {port : Nat} {dataId : Nat} (hs : Keep pq s) : Keep pq (State.outPort s src cause port dataId) := by
  unfold State.outPort
  repeat' first
    | with_reducible assumption
    | with_reducible refine keep_send ?_

theorem keep_countDrop {s : State} {q : Nat} {n : Nat} (hs : Keep pq s) : Keep pq (State.countDrop s q n) := by
  unfold State.countDrop
  repeat' first
    | with_reducible assumption
    | with_reducible refine keep_bump ?_
    | split

theorem keep_setOutQueue {s : State} {q : Nat} {l : List OutRec} (hs : Keep pq s) : Keep pq (State.setOutQueue s q l) := by
  unfold State.setOutQueue
  repeat' first
    | with_reducible assumption
    | (extract_lets +onlyGivenNames -underBinder x; (first | (have _h : Option _ := x; clear _h; generalize x = y; clear x) | (revert x; intro _)))
    | with_reducible refine keep_of ?_

theorem keep_reuseHalf {s : State} {bell : Nat} (hs : Keep pq s) : Keep pq (State.reuseHalf s bell) := by
  unfold State.reuseHalf
  repeat' first
    | with_reducible assumption
    | (extract_lets +onlyGivenNames -underBinder x; (first | (refine (fun (hx : Keep pq x) => ?_) ?_; generalize x = y at hx ⊢; clear x; rotate_left; unfold x; clear x; rotate_right) | (have _h : Option _ := x; clear _h; generalize x = y; clear x) | (revert x; intro _)))
    | with_reducible refine keep_countDrop ?_
    | with_reducible refine keep_outPort ?_
    | with_reducible refine keep_setOutQueue ?_
    | with_reducible refine keep_foldl ?_ ?_
    | (intro _; intros)
    | split

theorem keep_queueRec {s : State} {q : Nat} {kind : Nat} {r : OutRec} (hs : Keep pq s) : Keep pq (State.queueRec s q kind r) := by
  unfold State.queueRec
  repeat' first
    | with_reducible assumption
    | with_reducible refine keep_countDrop ?_
    | with_reducible refine keep_setOutQueue ?_
    | split

theorem keep_emitRecord {s : State} {o : Nat} {bell : Nat} {bytes : List Byte} (hs : Keep pq s) : Keep pq (State.emitRecord s o bell bytes) := by
  unfold State.emitRecord
  repeat' first
    | with_reducible assumption
    | (extract_lets +onlyGivenNames -underBinder x; (first | (refine (fun (hx : Keep pq x) => ?_) ?_; generalize x = y at hx ⊢; clear x; rotate_left; unfold x; clear x; rotate_right) | (have _h : Option _ := x; clear _h; generalize x = y; clear x) | (revert x; intro _)))
    | with_reducible refine keep_queueRec ?_
    | with_reducible refine keep_reuseHalf ?_
    | with_reducible refine keep_store ?_
    | with_reducible refine keep_foldl ?_ ?_
    | (intro _; intros)
    | split

theorem keep_noteContested {s : State} (hs : Keep pq s) : Keep pq (State.noteContested s) := by
  unfold State.noteContested
  repeat' first
    | with_reducible assumption
    | (extract_lets +onlyGivenNames -underBinder x; (first | (refine (fun (hx : Keep pq x) => ?_) ?_; generalize x = y at hx ⊢; clear x; rotate_left; unfold x; clear x; rotate_right) | (have _h : Option _ := x; clear _h; generalize x = y; clear x) | (revert x; intro _)))
    | with_reducible refine keep_send ?_
    | split
    | with_reducible refine keep_of ?_

theorem keep_noteRelease {s : State} {o : Nat} {bell : Nat} {reason : Nat} {flags : Nat} (hs : Keep pq s) : Keep pq (State.noteRelease s o bell reason flags) := by
  unfold State.noteRelease
  repeat' first
    | with_reducible assumption
    | (extract_lets +onlyGivenNames -underBinder x; (first | (refine (fun (hx : Keep pq x) => ?_) ?_; generalize x = y at hx ⊢; clear x; rotate_left; unfold x; clear x; rotate_right) | (have _h : Option _ := x; clear _h; generalize x = y; clear x) | (revert x; intro _)))
    | with_reducible refine keep_addCard ?_
    | with_reducible refine keep_bump ?_
    | with_reducible refine keep_noteContested ?_
    | with_reducible refine keep_wf ?_
    | split
    | with_reducible refine keep_of ?_

theorem keep_hallRelease {s : State} {o : Nat} {bell : Nat} {h : OutHead} (hs : Keep pq s) : Keep pq (State.hallRelease s o bell h) := by
  unfold State.hallRelease
  repeat' first
    | with_reducible assumption
    | (extract_lets +onlyGivenNames -underBinder x; (first | (refine (fun (hx : Keep pq x) => ?_) ?_; generalize x = y at hx ⊢; clear x; rotate_left; unfold x; clear x; rotate_right) | (have _h : Option _ := x; clear _h; generalize x = y; clear x) | (revert x; intro _)))
    | with_reducible refine keep_absorb ?_
    | with_reducible refine keep_emitRecord ?_
    | with_reducible refine keep_tally ?_
    | with_reducible refine keep_wf ?_
    | split
    | with_reducible refine keep_of ?_

theorem keep_releaseRec {s : State} {o : Nat} {bell : Nat} {reason : Nat} {h : OutHead} {payload : List Byte} (hs : Keep pq s) : Keep pq (State.releaseRec s o bell reason h payload) := by
  unfold State.releaseRec
  repeat' first
    | with_reducible assumption
    | (extract_lets +onlyGivenNames -underBinder x; (refine (fun (hx : Keep pq x) => ?_) ?_; generalize x = y at hx ⊢; clear x; rotate_left; unfold x; clear x; rotate_right))
    | with_reducible refine keep_emitRecord ?_
    | with_reducible refine keep_hallRelease ?_
    | with_reducible refine keep_noteRelease ?_

theorem keep_releaseVoid {s : State} {o : Nat} {bell : Nat} {reason : Nat} (hs : Keep pq s) : Keep pq (State.releaseVoid s o bell reason) := by
  unfold State.releaseVoid
  repeat' first
    | with_reducible assumption
    | (extract_lets +onlyGivenNames -underBinder x; (first | (refine (fun (hx : Keep pq x) => ?_) ?_; generalize x = y at hx ⊢; clear x; rotate_left; unfold x; clear x; rotate_right) | (have _h : Option _ := x; clear _h; generalize x = y; clear x) | (revert x; intro _)))
    | with_reducible refine keep_releaseRec ?_
    | split
    | with_reducible refine keep_of ?_

theorem keep_readSrcs {s : State} {n : Nat} {w : Nat} {l : List Nat} (hs : Keep pq s) : Keep pq (State.readSrcs s n w l).2.2.2 := by
  unfold State.readSrcs
  repeat' first
    | with_reducible assumption
    | split
    | with_reducible refine keep_recvStream ?_
    | with_reducible refine keep_foldl4 ?_ ?_
    | (intro _; intros)
    | with_reducible refine keep_eq4 ‹_› ?_
    | dsimp -zeta only

theorem keep_releaseOut {s : State} {n : Nat} {w : Nat} {o : Nat} (hs : Keep pq s) : Keep pq (State.releaseOut s n w o) := by
  unfold State.releaseOut
  repeat' first
    | with_reducible assumption
    | (extract_lets +onlyGivenNames -underBinder x; (first | (have _h : Option _ := x; clear _h; generalize x = y; clear x) | (revert x; intro _)))
    | split
    | with_reducible refine keep_readSrcs ?_
    | with_reducible refine keep_releaseRec ?_
    | with_reducible refine keep_releaseVoid ?_
    | with_reducible refine keep_send ?_
    | with_reducible refine keep_eq4 ‹_› ?_
    | with_reducible refine keep_of ?_
    | dsimp -zeta only

theorem keep_noteOut {s : State} {o : Nat} (hs : Keep pq s) : Keep pq (State.noteOut s o) := by
  unfold State.noteOut
  repeat' first
    | with_reducible assumption
    | (extract_lets +onlyGivenNames -underBinder x; (first | (have _h : Option _ := x; clear _h; generalize x = y; clear x) | (revert x; intro _)))
    | with_reducible refine keep_of ?_

theorem keep_execEmitRelease {core : Fin 64} {s : State} (hs : Keep pq s) : KeepO pq (execEmitRelease core s) := by
  unfold execEmitRelease
  repeat' first
    | with_reducible assumption
    | with_reducible refine keepO_next ?_
    | (extract_lets +onlyGivenNames -underBinder x; (first | (refine (fun (hx : Keep pq x) => ?_) ?_; generalize x = y at hx ⊢; clear x; rotate_left; unfold x; clear x; rotate_right) | (have _h : Option _ := x; clear _h; generalize x = y; clear x) | (revert x; intro _)))
    | split
    | with_reducible refine keep_advanceTo ?_
    | with_reducible refine keep_issueSta ?_
    | with_reducible refine keep_noteOut ?_
    | with_reducible refine keep_releaseOut ?_
    | with_reducible refine keep_startSta ?_
    | with_reducible refine keep_eq2 ‹_› ?_
    | dsimp -zeta only

theorem keep_execEmitReleaseComplete {s : State} (hs : Keep pq s) : KeepO pq (execEmitReleaseComplete s) := by
  unfold execEmitReleaseComplete
  repeat' first
    | with_reducible assumption
    | with_reducible refine keepO_next ?_
    | with_reducible refine keep_endSta ?_
    | split

theorem keep_voidUnreleased {s : State} (hs : Keep pq s) : Keep pq (State.voidUnreleased s) := by
  unfold State.voidUnreleased
  repeat' first
    | with_reducible assumption
    | (extract_lets +onlyGivenNames -underBinder x; (first | (refine (fun (hx : Keep pq x) => ?_) ?_; generalize x = y at hx ⊢; clear x; rotate_left; unfold x; clear x; rotate_right) | (have _h : Option _ := x; clear _h; generalize x = y; clear x) | (revert x; intro _)))
    | with_reducible refine keep_releaseVoid ?_
    | with_reducible refine keep_foldl ?_ ?_
    | (intro _; intros)
    | split
    | with_reducible refine keep_of ?_

theorem keep_switchFill {s : State} {old : Nat} {new : Nat} {bell : Nat} (hs : Keep pq s) : Keep pq (State.switchFill s old new bell) := by
  unfold State.switchFill
  repeat' first
    | with_reducible assumption
    | (extract_lets +onlyGivenNames -underBinder x; (first | (have _h : Option _ := x; clear _h; generalize x = y; clear x) | (revert x; intro _)))
    | with_reducible refine keep_releaseVoid ?_
    | with_reducible refine keep_foldl ?_ ?_
    | (intro _; intros)
    | split

theorem keep_execCsiRecordSend {link : Fin 4} {s : State} (hs : Keep pq s) : KeepO pq (execCsiRecordSend link s) := by
  unfold execCsiRecordSend
  repeat' first
    | with_reducible assumption
    | with_reducible refine keepO_next ?_
    | (extract_lets +onlyGivenNames -underBinder x; (first | (have _h : Option _ := x; clear _h; generalize x = y; clear x) | (revert x; intro _)))
    | with_reducible refine keep_csiSend ?_
    | with_reducible refine keep_setOutQueue ?_
    | split

theorem keep_csiDown {s : State} {l : Nat} (hs : Keep pq s) : Keep pq (State.csiDown s l) := by
  unfold State.csiDown
  repeat' first
    | with_reducible assumption
    | (extract_lets +onlyGivenNames -underBinder x; (first | (refine (fun (hx : Keep pq x) => ?_) ?_; generalize x = y at hx ⊢; clear x; rotate_left; unfold x; clear x; rotate_right) | (have _h : Option _ := x; clear _h; generalize x = y; clear x) | (revert x; intro _)))
    | with_reducible refine keep_countDrop ?_
    | with_reducible refine keep_outPort ?_
    | with_reducible refine keep_setOutQueue ?_
    | with_reducible refine keep_wf ?_
    | split

theorem keep_execCsiOutLinkDown {link : Fin 4} {s : State} (hs : Keep pq s) : KeepO pq (execCsiOutLinkDown link s) := by
  unfold execCsiOutLinkDown
  repeat' first
    | with_reducible assumption
    | with_reducible refine keepO_next ?_
    | with_reducible refine keep_csiDown ?_

theorem keep_execCsiOutLinkUp {link : Fin 4} {s : State} (hs : Keep pq s) : KeepO pq (execCsiOutLinkUp link s) := by
  unfold execCsiOutLinkUp
  repeat' first
    | with_reducible assumption
    | with_reducible refine keepO_next ?_
    | (extract_lets +onlyGivenNames -underBinder x; (first | (have _h : Option _ := x; clear _h; generalize x = y; clear x) | (revert x; intro _)))
    | with_reducible refine keep_wf ?_
    | split

theorem keep_execResultSegmentSend {dest : Fin 32} {s : State} (hs : Keep pq s) : KeepO pq (execResultSegmentSend dest s) := by
  unfold execResultSegmentSend
  repeat' first
    | with_reducible assumption
    | with_reducible refine keepO_next ?_
    | (extract_lets +onlyGivenNames -underBinder x; (first | (refine (fun (hx : Keep pq x) => ?_) ?_; generalize x = y at hx ⊢; clear x; rotate_left; unfold x; clear x; rotate_right) | (have _h : Option _ := x; clear _h; generalize x = y; clear x) | (revert x; intro _)))
    | with_reducible refine keep_out ?_
    | with_reducible refine keep_setOutQueue ?_
    | with_reducible refine keep_tally ?_
    | split

theorem keep_ethDown {s : State} {n : Nat} {pll : Bool} (hs : Keep pq s) : Keep pq (State.ethDown s n pll) := by
  unfold State.ethDown
  repeat' first
    | with_reducible assumption
    | (extract_lets +onlyGivenNames -underBinder x; (refine (fun (hx : Keep pq x) => ?_) ?_; generalize x = y at hx ⊢; clear x; rotate_left; unfold x; clear x; rotate_right))
    | with_reducible refine keep_countDrop ?_
    | with_reducible refine keep_outPort ?_
    | with_reducible refine keep_setOutQueue ?_
    | with_reducible refine keep_wf ?_
    | with_reducible refine keep_foldl ?_ ?_
    | (intro _; intros)
    | split

theorem keep_execEthLinkDown {port : Fin 6} {pll : Bool} {s : State} (hs : Keep pq s) : KeepO pq (execEthLinkDown port pll s) := by
  unfold execEthLinkDown
  repeat' first
    | with_reducible assumption
    | with_reducible refine keepO_next ?_
    | with_reducible refine keep_ethDown ?_

theorem keep_execEthLinkUp {port : Fin 6} {s : State} (hs : Keep pq s) : KeepO pq (execEthLinkUp port s) := by
  unfold execEthLinkUp
  repeat' first
    | with_reducible assumption
    | with_reducible refine keepO_next ?_
    | (extract_lets +onlyGivenNames -underBinder x; (first | (have _h : Option _ := x; clear _h; generalize x = y; clear x) | (revert x; intro _)))
    | with_reducible refine keep_wf ?_
    | split

theorem keep_execEthFrameDiscard {port : Fin 6} {s : State} (hs : Keep pq s) : KeepO pq (execEthFrameDiscard port s) := by
  unfold execEthFrameDiscard
  repeat' first
    | with_reducible assumption
    | with_reducible refine keepO_next ?_
    | with_reducible refine keep_bump ?_
    | split

theorem keep_execArpRequest {port : Fin 6} {target : BitVec 32} {peer : UdpFrom} {s : State} (hs : Keep pq s) : KeepO pq (execArpRequest port target peer s) := by
  unfold execArpRequest
  repeat' first
    | with_reducible assumption
    | with_reducible refine keepO_next ?_
    | (extract_lets +onlyGivenNames -underBinder x; (first | (have _h : Option _ := x; clear _h; generalize x = y; clear x) | (revert x; intro _)))
    | with_reducible refine keep_out ?_
    | split

theorem keep_replyDg {s : State} {port : Nat} {peer : UdpFrom} {typ : Nat} {data : List Byte} (hs : Keep pq s) : Keep pq (State.replyDg s port peer typ data) := by
  unfold State.replyDg
  repeat' first
    | with_reducible assumption
    | with_reducible refine keep_out ?_

theorem keep_helloRefuse {s : State} {port : Nat} {peer : UdpFrom} {es : List (List Byte)} {k : Nat} (hs : Keep pq s) : Keep pq (State.helloRefuse s port peer es k) := by
  unfold State.helloRefuse
  repeat' first
    | with_reducible assumption
    | (extract_lets +onlyGivenNames -underBinder x; (first | (have _h : Option _ := x; clear _h; generalize x = y; clear x) | (revert x; intro _)))
    | with_reducible refine keep_outPort ?_
    | with_reducible refine keep_replyDg ?_

theorem keep_helloDest {s : State} {es : List (List Byte)} {classes : List Nat} {d : Nat} (hs : Keep pq s) : Keep pq (State.helloDest s es classes d) := by
  unfold State.helloDest
  repeat' first
    | with_reducible assumption
    | with_reducible refine keep_wf ?_
    | with_reducible refine keep_foldl ?_ ?_
    | (intro _; intros)
    | split

theorem keep_execResultHello {port : Fin 6} {peer : UdpFrom} {data : List Byte} {s : State} (hs : Keep pq s) : KeepO pq (execResultHello port peer data s) := by
  unfold execResultHello
  repeat' first
    | with_reducible assumption
    | with_reducible refine keepO_next ?_
    | (extract_lets +onlyGivenNames -underBinder x; (first | (refine (fun (hx : Keep pq x) => ?_) ?_; generalize x = y at hx ⊢; clear x; rotate_left; unfold x; clear x; rotate_right) | (have _h : Option _ := x; clear _h; generalize x = y; clear x) | (revert x; intro _)))
    | with_reducible refine keep_helloDest ?_
    | with_reducible refine keep_helloRefuse ?_
    | with_reducible refine keep_replyDg ?_
    | with_reducible refine keep_foldl ?_ ?_
    | (intro _; intros)
    | split

theorem keep_declareLink {s : State} {l : Nat} {major : Nat} {minor : Nat} (hs : Keep pq s) : Keep pq (State.declareLink s l major minor) := by
  unfold State.declareLink
  repeat' first
    | with_reducible assumption
    | (extract_lets +onlyGivenNames -underBinder x; (first | (refine (fun (hx : Keep pq x) => ?_) ?_; generalize x = y at hx ⊢; clear x; rotate_left; unfold x; clear x; rotate_right) | (have _h : Option _ := x; clear _h; generalize x = y; clear x) | (revert x; intro _)))
    | with_reducible refine keep_outPort ?_
    | with_reducible refine keep_wf ?_
    | split

end Sys2Proof.Machine
end

