-- ==== Sys2Proof/Laws/KeepPower.lean ====
section
/-! SUPPORT. Every operation and meaning of Machine/Power.lean keeps a sound state sound and the queue as it is. -/

namespace Sys2Proof.Machine
open Sys2Proof
set_option Elab.async false
set_option linter.all false

variable {pq : List Instr}

theorem keep_askMaint {s : State} (hs : Keep pq s) : Keep pq (State.askMaint s) := by
  unfold State.askMaint
  repeat' first
    | with_reducible assumption
    | (extract_lets +onlyGivenNames -underBinder x; (first | (have _h : Option _ := x; clear _h; generalize x = y; clear x) | (revert x; intro _)))
    | with_reducible refine keep_wf ?_
    | with_reducible refine keep_of ?_

theorem keep_askPark {s : State} (hs : Keep pq s) : Keep pq (State.askPark s) := by
  unfold State.askPark
  repeat' first
    | with_reducible assumption
    | (extract_lets +onlyGivenNames -underBinder x; (first | (have _h : Option _ := x; clear _h; generalize x = y; clear x) | (revert x; intro _)))
    | with_reducible refine keep_wf ?_
    | split
    | with_reducible refine keep_of ?_

theorem keep_pwrWrite {s : State} {req : Requester} {mmode : Bool} {value : Nat} {bit : Nat} {f : State → State} (hs : Keep pq s) (hf : ∀ s, Keep pq s → Keep pq (f s)) : Keep pq (State.pwrWrite s req mmode value bit f) := by
  unfold State.pwrWrite
  repeat' first
    | with_reducible assumption
    | with_reducible refine hf _ ?_
    | with_reducible refine keep_cmdWrite ?_ ?_
    | with_reducible refine keep_deny ?_
    | (intro _; intros)
    | split

theorem keep_execPwrCtrlReset {req : Requester} {mmode : Bool} {value : BitVec 32} {s : State} (hs : Keep pq s) : KeepO pq (execPwrCtrlReset req mmode value s) := by
  unfold execPwrCtrlReset
  repeat' first
    | with_reducible assumption
    | with_reducible refine keepO_next ?_
    | with_reducible refine keep_askReset ?_
    | with_reducible refine keep_pwrWrite ?_ ?_
    | (intro _; intros)

theorem keep_execPwrCtrlPark {req : Requester} {mmode : Bool} {value : BitVec 32} {s : State} (hs : Keep pq s) : KeepO pq (execPwrCtrlPark req mmode value s) := by
  unfold execPwrCtrlPark
  repeat' first
    | with_reducible assumption
    | with_reducible refine keepO_next ?_
    | with_reducible refine keep_askPark ?_
    | with_reducible refine keep_pwrWrite ?_ ?_
    | (intro _; intros)
    | split

theorem keep_libDown {s : State} (hs : Keep pq s) : Keep pq (State.libDown s) := by
  unfold State.libDown
  repeat' first
    | with_reducible assumption
    | (extract_lets +onlyGivenNames -underBinder x; (first | (have _h : Option _ := x; clear _h; generalize x = y; clear x) | (revert x; intro _)))
    | with_reducible refine keep_wf ?_
    | with_reducible refine keep_foldl ?_ ?_
    | (intro _; intros)
    | split
    | with_reducible refine keep_of ?_

theorem keep_noBell {s : State} (hs : Keep pq s) : Keep pq (State.noBell s) := by
  unfold State.noBell
  repeat' first
    | with_reducible assumption
    | (extract_lets +onlyGivenNames -underBinder x; (first | (have _h : Option _ := x; clear _h; generalize x = y; clear x) | (revert x; intro _)))
    | with_reducible refine keep_wf ?_
    | with_reducible refine keep_of ?_

theorem keep_parkEntry {s : State} (hs : Keep pq s) : Keep pq (State.parkEntry s) := by
  unfold State.parkEntry
  repeat' first
    | with_reducible assumption
    | (extract_lets +onlyGivenNames -underBinder x; (first | (refine (fun (hx : Keep pq x) => ?_) ?_; generalize x = y at hx ⊢; clear x; rotate_left; unfold x; clear x; rotate_right) | (have _h : Option _ := x; clear _h; generalize x = y; clear x) | (revert x; intro _)))
    | with_reducible refine keep_bump ?_
    | with_reducible refine keep_camClear ?_
    | with_reducible refine keep_csiDown ?_
    | with_reducible refine keep_endUnlock ?_
    | with_reducible refine keep_ethDown ?_
    | with_reducible refine keep_libDown ?_
    | with_reducible refine keep_noBell ?_
    | with_reducible refine keep_pocOff ?_
    | with_reducible refine keep_setPState ?_
    | with_reducible refine keep_stopAlive ?_
    | with_reducible refine keep_stopCompute ?_
    | with_reducible refine keep_wf ?_
    | with_reducible refine keep_foldl ?_ ?_
    | (intro _; intros)
    | split
    | with_reducible refine keep_of ?_

theorem keep_wakeStart {s : State} {source : Nat} (hs : Keep pq s) : Keep pq (State.wakeStart s source) := by
  unfold State.wakeStart
  repeat' first
    | with_reducible assumption
    | (extract_lets +onlyGivenNames -underBinder x; (first | (refine (fun (hx : Keep pq x) => ?_) ?_; generalize x = y at hx ⊢; clear x; rotate_left; unfold x; clear x; rotate_right) | (have _h : Option _ := x; clear _h; generalize x = y; clear x) | (revert x; intro _)))
    | with_reducible refine keep_harts3 ?_
    | with_reducible refine keep_advanceTo ?_
    | with_reducible refine keep_pocOn ?_
    | with_reducible refine keep_wf ?_
    | split
    | with_reducible refine keep_of ?_

theorem keep_execWakeRequest {s : State} (hs : Keep pq s) : KeepO pq (execWakeRequest s) := by
  unfold execWakeRequest
  repeat' first
    | with_reducible assumption
    | with_reducible refine keepO_next ?_
    | with_reducible refine keep_wakeStart ?_
    | with_reducible refine keep_wf ?_
    | split

theorem keep_clearC {s : State} (hs : Keep pq s) : Keep pq (State.clearC s) := by
  unfold State.clearC
  repeat' first
    | with_reducible assumption
    | (extract_lets +onlyGivenNames -underBinder x; (first | (refine (fun (hx : Keep pq x) => ?_) ?_; generalize x = y at hx ⊢; clear x; rotate_left; unfold x; clear x; rotate_right) | (have _h : Option _ := x; clear _h; generalize x = y; clear x) | (revert x; intro _)))
    | with_reducible refine keep_eccFilter ?_
    | with_reducible refine keep_attRegs ?_
    | with_reducible refine keep_setReg ?_
    | with_reducible refine keep_zeroRange ?_
    | with_reducible refine keep_foldl ?_ ?_
    | (intro _; intros)
    | with_reducible refine keep_of ?_

theorem keep_wipeFill {s : State} (hs : Keep pq s) : Keep pq (State.wipeFill s) := by
  unfold State.wipeFill
  repeat' first
    | with_reducible assumption
    | (extract_lets +onlyGivenNames -underBinder x; (first | (refine (fun (hx : Keep pq x) => ?_) ?_; generalize x = y at hx ⊢; clear x; rotate_left; unfold x; clear x; rotate_right) | (have _h : Option _ := x; clear _h; generalize x = y; clear x) | (revert x; intro _)))
    | with_reducible refine keep_eccFilter ?_
    | with_reducible refine keep_zeroRange ?_
    | with_reducible refine keep_foldl ?_ ?_
    | (intro _; intros)
    | split
    | with_reducible refine keep_of ?_

theorem keep_wakeScrub {s : State} (hs : Keep pq s) : Keep pq (State.wakeScrub s) := by
  unfold State.wakeScrub
  repeat' first
    | with_reducible assumption
    | (extract_lets +onlyGivenNames -underBinder x; (first | (refine (fun (hx : Keep pq x) => ?_) ?_; generalize x = y at hx ⊢; clear x; rotate_left; unfold x; clear x; rotate_right) | (have _h : Option _ := x; clear _h; generalize x = y; clear x) | (revert x; intro _)))
    | with_reducible refine keep_loadCore ?_
    | with_reducible refine keep_scrubOne ?_
    | with_reducible refine keep_foldl ?_ ?_
    | (intro _; intros)
    | split

theorem keep_phase2All {s : State} (hs : Keep pq s) : Keep pq (State.phase2All s) := by
  unfold State.phase2All
  repeat' first
    | with_reducible assumption
    | with_reducible refine keep_patchCore ?_
    | with_reducible refine keep_foldl ?_ ?_
    | (intro _; intros)
    | split

theorem keep_execWakeReady {us : Nat} {reading : Option (BitVec 8)} {missed : List (Fin 72)} {s : State} (hs : Keep pq s) : KeepO pq (execWakeReady us reading missed s) := by
  unfold execWakeReady
  repeat' first
    | with_reducible assumption
    | with_reducible refine keepO_next ?_
    | (extract_lets +onlyGivenNames -underBinder x; (first | (refine (fun (hx : Keep pq x) => ?_) ?_; generalize x = y at hx ⊢; clear x; rotate_left; unfold x; clear x; rotate_right) | (have _h : Option _ := x; clear _h; generalize x = y; clear x) | (revert x; intro _)))
    | with_reducible refine keep_advanceTo ?_
    | with_reducible refine keep_clearC ?_
    | with_reducible refine keep_laneRound ?_
    | with_reducible refine keep_phase2All ?_
    | with_reducible refine keep_tReady ?_
    | with_reducible refine keep_tempRead ?_
    | with_reducible refine keep_wakeScrub ?_
    | with_reducible refine keep_wf ?_
    | with_reducible refine keep_wipeFill ?_
    | split

end Sys2Proof.Machine
end

