-- ==== Sys2Proof/Laws/KeepBell.lean ====
section
/-! SUPPORT. Every operation and meaning of Machine/Bell.lean keeps a sound state sound and the queue as it is. -/

namespace Sys2Proof.Machine
open Sys2Proof
set_option Elab.async false
set_option linter.all false

variable {pq : List Instr}

theorem keep_overrun {s : State} {n : Nat} (hs : Keep pq s) : Keep pq (State.overrun s n) := by
  unfold State.overrun
  repeat' first
    | with_reducible assumption
    | (extract_lets +onlyGivenNames -underBinder x; (first | (refine (fun (hx : Keep pq x) => ?_) ?_; generalize x = y at hx ⊢; clear x; rotate_left; unfold x; clear x; rotate_right) | (have _h : Option _ := x; clear _h; generalize x = y; clear x) | (revert x; intro _)))
    | with_reducible refine keep_send ?_
    | with_reducible refine keep_setSeq ?_
    | with_reducible refine keep_ttFault ?_
    | with_reducible refine keep_wf ?_
    | split
    | with_reducible refine keep_of ?_

theorem keep_coverage {s : State} {ran : List Nat} (hs : Keep pq s) : Keep pq (State.coverage s ran) := by
  unfold State.coverage
  repeat' first
    | with_reducible assumption
    | (extract_lets +onlyGivenNames -underBinder x; (first | (refine (fun (hx : Keep pq x) => ?_) ?_; generalize x = y at hx ⊢; clear x; rotate_left; unfold x; clear x; rotate_right) | (have _h : Option _ := x; clear _h; generalize x = y; clear x) | (revert x; intro _)))
    | with_reducible refine keep_coverageMissed ?_
    | with_reducible refine keep_foldl ?_ ?_
    | (intro _; intros)
    | split

theorem keep_contestEnd {s : State} (hs : Keep pq s) : Keep pq (State.contestEnd s) := by
  unfold State.contestEnd
  repeat' first
    | with_reducible assumption
    | (extract_lets +onlyGivenNames -underBinder x; (first | (have _h : Option _ := x; clear _h; generalize x = y; clear x) | (revert x; intro _)))
    | with_reducible refine keep_of ?_

theorem keep_failUnits {s : State} (hs : Keep pq s) : Keep pq (State.failUnits s) := by
  unfold State.failUnits
  repeat' first
    | with_reducible assumption
    | (extract_lets +onlyGivenNames -underBinder x; (first | (refine (fun (hx : Keep pq x) => ?_) ?_; generalize x = y at hx ⊢; clear x; rotate_left; unfold x; clear x; rotate_right) | (have _h : Option _ := x; clear _h; generalize x = y; clear x) | (revert x; intro _)))
    | with_reducible refine keep_wf ?_
    | with_reducible refine keep_foldl ?_ ?_
    | (intro _; intros)
    | split
    | with_reducible refine keep_of ?_

theorem keep_testEdge {s : State} (hs : Keep pq s) : Keep pq (State.testEdge s) := by
  unfold State.testEdge
  repeat' first
    | with_reducible assumption
    | (extract_lets +onlyGivenNames -underBinder x; (first | (refine (fun (hx : Keep pq x) => ?_) ?_; generalize x = y at hx ⊢; clear x; rotate_left; unfold x; clear x; rotate_right) | (have _h : Option _ := x; clear _h; generalize x = y; clear x) | (revert x; intro _)))
    | with_reducible refine keep_failUnits ?_
    | with_reducible refine keep_sweepEvs ?_
    | with_reducible refine keep_wf ?_
    | with_reducible refine keep_foldl ?_ ?_
    | (intro _; intros)
    | with_reducible refine keep_of ?_

theorem keep_degEdge {s : State} (hs : Keep pq s) : Keep pq (State.degEdge s) := by
  unfold State.degEdge
  repeat' first
    | with_reducible assumption
    | (extract_lets +onlyGivenNames -underBinder x; (first | (refine (fun (hx : Keep pq x) => ?_) ?_; generalize x = y at hx ⊢; clear x; rotate_left; unfold x; clear x; rotate_right) | (have _h : Option _ := x; clear _h; generalize x = y; clear x) | (revert x; intro _)))
    | with_reducible refine keep_wf ?_
    | split

theorem keep_endBell {s : State} (hs : Keep pq s) : Keep pq (State.endBell s) := by
  unfold State.endBell
  repeat' first
    | with_reducible assumption
    | (extract_lets +onlyGivenNames -underBinder x; (first | (refine (fun (hx : Keep pq x) => ?_) ?_; generalize x = y at hx ⊢; clear x; rotate_left; unfold x; clear x; rotate_right) | (have _h : Option _ := x; clear _h; generalize x = y; clear x) | (revert x; intro _)))
    | with_reducible refine keep_contestEnd ?_
    | with_reducible refine keep_coverage ?_
    | with_reducible refine keep_degEdge ?_
    | with_reducible refine keep_overrun ?_
    | with_reducible refine keep_rollLive ?_
    | with_reducible refine keep_testEdge ?_
    | with_reducible refine keep_voidUnreleased ?_
    | with_reducible refine keep_zeroSkipped ?_
    | with_reducible refine keep_foldl ?_ ?_
    | (intro _; intros)
    | split
    | with_reducible refine keep_of ?_

theorem keep_gapCheck {s : State} {edge : Nat} (hs : Keep pq s) : Keep pq (State.gapCheck s edge) := by
  unfold State.gapCheck
  repeat' first
    | with_reducible assumption
    | (extract_lets +onlyGivenNames -underBinder x; (first | (have _h : Option _ := x; clear _h; generalize x = y; clear x) | (revert x; intro _)))
    | with_reducible refine keep_send ?_
    | split
    | with_reducible refine keep_of ?_

theorem keep_setBv {s : State} {n : Nat} {edge : Nat} (hs : Keep pq s) : Keep pq (State.setBv s n edge) := by
  unfold State.setBv
  repeat' first
    | with_reducible assumption
    | (extract_lets +onlyGivenNames -underBinder x; (first | (have _h : Option _ := x; clear _h; generalize x = y; clear x) | (revert x; intro _)))
    | with_reducible refine keep_of ?_

theorem keep_remapEdge {s : State} (hs : Keep pq s) : Keep pq (State.remapEdge s) := by
  unfold State.remapEdge
  repeat' first
    | with_reducible assumption
    | (extract_lets +onlyGivenNames -underBinder x; (first | (refine (fun (hx : Keep pq x) => ?_) ?_; generalize x = y at hx ⊢; clear x; rotate_left; unfold x; clear x; rotate_right) | (have _h : Option _ := x; clear _h; generalize x = y; clear x) | (revert x; intro _)))
    | with_reducible refine keep_addCard ?_
    | with_reducible refine keep_coreRegs ?_
    | with_reducible refine keep_showSpare ?_
    | with_reducible refine keep_wf ?_
    | with_reducible refine keep_foldl ?_ ?_
    | (intro _; intros)
    | with_reducible refine keep_of ?_

theorem keep_emptyClasses {s : State} {which : CtxClass → Bool} (hs : Keep pq s) : Keep pq (State.emptyClasses s which) := by
  unfold State.emptyClasses
  repeat' first
    | with_reducible assumption
    | with_reducible refine keep_releaseCtx ?_
    | with_reducible refine keep_setC ?_
    | with_reducible refine keep_foldl ?_ ?_
    | (intro _; intros)

theorem keep_emptyContexts {s : State} (hs : Keep pq s) : Keep pq (State.emptyContexts s) := by
  unfold State.emptyContexts
  repeat' first
    | with_reducible assumption
    | with_reducible refine keep_emptyClasses ?_

theorem keep_emptyMoved {s : State} {old : Nat} {new : Nat} (hs : Keep pq s) : Keep pq (State.emptyMoved s old new) := by
  unfold State.emptyMoved
  repeat' first
    | with_reducible assumption
    | with_reducible refine keep_emptyClasses ?_

theorem keep_planEdge {s : State} {n : Nat} (hs : Keep pq s) : Keep pq (State.planEdge s n) := by
  unfold State.planEdge
  repeat' first
    | with_reducible assumption
    | (extract_lets +onlyGivenNames -underBinder x; (first | (refine (fun (hx : Keep pq x) => ?_) ?_; generalize x = y at hx ⊢; clear x; rotate_left; unfold x; clear x; rotate_right) | (have _h : Option _ := x; clear _h; generalize x = y; clear x) | (revert x; intro _)))
    | with_reducible refine keep_addCard ?_
    | with_reducible refine keep_emptyMoved ?_
    | with_reducible refine keep_planRegs ?_
    | with_reducible refine keep_switchFill ?_
    | with_reducible refine keep_wf ?_
    | split
    | with_reducible refine keep_of ?_

theorem keep_joinEdge {s : State} {n : Nat} {edge : Nat} (hs : Keep pq s) : Keep pq (State.joinEdge s n edge) := by
  unfold State.joinEdge
  repeat' first
    | with_reducible assumption
    | (extract_lets +onlyGivenNames -underBinder x; (first | (refine (fun (hx : Keep pq x) => ?_) ?_; generalize x = y at hx ⊢; clear x; rotate_left; unfold x; clear x; rotate_right) | (have _h : Option _ := x; clear _h; generalize x = y; clear x) | (revert x; intro _)))
    | with_reducible refine keep_raiseIbi ?_
    | with_reducible refine keep_setBv ?_
    | with_reducible refine keep_setPState ?_
    | split
    | with_reducible refine keep_of ?_

theorem keep_recoverEdge {s : State} {n : Nat} {edge : Nat} (hs : Keep pq s) : Keep pq (State.recoverEdge s n edge) := by
  unfold State.recoverEdge
  repeat' first
    | with_reducible assumption
    | (extract_lets +onlyGivenNames -underBinder x; (first | (refine (fun (hx : Keep pq x) => ?_) ?_; generalize x = y at hx ⊢; clear x; rotate_left; unfold x; clear x; rotate_right) | (have _h : Option _ := x; clear _h; generalize x = y; clear x) | (revert x; intro _)))
    | with_reducible refine keep_setBv ?_
    | split
    | with_reducible refine keep_of ?_

theorem keep_maintEntry {s : State} (hs : Keep pq s) : Keep pq (State.maintEntry s) := by
  unfold State.maintEntry
  repeat' first
    | with_reducible assumption
    | (extract_lets +onlyGivenNames -underBinder x; (first | (refine (fun (hx : Keep pq x) => ?_) ?_; generalize x = y at hx ⊢; clear x; rotate_left; unfold x; clear x; rotate_right) | (have _h : Option _ := x; clear _h; generalize x = y; clear x) | (revert x; intro _)))
    | with_reducible refine keep_noBell ?_
    | with_reducible refine keep_setPState ?_
    | with_reducible refine keep_stopAlive ?_
    | with_reducible refine keep_stopCompute ?_
    | with_reducible refine keep_wf ?_
    | split
    | with_reducible refine keep_of ?_

theorem keep_dropSamples {s : State} (hs : Keep pq s) : Keep pq (State.dropSamples s) := by
  unfold State.dropSamples
  repeat' first
    | with_reducible assumption
    | (extract_lets +onlyGivenNames -underBinder x; (refine (fun (hx : Keep pq x) => ?_) ?_; generalize x = y at hx ⊢; clear x; rotate_left; unfold x; clear x; rotate_right))
    | with_reducible refine keep_sieveDrop ?_
    | with_reducible refine keep_of ?_

theorem keep_lateStep {s : State} {o : Int} {last : Nat} (hs : Keep pq s) : Keep pq (State.lateStep s o last) := by
  unfold State.lateStep
  repeat' first
    | with_reducible assumption
    | (extract_lets +onlyGivenNames -underBinder x; (first | (refine (fun (hx : Keep pq x) => ?_) ?_; generalize x = y at hx ⊢; clear x; rotate_left; unfold x; clear x; rotate_right) | (have _h : Option _ := x; clear _h; generalize x = y; clear x) | (revert x; intro _)))
    | with_reducible refine keep_applyStep ?_
    | with_reducible refine keep_armBell ?_
    | with_reducible refine keep_dropSamples ?_
    | with_reducible refine keep_emptyContexts ?_
    | with_reducible refine keep_phase2All ?_
    | with_reducible refine keep_resetScales ?_
    | with_reducible refine keep_send ?_
    | with_reducible refine keep_wf ?_
    | split
    | with_reducible refine keep_of ?_

theorem keep_startSeqs {s : State} {n : Nat} (hs : Keep pq s) : Keep pq (State.startSeqs s n) := by
  unfold State.startSeqs
  repeat' first
    | with_reducible assumption
    | (extract_lets +onlyGivenNames -underBinder x; (first | (refine (fun (hx : Keep pq x) => ?_) ?_; generalize x = y at hx ⊢; clear x; rotate_left; unfold x; clear x; rotate_right) | (have _h : Option _ := x; clear _h; generalize x = y; clear x) | (revert x; intro _)))
    | with_reducible refine keep_setSeq ?_
    | with_reducible refine keep_wf ?_
    | with_reducible refine keep_foldl ?_ ?_
    | (intro _; intros)
    | split

theorem keep_digestEdge {s : State} (hs : Keep pq s) : Keep pq (State.digestEdge s) := by
  unfold State.digestEdge
  repeat' first
    | with_reducible assumption
    | (extract_lets +onlyGivenNames -underBinder x; (first | (refine (fun (hx : Keep pq x) => ?_) ?_; generalize x = y at hx ⊢; clear x; rotate_left; unfold x; clear x; rotate_right) | (have _h : Option _ := x; clear _h; generalize x = y; clear x) | (revert x; intro _)))
    | with_reducible refine keep_wf ?_
    | split
    | with_reducible refine keep_of ?_

theorem keep_firstPlan {s : State} (hs : Keep pq s) : Keep pq (State.firstPlan s) := by
  unfold State.firstPlan
  repeat' first
    | with_reducible assumption
    | with_reducible refine keep_placePlan ?_
    | split

theorem keep_noHistory {s : State} {n : Nat} (hs : Keep pq s) : Keep pq (State.noHistory s n) := by
  unfold State.noHistory
  repeat' first
    | with_reducible assumption
    | (extract_lets +onlyGivenNames -underBinder x; (first | (have _h : Option _ := x; clear _h; generalize x = y; clear x) | (revert x; intro _)))
    | with_reducible refine keep_of ?_

theorem keep_firstRegs {s : State} {n : Nat} (hs : Keep pq s) : Keep pq (State.firstRegs s n) := by
  unfold State.firstRegs
  repeat' first
    | with_reducible assumption
    | (extract_lets +onlyGivenNames -underBinder x; (first | (refine (fun (hx : Keep pq x) => ?_) ?_; generalize x = y at hx ⊢; clear x; rotate_left; unfold x; clear x; rotate_right) | (have _h : Option _ := x; clear _h; generalize x = y; clear x) | (revert x; intro _)))
    | with_reducible refine keep_addCard ?_
    | with_reducible refine keep_wf ?_
    | split
    | with_reducible refine keep_of ?_

theorem keep_firstState {s : State} (hs : Keep pq s) : Keep pq (State.firstState s) := by
  unfold State.firstState
  repeat' first
    | with_reducible assumption
    | (extract_lets +onlyGivenNames -underBinder x; (first | (refine (fun (hx : Keep pq x) => ?_) ?_; generalize x = y at hx ⊢; clear x; rotate_left; unfold x; clear x; rotate_right) | (have _h : Option _ := x; clear _h; generalize x = y; clear x) | (revert x; intro _)))
    | with_reducible refine keep_raiseIbi ?_
    | with_reducible refine keep_setCause ?_
    | with_reducible refine keep_setPState ?_
    | with_reducible refine keep_wf ?_
    | split
    | with_reducible refine keep_of ?_

theorem keep_firstBell {s : State} {n : Nat} {edge : Nat} (hs : Keep pq s) : Keep pq (State.firstBell s n edge) := by
  unfold State.firstBell
  repeat' first
    | with_reducible assumption
    | with_reducible refine keep_camFirst ?_
    | with_reducible refine keep_firstPlan ?_
    | with_reducible refine keep_firstRegs ?_
    | with_reducible refine keep_firstState ?_
    | with_reducible refine keep_noHistory ?_
    | with_reducible refine keep_setBv ?_

theorem keep_lateFrames {s : State} (hs : Keep pq s) : Keep pq (State.lateFrames s) := by
  unfold State.lateFrames
  repeat' first
    | with_reducible assumption
    | with_reducible refine keep_addCard ?_
    | with_reducible refine keep_bump ?_
    | with_reducible refine keep_foldl ?_ ?_
    | (intro _; intros)
    | split

theorem keep_bellOf {s : State} {n : Nat} {edge : Nat} (hs : Keep pq s) : Keep pq (State.bellOf s n edge) := by
  unfold State.bellOf
  repeat' first
    | with_reducible assumption
    | (extract_lets +onlyGivenNames -underBinder x; (first | (have _h : Option _ := x; clear _h; generalize x = y; clear x) | (revert x; intro _)))
    | with_reducible refine keep_of ?_

theorem keep_freshTt {s : State} (hs : Keep pq s) : Keep pq (State.freshTt s) := by
  unfold State.freshTt
  repeat' first
    | with_reducible assumption
    | (extract_lets +onlyGivenNames -underBinder x; (first | (have _h : Option _ := x; clear _h; generalize x = y; clear x) | (revert x; intro _)))
    | with_reducible refine keep_of ?_

theorem keep_takeSnapshot {s : State} (hs : Keep pq s) : Keep pq (State.takeSnapshot s) := by
  unfold State.takeSnapshot
  repeat' first
    | with_reducible assumption
    | with_reducible refine keep_lateFrames ?_
    | with_reducible refine keep_snapshot ?_
    | split

theorem keep_startBell {s : State} {n : Nat} {edge : Nat} {first : Bool} (hs : Keep pq s) : Keep pq (State.startBell s n edge first) := by
  unfold State.startBell
  repeat' first
    | with_reducible assumption
    | (extract_lets +onlyGivenNames -underBinder x; (refine (fun (hx : Keep pq x) => ?_) ?_; generalize x = y at hx ⊢; clear x; rotate_left; unfold x; clear x; rotate_right))
    | with_reducible refine keep_advance ?_
    | with_reducible refine keep_bellOf ?_
    | with_reducible refine keep_digestEdge ?_
    | with_reducible refine keep_firstBell ?_
    | with_reducible refine keep_freshTt ?_
    | with_reducible refine keep_rollBell ?_
    | with_reducible refine keep_startSeqs ?_
    | with_reducible refine keep_takeSnapshot ?_
    | split

theorem keep_nextBell {s : State} (hs : Keep pq s) : Keep pq (State.nextBell s) := by
  unfold State.nextBell
  repeat' first
    | with_reducible assumption
    | (extract_lets +onlyGivenNames -underBinder x; (first | (refine (fun (hx : Keep pq x) => ?_) ?_; generalize x = y at hx ⊢; clear x; rotate_left; unfold x; clear x; rotate_right) | (have _h : Option _ := x; clear _h; generalize x = y; clear x) | (revert x; intro _)))
    | with_reducible refine keep_gapCheck ?_
    | with_reducible refine keep_joinEdge ?_
    | with_reducible refine keep_planEdge ?_
    | with_reducible refine keep_recoverEdge ?_
    | with_reducible refine keep_remapEdge ?_
    | with_reducible refine keep_startBell ?_

theorem keep_heldStep {s : State} (hs : Keep pq s) : Keep pq (State.heldStep s) := by
  unfold State.heldStep
  repeat' first
    | with_reducible assumption
    | with_reducible refine keep_lateStep ?_
    | split

theorem keep_edgeAsk {s : State} {go : State → State} (hs : Keep pq s) (hgo : ∀ s, Keep pq s → Keep pq (go s)) : Keep pq (State.edgeAsk s go) := by
  unfold State.edgeAsk
  repeat' first
    | with_reducible assumption
    | with_reducible refine hgo _ ?_
    | with_reducible refine keep_maintEntry ?_
    | with_reducible refine keep_parkEntry ?_
    | with_reducible refine keep_wf ?_
    | split

theorem keep_runningEdge {s : State} (hs : Keep pq s) : Keep pq (State.runningEdge s) := by
  unfold State.runningEdge
  repeat' first
    | with_reducible assumption
    | with_reducible refine keep_advanceToNs ?_
    | with_reducible refine keep_edgeAsk ?_ ?_
    | with_reducible refine keep_endBell ?_
    | with_reducible refine keep_heldStep ?_
    | with_reducible refine keep_nextBell ?_
    | (intro _; intros)
    | split

theorem keep_firstEdge {s : State} (hs : Keep pq s) : Keep pq (State.firstEdge s) := by
  unfold State.firstEdge
  repeat' first
    | with_reducible assumption
    | (extract_lets +onlyGivenNames -underBinder x; (first | (have _h : Option _ := x; clear _h; generalize x = y; clear x) | (revert x; intro _)))
    | with_reducible refine keep_advanceToNs ?_
    | with_reducible refine keep_edgeAsk ?_ ?_
    | with_reducible refine keep_remapEdge ?_
    | with_reducible refine keep_startBell ?_
    | (intro _; intros)

theorem keep_execBellEdge {s : State} (hs : Keep pq s) : KeepO pq (execBellEdge s) := by
  unfold execBellEdge
  repeat' first
    | with_reducible assumption
    | with_reducible refine keepO_next ?_
    | (extract_lets +onlyGivenNames -underBinder x; (first | (refine (fun (hx : Keep pq x) => ?_) ?_; generalize x = y at hx ⊢; clear x; rotate_left; unfold x; clear x; rotate_right) | (have _h : Option _ := x; clear _h; generalize x = y; clear x) | (revert x; intro _)))
    | with_reducible refine keep_advanceToNs ?_
    | with_reducible refine keep_closeGen ?_
    | with_reducible refine keep_edgeAsk ?_ ?_
    | with_reducible refine keep_firstEdge ?_
    | with_reducible refine keep_runningEdge ?_
    | (intro _; intros)
    | split

theorem keep_execHealthPoint {s : State} (hs : Keep pq s) : KeepO pq (execHealthPoint s) := by
  unfold execHealthPoint
  repeat' first
    | with_reducible assumption
    | with_reducible refine keepO_next ?_
    | (extract_lets +onlyGivenNames -underBinder x; (first | (refine (fun (hx : Keep pq x) => ?_) ?_; generalize x = y at hx ⊢; clear x; rotate_left; unfold x; clear x; rotate_right) | (have _h : Option _ := x; clear _h; generalize x = y; clear x) | (revert x; intro _)))
    | with_reducible refine keep_advanceTo ?_
    | with_reducible refine keep_phase1 ?_
    | split
    | with_reducible refine keep_of ?_

theorem keep_recoveryGate {s : State} {pass : Bool} (hs : Keep pq s) : Keep pq (State.recoveryGate s pass) := by
  unfold State.recoveryGate
  repeat' first
    | with_reducible assumption
    | (extract_lets +onlyGivenNames -underBinder x; (first | (refine (fun (hx : Keep pq x) => ?_) ?_; generalize x = y at hx ⊢; clear x; rotate_left; unfold x; clear x; rotate_right) | (have _h : Option _ := x; clear _h; generalize x = y; clear x) | (revert x; intro _)))
    | with_reducible refine keep_endRecovery ?_
    | with_reducible refine keep_raiseIbi ?_
    | with_reducible refine keep_setPState ?_
    | split
    | with_reducible refine keep_of ?_

theorem keep_aliveGate {s : State} {pass : Bool} {cause : Nat} (hs : Keep pq s) : Keep pq (State.aliveGate s pass cause) := by
  unfold State.aliveGate
  repeat' first
    | with_reducible assumption
    | (extract_lets +onlyGivenNames -underBinder x; (first | (refine (fun (hx : Keep pq x) => ?_) ?_; generalize x = y at hx ⊢; clear x; rotate_left; unfold x; clear x; rotate_right) | (have _h : Option _ := x; clear _h; generalize x = y; clear x) | (revert x; intro _)))
    | with_reducible refine keep_send ?_
    | with_reducible refine keep_stopAlive ?_
    | split
    | with_reducible refine keep_of ?_

theorem keep_execGatePoint {s : State} (hs : Keep pq s) : KeepO pq (execGatePoint s) := by
  unfold execGatePoint
  repeat' first
    | with_reducible assumption
    | with_reducible refine keepO_next ?_
    | (extract_lets +onlyGivenNames -underBinder x; (first | (refine (fun (hx : Keep pq x) => ?_) ?_; generalize x = y at hx ⊢; clear x; rotate_left; unfold x; clear x; rotate_right) | (have _h : Option _ := x; clear _h; generalize x = y; clear x) | (revert x; intro _)))
    | with_reducible refine keep_advanceTo ?_
    | with_reducible refine keep_aliveGate ?_
    | with_reducible refine keep_recoveryGate ?_
    | with_reducible refine keep_sendHeartbeat ?_
    | with_reducible refine keep_wf ?_
    | split
    | with_reducible refine keep_of ?_

end Sys2Proof.Machine
end

