-- ==== Sys2Proof/Laws/KeepDetect.lean ====
section
/-! SUPPORT. Every operation and meaning of Machine/Detect.lean keeps a sound state sound and the queue as it is. -/

namespace Sys2Proof.Machine
open Sys2Proof
set_option Elab.async false
set_option linter.all false

variable {pq : List Instr}

theorem keep_codecOp {s : State} {n : Nat} {op : Nat} (hs : Keep pq s) : Keep pq (State.codecOp s n op) := by
  unfold State.codecOp
  repeat' first
    | with_reducible assumption
    | (extract_lets +onlyGivenNames -underBinder x; (first | (refine (fun (hx : Keep pq x) => ?_) ?_; generalize x = y at hx ⊢; clear x; rotate_left; unfold x; clear x; rotate_right) | (have _h : Option _ := x; clear _h; generalize x = y; clear x) | (revert x; intro _)))
    | split
    | with_reducible refine keep_bump ?_
    | with_reducible refine keep_issueSta ?_
    | with_reducible refine keep_recvTile ?_
    | with_reducible refine keep_send ?_
    | with_reducible refine keep_setBit ?_
    | with_reducible refine keep_startSta ?_
    | with_reducible refine keep_tally ?_
    | with_reducible refine keep_foldl2 ?_ ?_
    | (intro _; intros)
    | with_reducible refine keep_eq2 ‹_› ?_
    | with_reducible refine keep_eq4 ‹_› ?_
    | dsimp -zeta only

theorem keep_execCompress {core : Fin 64} {s : State} (hs : Keep pq s) : KeepO pq (execCompress core s) := by
  unfold execCompress
  repeat' first
    | with_reducible assumption
    | with_reducible refine keepO_next ?_
    | with_reducible refine keep_codecOp ?_

theorem keep_execExpand {core : Fin 64} {s : State} (hs : Keep pq s) : KeepO pq (execExpand core s) := by
  unfold execExpand
  repeat' first
    | with_reducible assumption
    | with_reducible refine keepO_next ?_
    | with_reducible refine keep_codecOp ?_

theorem keep_execCodecComplete {unit : Fin 8} {s : State} (hs : Keep pq s) : KeepO pq (execCodecComplete unit s) := by
  unfold execCodecComplete
  repeat' first
    | with_reducible assumption
    | with_reducible refine keepO_next ?_
    | with_reducible refine keep_endSta ?_
    | with_reducible refine keep_setBit ?_
    | split

theorem keep_decodeOp {s : State} {u : Nat} {st : Nat} {d : Det} {pay : List Byte} {head : List Byte} {aux : List Byte} (hs : Keep pq s) : Keep pq (State.decodeOp s u st d pay head aux).2 := by
  unfold State.decodeOp
  repeat' first
    | with_reducible assumption
    | (extract_lets +onlyGivenNames -underBinder x; (first | (refine (fun (hx : Keep pq x) => ?_) ?_; generalize x = y at hx ⊢; clear x; rotate_left; unfold x; clear x; rotate_right) | (have _h : Option _ := x; clear _h; generalize x = y; clear x) | (revert x; intro _)))
    | split
    | with_reducible refine keep_bump ?_
    | with_reducible refine keep_numFault ?_
    | with_reducible refine keep_send ?_
    | with_reducible refine keep_tally ?_
    | with_reducible refine keep_foldl ?_ ?_
    | (intro _; intros)

theorem keep_nmsOp {s : State} {u : Nat} {d : Det} {pay : List Byte} (hs : Keep pq s) : Keep pq (State.nmsOp s u d pay).2 := by
  unfold State.nmsOp
  repeat' first
    | with_reducible assumption
    | (extract_lets +onlyGivenNames -underBinder x; (first | (have _h : Option _ := x; clear _h; generalize x = y; clear x) | (revert x; intro _)))
    | with_reducible refine keep_tally ?_

theorem keep_detectOp {s : State} {n : Nat} {kind : Nat} (hs : Keep pq s) : Keep pq (State.detectOp s n kind) := by
  unfold State.detectOp
  repeat' first
    | with_reducible assumption
    | (extract_lets +onlyGivenNames -underBinder x; (first | (have _h : Option _ := x; clear _h; generalize x = y; clear x) | (revert x; intro _)))
    | split
    | with_reducible refine keep_decodeOp ?_
    | with_reducible refine keep_issueSta ?_
    | with_reducible refine keep_nmsOp ?_
    | with_reducible refine keep_recvStream ?_
    | with_reducible refine keep_setBit ?_
    | with_reducible refine keep_startSta ?_
    | with_reducible refine keep_eq2 ‹_› ?_
    | with_reducible refine keep_eq4 ‹_› ?_
    | dsimp -zeta only

theorem keep_execPoolMax {core : Fin 64} {s : State} (hs : Keep pq s) : KeepO pq (execPoolMax core s) := by
  unfold execPoolMax
  repeat' first
    | with_reducible assumption
    | with_reducible refine keepO_next ?_
    | with_reducible refine keep_detectOp ?_

theorem keep_execPoolAvg {core : Fin 64} {s : State} (hs : Keep pq s) : KeepO pq (execPoolAvg core s) := by
  unfold execPoolAvg
  repeat' first
    | with_reducible assumption
    | with_reducible refine keepO_next ?_
    | with_reducible refine keep_detectOp ?_

theorem keep_execAnchor2d {core : Fin 64} {s : State} (hs : Keep pq s) : KeepO pq (execAnchor2d core s) := by
  unfold execAnchor2d
  repeat' first
    | with_reducible assumption
    | with_reducible refine keepO_next ?_
    | with_reducible refine keep_detectOp ?_

theorem keep_execCenter2d {core : Fin 64} {s : State} (hs : Keep pq s) : KeepO pq (execCenter2d core s) := by
  unfold execCenter2d
  repeat' first
    | with_reducible assumption
    | with_reducible refine keepO_next ?_
    | with_reducible refine keep_detectOp ?_

theorem keep_execCenterBev {core : Fin 64} {s : State} (hs : Keep pq s) : KeepO pq (execCenterBev core s) := by
  unfold execCenterBev
  repeat' first
    | with_reducible assumption
    | with_reducible refine keepO_next ?_
    | with_reducible refine keep_detectOp ?_

theorem keep_execNmsAxis {core : Fin 64} {s : State} (hs : Keep pq s) : KeepO pq (execNmsAxis core s) := by
  unfold execNmsAxis
  repeat' first
    | with_reducible assumption
    | with_reducible refine keepO_next ?_
    | with_reducible refine keep_detectOp ?_

theorem keep_execNmsBev {core : Fin 64} {s : State} (hs : Keep pq s) : KeepO pq (execNmsBev core s) := by
  unfold execNmsBev
  repeat' first
    | with_reducible assumption
    | with_reducible refine keepO_next ?_
    | with_reducible refine keep_detectOp ?_

theorem keep_execDetectComplete {unit : Fin 4} {s : State} (hs : Keep pq s) : KeepO pq (execDetectComplete unit s) := by
  unfold execDetectComplete
  repeat' first
    | with_reducible assumption
    | with_reducible refine keepO_next ?_
    | with_reducible refine keep_endSta ?_
    | with_reducible refine keep_setBit ?_
    | split

end Sys2Proof.Machine
end

