-- ==== Sys2Proof/Laws/KeepRegAccess.lean ====
section
/-! SUPPORT. Every operation and meaning of Machine/RegAccess.lean keeps a sound state sound and the queue as it is. -/

namespace Sys2Proof.Machine
open Sys2Proof
set_option Elab.async false
set_option linter.all false

variable {pq : List Instr}

theorem keep_takeLatches {s : State} {req : Requester} {a : Nat} (hs : Keep pq s) : Keep pq (State.takeLatches s req a) := by
  unfold State.takeLatches
  repeat' first
    | with_reducible assumption
    | split
    | with_reducible refine keep_of ?_

theorem keep_readClear {s : State} {req : Requester} {a : Nat} (hs : Keep pq s) : Keep pq (State.readClear s req a) := by
  unfold State.readClear
  repeat' first
    | with_reducible assumption
    | (extract_lets +onlyGivenNames -underBinder x; (first | (have _h : Option _ := x; clear _h; generalize x = y; clear x) | (revert x; intro _)))
    | with_reducible refine keep_i2cNext ?_
    | with_reducible refine keep_setCam ?_
    | with_reducible refine keep_setReg ?_
    | split

theorem keep_readWord {s : State} {req : Requester} {a : Nat} (hs : Keep pq s) : Keep pq (State.readWord s req a).2 := by
  unfold State.readWord
  repeat' first
    | with_reducible assumption
    | with_reducible refine keep_takeLatches ?_
    | split
    | with_reducible refine keep_of ?_

theorem keep_readReg {s : State} {req : Requester} {mmode : Bool} {a : Nat} {size : Nat} (hs : Keep pq s) : Keep pq (State.readReg s req mmode a size) := by
  unfold State.readReg
  repeat' first
    | with_reducible assumption
    | split
    | with_reducible refine keep_busError ?_
    | with_reducible refine keep_deny ?_
    | with_reducible refine keep_locketRead ?_
    | with_reducible refine keep_out ?_
    | with_reducible refine keep_readClear ?_
    | with_reducible refine keep_readWord ?_
    | with_reducible refine keep_eq2 ‹_› ?_
    | dsimp -zeta only

theorem keep_writeReg {s : State} {req : Requester} {mmode : Bool} {a : Nat} {size : Nat} {value : Nat} (hs : Keep pq s) : Keep pq (State.writeReg s req mmode a size value) := by
  unfold State.writeReg
  repeat' first
    | with_reducible assumption
    | with_reducible refine keep_busError ?_
    | with_reducible refine keep_deny ?_
    | with_reducible refine keep_setReg ?_
    | split

theorem keep_execRegisterWrite {req : Requester} {mmode : Bool} {addr : BitVec 40} {size : Fin 65} {value : BitVec 32} {s : State} (hs : Keep pq s) : KeepO pq (execRegisterWrite req mmode addr size value s) := by
  unfold execRegisterWrite
  repeat' first
    | with_reducible assumption
    | with_reducible refine keepO_next ?_
    | with_reducible refine keep_writeReg ?_
    | split

theorem keep_execReadClear {req : Requester} {mmode : Bool} {addr : BitVec 40} {size : Fin 65} {s : State} (hs : Keep pq s) : KeepO pq (execReadClear req mmode addr size s) := by
  unfold execReadClear
  repeat' first
    | with_reducible assumption
    | with_reducible refine keepO_next ?_
    | with_reducible refine keep_readReg ?_
    | split

theorem keep_execLoLatchRead {req : Requester} {mmode : Bool} {addr : BitVec 40} {s : State} (hs : Keep pq s) : KeepO pq (execLoLatchRead req mmode addr s) := by
  unfold execLoLatchRead
  repeat' first
    | with_reducible assumption
    | with_reducible refine keepO_next ?_
    | with_reducible refine keep_readReg ?_
    | split

theorem keep_busAccess {s : State} {req : Requester} {mmode : Bool} {kind : Nat} {a : Nat} {size : Nat} {data : List Byte} (hs : Keep pq s) : Keep pq (State.busAccess s req mmode kind a size data) := by
  unfold State.busAccess
  repeat' first
    | with_reducible assumption
    | with_reducible refine keep_cpAccess ?_
    | with_reducible refine keep_readReg ?_
    | with_reducible refine keep_writeReg ?_
    | split

theorem keep_execControlPairAccess {req : Requester} {mmode : Bool} {kind : Fin 3} {addr : BitVec 40} {size : Fin 65} {data : List Byte} {s : State} (hs : Keep pq s) : KeepO pq (execControlPairAccess req mmode kind addr size data s) := by
  unfold execControlPairAccess
  repeat' first
    | with_reducible assumption
    | with_reducible refine keepO_next ?_
    | with_reducible refine keep_busAccess ?_
    | split

theorem keep_execDebugSysbusAccess {hart : Fin 3} {kind : Fin 3} {addr : BitVec 40} {size : Fin 65} {data : List Byte} {s : State} (hs : Keep pq s) : KeepO pq (execDebugSysbusAccess hart kind addr size data s) := by
  unfold execDebugSysbusAccess
  repeat' first
    | with_reducible assumption
    | with_reducible refine keepO_next ?_
    | with_reducible refine keep_busAccess ?_
    | split

end Sys2Proof.Machine
end

