-- ==== Sys2Proof/Laws/KeepStaging.lean ====
section
/-! SUPPORT. Every operation and meaning of Machine/Staging.lean keeps a sound state sound and the queue as it is. -/

namespace Sys2Proof.Machine
open Sys2Proof
set_option Elab.async false
set_option linter.all false

variable {pq : List Instr}

theorem keep_stageEvent {s : State} {typ : Nat} {status : Nat} {session : Nat} (hs : Keep pq s) : Keep pq (State.stageEvent s typ status session) := by
  unfold State.stageEvent
  repeat' first
    | with_reducible assumption
    | with_reducible refine keep_send ?_

theorem keep_stageAck {s : State} {via : Option Nat} {peer : UdpFrom} {typ : Nat} {status : Nat} {session : Nat} {store : Nat} {off : Nat} (hs : Keep pq s) : Keep pq (State.stageAck s via peer typ status session store off) := by
  unfold State.stageAck
  repeat' first
    | with_reducible assumption
    | (extract_lets +onlyGivenNames -underBinder x; (first | (refine (fun (hx : Keep pq x) => ?_) ?_; generalize x = y at hx ⊢; clear x; rotate_left; unfold x; clear x; rotate_right) | (have _h : Option _ := x; clear _h; generalize x = y; clear x) | (revert x; intro _)))
    | with_reducible refine keep_out ?_
    | with_reducible refine keep_stageEvent ?_
    | with_reducible refine keep_wrN ?_
    | split
    | with_reducible refine keep_of ?_

theorem keep_showSlot {s : State} {d : Nat} {check : Nat} (hs : Keep pq s) : Keep pq (State.showSlot s d check) := by
  unfold State.showSlot
  repeat' first
    | with_reducible assumption
    | with_reducible refine keep_wf ?_
    | split

theorem keep_copyRange {s : State} {a : Nat} {b : Nat} {n : Nat} (hs : Keep pq s) : Keep pq (State.copyRange s a b n) := by
  unfold State.copyRange
  repeat' first
    | with_reducible assumption
    | (extract_lets +onlyGivenNames -underBinder x; (first | (refine (fun (hx : Keep pq x) => ?_) ?_; generalize x = y at hx ⊢; clear x; rotate_left; unfold x; clear x; rotate_right) | (have _h : Option _ := x; clear _h; generalize x = y; clear x) | (revert x; intro _)))
    | with_reducible refine keep_cells ?_
    | with_reducible refine keep_zeroRange ?_
    | with_reducible refine keep_of ?_

theorem keep_programPart {s : State} {d : Nat} {store : Nat} {off : Nat} {bs : List Byte} (hs : Keep pq s) : Keep pq (State.programPart s d store off bs) := by
  unfold State.programPart
  repeat' first
    | with_reducible assumption
    | (extract_lets +onlyGivenNames -underBinder x; (first | (refine (fun (hx : Keep pq x) => ?_) ?_; generalize x = y at hx ⊢; clear x; rotate_left; unfold x; clear x; rotate_right) | (have _h : Option _ := x; clear _h; generalize x = y; clear x) | (revert x; intro _)))
    | with_reducible refine keep_program ?_
    | split

theorem keep_endStage {s : State} (hs : Keep pq s) : Keep pq (State.endStage s) := by
  unfold State.endStage
  repeat' first
    | with_reducible assumption
    | with_reducible refine keep_of ?_

theorem keep_stageOpen {s : State} {via : Option Nat} {peer : UdpFrom} {d : List Byte} (hs : Keep pq s) : Keep pq (State.stageOpen s via peer d).2 := by
  unfold State.stageOpen
  repeat' first
    | with_reducible assumption
    | (extract_lets +onlyGivenNames -underBinder x; (first | (refine (fun (hx : Keep pq x) => ?_) ?_; generalize x = y at hx ⊢; clear x; rotate_left; unfold x; clear x; rotate_right) | (have _h : Option _ := x; clear _h; generalize x = y; clear x) | (revert x; intro _)))
    | with_reducible refine keep_showSlot ?_
    | with_reducible refine keep_zeroRange ?_
    | split
    | with_reducible refine keep_of ?_

theorem keep_stageData {s : State} {via : Option Nat} {peer : UdpFrom} {d : List Byte} {ok : Bool} (hs : Keep pq s) : Keep pq (State.stageData s via peer d ok).2 := by
  unfold State.stageData
  repeat' first
    | with_reducible assumption
    | (extract_lets +onlyGivenNames -underBinder x; (first | (refine (fun (hx : Keep pq x) => ?_) ?_; generalize x = y at hx ⊢; clear x; rotate_left; unfold x; clear x; rotate_right) | (have _h : Option _ := x; clear _h; generalize x = y; clear x) | (revert x; intro _)))
    | with_reducible refine keep_programPart ?_
    | split
    | with_reducible refine keep_of ?_

theorem keep_stageCommit {s : State} {via : Option Nat} {peer : UdpFrom} {d : List Byte} (hs : Keep pq s) : Keep pq (State.stageCommit s via peer d).2 := by
  unfold State.stageCommit
  repeat' first
    | with_reducible assumption
    | (extract_lets +onlyGivenNames -underBinder x; (first | (refine (fun (hx : Keep pq x) => ?_) ?_; generalize x = y at hx ⊢; clear x; rotate_left; unfold x; clear x; rotate_right) | (have _h : Option _ := x; clear _h; generalize x = y; clear x) | (revert x; intro _)))
    | split
    | with_reducible refine keep_of ?_

theorem keep_stageAbort {s : State} {via : Option Nat} {peer : UdpFrom} {d : List Byte} (hs : Keep pq s) : Keep pq (State.stageAbort s via peer d).2 := by
  unfold State.stageAbort
  repeat' first
    | with_reducible assumption
    | with_reducible refine keep_endStage ?_
    | split

theorem keep_stageRun {s : State} {via : Option Nat} {peer : UdpFrom} {d : List Byte} {ok : Bool} (hs : Keep pq s) : Keep pq (State.stageRun s via peer d ok) := by
  unfold State.stageRun
  repeat' first
    | with_reducible assumption
    | (extract_lets +onlyGivenNames -underBinder x; (first | (have _h : Option _ := x; clear _h; generalize x = y; clear x) | (revert x; intro _)))
    | split
    | with_reducible refine keep_stageAbort ?_
    | with_reducible refine keep_stageAck ?_
    | with_reducible refine keep_stageCommit ?_
    | with_reducible refine keep_stageData ?_
    | with_reducible refine keep_stageOpen ?_
    | with_reducible refine keep_eq2 ‹_› ?_
    | dsimp -zeta only

theorem keep_stageUdp {s : State} {port : Nat} {typ : Nat} {peer : UdpFrom} {d : List Byte} {ok : Bool} (hs : Keep pq s) : Keep pq (State.stageUdp s port typ peer d ok) := by
  unfold State.stageUdp
  repeat' first
    | with_reducible assumption
    | with_reducible refine keep_stageRun ?_
    | split

theorem keep_execStageOpen {port : Fin 6} {peer : UdpFrom} {dg : List Byte} {s : State} (hs : Keep pq s) : KeepO pq (execStageOpen port peer dg s) := by
  unfold execStageOpen
  repeat' first
    | with_reducible assumption
    | with_reducible refine keepO_next ?_
    | with_reducible refine keep_stageUdp ?_

theorem keep_execStageData {port : Fin 6} {peer : UdpFrom} {dg : List Byte} {ok : Bool} {s : State} (hs : Keep pq s) : KeepO pq (execStageData port peer dg ok s) := by
  unfold execStageData
  repeat' first
    | with_reducible assumption
    | with_reducible refine keepO_next ?_
    | with_reducible refine keep_stageUdp ?_

theorem keep_execStageCommit {port : Fin 6} {peer : UdpFrom} {dg : List Byte} {s : State} (hs : Keep pq s) : KeepO pq (execStageCommit port peer dg s) := by
  unfold execStageCommit
  repeat' first
    | with_reducible assumption
    | with_reducible refine keepO_next ?_
    | with_reducible refine keep_stageUdp ?_

theorem keep_execStageAbort {port : Fin 6} {peer : UdpFrom} {dg : List Byte} {s : State} (hs : Keep pq s) : KeepO pq (execStageAbort port peer dg s) := by
  unfold execStageAbort
  repeat' first
    | with_reducible assumption
    | with_reducible refine keepO_next ?_
    | with_reducible refine keep_stageUdp ?_

theorem keep_stageErase {s : State} {g : Stage} (hs : Keep pq s) : Keep pq (State.stageErase s g) := by
  unfold State.stageErase
  repeat' first
    | with_reducible assumption
    | (extract_lets +onlyGivenNames -underBinder x; (first | (refine (fun (hx : Keep pq x) => ?_) ?_; generalize x = y at hx ⊢; clear x; rotate_left; unfold x; clear x; rotate_right) | (have _h : Option _ := x; clear _h; generalize x = y; clear x) | (revert x; intro _)))
    | with_reducible refine keep_copyRange ?_
    | with_reducible refine keep_program ?_
    | with_reducible refine keep_showSlot ?_
    | with_reducible refine keep_zeroRange ?_
    | split

theorem keep_execStageEraseDone {ok : Bool} {s : State} (hs : Keep pq s) : KeepO pq (execStageEraseDone ok s) := by
  unfold execStageEraseDone
  repeat' first
    | with_reducible assumption
    | with_reducible refine keepO_next ?_
    | (extract_lets +onlyGivenNames -underBinder x; (refine (fun (hx : Keep pq x) => ?_) ?_; generalize x = y at hx ⊢; clear x; rotate_left; unfold x; clear x; rotate_right))
    | with_reducible refine keep_endStage ?_
    | with_reducible refine keep_stageAck ?_
    | with_reducible refine keep_stageErase ?_
    | split
    | with_reducible refine keep_of ?_

theorem keep_execStageCommitVerified {s : State} (hs : Keep pq s) : KeepO pq (execStageCommitVerified s) := by
  unfold execStageCommitVerified
  repeat' first
    | with_reducible assumption
    | with_reducible refine keepO_next ?_
    | (extract_lets +onlyGivenNames -underBinder x; (first | (refine (fun (hx : Keep pq x) => ?_) ?_; generalize x = y at hx ⊢; clear x; rotate_left; unfold x; clear x; rotate_right) | (have _h : Option _ := x; clear _h; generalize x = y; clear x) | (revert x; intro _)))
    | with_reducible refine keep_endStage ?_
    | with_reducible refine keep_program ?_
    | with_reducible refine keep_showSlot ?_
    | with_reducible refine keep_stageAck ?_
    | split

theorem keep_execStageSessionTimeout {s : State} (hs : Keep pq s) : KeepO pq (execStageSessionTimeout s) := by
  unfold execStageSessionTimeout
  repeat' first
    | with_reducible assumption
    | with_reducible refine keepO_next ?_
    | with_reducible refine keep_advanceTo ?_
    | with_reducible refine keep_endStage ?_
    | split

end Sys2Proof.Machine
end

