-- ==== Sys2Proof/Laws/KeepI3c.lean ====
section
/-! SUPPORT. Every operation and meaning of Machine/I3c.lean keeps a sound state sound and the queue as it is. -/

namespace Sys2Proof.Machine
open Sys2Proof
set_option Elab.async false
set_option linter.all false

variable {pq : List Instr}

theorem keep_i3cEnd {s : State} {tag : Nat} {code : Nat} {rets : List Nat} (hs : Keep pq s) : Keep pq (State.i3cEnd s tag code rets) := by
  unfold State.i3cEnd
  repeat' first
    | with_reducible assumption
    | (extract_lets +onlyGivenNames -underBinder x; (first | (refine (fun (hx : Keep pq x) => ?_) ?_; generalize x = y at hx ⊢; clear x; rotate_left; unfold x; clear x; rotate_right) | (have _h : Option _ := x; clear _h; generalize x = y; clear x) | (revert x; intro _)))
    | with_reducible refine keep_wf ?_
    | with_reducible refine keep_foldl ?_ ?_
    | (intro _; intros)
    | with_reducible refine keep_of ?_

theorem keep_i3cStatus {s : State} {tag : Nat} (hs : Keep pq s) : Keep pq (State.i3cStatus s tag) := by
  unfold State.i3cStatus
  repeat' first
    | with_reducible assumption
    | (extract_lets +onlyGivenNames -underBinder x; (first | (refine (fun (hx : Keep pq x) => ?_) ?_; generalize x = y at hx ⊢; clear x; rotate_left; unfold x; clear x; rotate_right) | (have _h : Option _ := x; clear _h; generalize x = y; clear x) | (revert x; intro _)))
    | with_reducible refine keep_ackAgg ?_
    | with_reducible refine keep_i3cEnd ?_
    | split

theorem keep_gbRead {s : State} {tag : Nat} (hs : Keep pq s) : Keep pq (State.gbRead s tag) := by
  unfold State.gbRead
  repeat' first
    | with_reducible assumption
    | (extract_lets +onlyGivenNames -underBinder x; (refine (fun (hx : Keep pq x) => ?_) ?_; generalize x = y at hx ⊢; clear x; rotate_left; unfold x; clear x; rotate_right))
    | split
    | with_reducible refine keep_i3cEnd ?_
    | with_reducible refine keep_wrN ?_
    | with_reducible refine keep_foldl ?_ ?_
    | (intro _; intros)

theorem keep_i3cHw {s : State} {op : Nat} {tag : Nat} (hs : Keep pq s) : Keep pq (State.i3cHw s op tag) := by
  unfold State.i3cHw
  repeat' first
    | with_reducible assumption
    | with_reducible refine keep_askReset ?_
    | with_reducible refine keep_gbRead ?_
    | with_reducible refine keep_i3cEnd ?_
    | with_reducible refine keep_i3cStatus ?_
    | with_reducible refine keep_send ?_
    | with_reducible refine keep_wakeStart ?_
    | split

theorem keep_i3cWill {s : State} {op : Nat} {tag : Nat} {code : Nat} {rets : List Nat} (hs : Keep pq s) : Keep pq (State.i3cWill s op tag code rets) := by
  unfold State.i3cWill
  repeat' first
    | with_reducible assumption
    | (extract_lets +onlyGivenNames -underBinder x; (first | (have _h : Option _ := x; clear _h; generalize x = y; clear x) | (revert x; intro _)))
    | with_reducible refine keep_of ?_

theorem keep_safeExit {s : State} {tag : Nat} (hs : Keep pq s) : Keep pq (State.safeExit s tag) := by
  unfold State.safeExit
  repeat' first
    | with_reducible assumption
    | (extract_lets +onlyGivenNames -underBinder x; (first | (refine (fun (hx : Keep pq x) => ?_) ?_; generalize x = y at hx ⊢; clear x; rotate_left; unfold x; clear x; rotate_right) | (have _h : Option _ := x; clear _h; generalize x = y; clear x) | (revert x; intro _)))
    | with_reducible refine keep_i3cWill ?_
    | with_reducible refine keep_sendSafeExit ?_
    | split
    | with_reducible refine keep_of ?_

theorem keep_bistStart {s : State} (hs : Keep pq s) : Keep pq (State.bistStart s) := by
  unfold State.bistStart
  repeat' first
    | with_reducible assumption
    | (extract_lets +onlyGivenNames -underBinder x; (first | (have _h : Option _ := x; clear _h; generalize x = y; clear x) | (revert x; intro _)))
    | with_reducible refine keep_refuseRequest ?_
    | split
    | with_reducible refine keep_of ?_

theorem keep_calibrate {s : State} (hs : Keep pq s) : Keep pq (State.calibrate s) := by
  unfold State.calibrate
  repeat' first
    | with_reducible assumption
    | (extract_lets +onlyGivenNames -underBinder x; (refine (fun (hx : Keep pq x) => ?_) ?_; generalize x = y at hx ⊢; clear x; rotate_left; unfold x; clear x; rotate_right))
    | with_reducible refine keep_camDown ?_
    | with_reducible refine keep_ethDown ?_
    | with_reducible refine keep_refuseRequest ?_
    | with_reducible refine keep_wf ?_
    | with_reducible refine keep_foldl ?_ ?_
    | (intro _; intros)
    | split

theorem keep_selfTest {s : State} {tag : Nat} (hs : Keep pq s) : Keep pq (State.selfTest s tag) := by
  unfold State.selfTest
  repeat' first
    | with_reducible assumption
    | (extract_lets +onlyGivenNames -underBinder x; (first | (refine (fun (hx : Keep pq x) => ?_) ?_; generalize x = y at hx ⊢; clear x; rotate_left; unfold x; clear x; rotate_right) | (have _h : Option _ := x; clear _h; generalize x = y; clear x) | (revert x; intro _)))
    | with_reducible refine keep_bistStart ?_
    | with_reducible refine keep_calibrate ?_
    | with_reducible refine keep_i3cWill ?_
    | with_reducible refine keep_request ?_
    | split

theorem keep_attestI3c {s : State} {tag : Nat} (hs : Keep pq s) : Keep pq (State.attestI3c s tag) := by
  unfold State.attestI3c
  repeat' first
    | with_reducible assumption
    | split
    | with_reducible refine keep_attest ?_
    | with_reducible refine keep_i3cWill ?_
    | with_reducible refine keep_eq2 ‹_› ?_
    | dsimp -zeta only

theorem keep_stageI3c {s : State} {tag : Nat} (hs : Keep pq s) : Keep pq (State.stageI3c s tag) := by
  unfold State.stageI3c
  repeat' first
    | with_reducible assumption
    | (extract_lets +onlyGivenNames -underBinder x; (first | (have _h : Option _ := x; clear _h; generalize x = y; clear x) | (revert x; intro _)))
    | with_reducible refine keep_i3cWill ?_
    | with_reducible refine keep_stageRun ?_
    | split

theorem keep_declareI3c {s : State} {tag : Nat} (hs : Keep pq s) : Keep pq (State.declareI3c s tag) := by
  unfold State.declareI3c
  repeat' first
    | with_reducible assumption
    | (extract_lets +onlyGivenNames -underBinder x; (first | (refine (fun (hx : Keep pq x) => ?_) ?_; generalize x = y at hx ⊢; clear x; rotate_left; unfold x; clear x; rotate_right) | (have _h : Option _ := x; clear _h; generalize x = y; clear x) | (revert x; intro _)))
    | with_reducible refine keep_declareLink ?_
    | with_reducible refine keep_i3cWill ?_
    | split

theorem keep_i3cFw {s : State} {op : Nat} {tag : Nat} (hs : Keep pq s) : Keep pq (State.i3cFw s op tag) := by
  unfold State.i3cFw
  repeat' first
    | with_reducible assumption
    | (extract_lets +onlyGivenNames -underBinder x; (refine (fun (hx : Keep pq x) => ?_) ?_; generalize x = y at hx ⊢; clear x; rotate_left; unfold x; clear x; rotate_right))
    | with_reducible refine keep_askMaint ?_
    | with_reducible refine keep_askPark ?_
    | with_reducible refine keep_attestI3c ?_
    | with_reducible refine keep_declareI3c ?_
    | with_reducible refine keep_i3cWill ?_
    | with_reducible refine keep_safeExit ?_
    | with_reducible refine keep_selfTest ?_
    | with_reducible refine keep_stageI3c ?_
    | with_reducible refine keep_wf ?_
    | split

theorem keep_i3cGo {s : State} {op : Nat} {tag : Nat} (hs : Keep pq s) : Keep pq (State.i3cGo s op tag) := by
  unfold State.i3cGo
  repeat' first
    | with_reducible assumption
    | (extract_lets +onlyGivenNames -underBinder x; (first | (have _h : Option _ := x; clear _h; generalize x = y; clear x) | (revert x; intro _)))
    | with_reducible refine keep_i3cEnd ?_
    | with_reducible refine keep_i3cFw ?_
    | with_reducible refine keep_i3cHw ?_
    | split

theorem keep_i3cIssue {s : State} {op : Nat} {tag : Byte} {args : List (BitVec 32)} (hs : Keep pq s) : Keep pq (State.i3cIssue s op tag args) := by
  unfold State.i3cIssue
  repeat' first
    | with_reducible assumption
    | with_reducible refine keep_i3cGo ?_
    | with_reducible refine keep_wf ?_
    | with_reducible refine keep_foldl ?_ ?_
    | (intro _; intros)
    | split

theorem keep_execStatus {tag : Byte} {arg0 : BitVec 32} {s : State} (hs : Keep pq s) : KeepO pq (execStatus tag arg0 s) := by
  unfold execStatus
  repeat' first
    | with_reducible assumption
    | with_reducible refine keepO_next ?_
    | with_reducible refine keep_i3cIssue ?_

theorem keep_execSafeEnter {tag : Byte} {s : State} (hs : Keep pq s) : KeepO pq (execSafeEnter tag s) := by
  unfold execSafeEnter
  repeat' first
    | with_reducible assumption
    | with_reducible refine keepO_next ?_
    | with_reducible refine keep_i3cIssue ?_

theorem keep_execReset {tag : Byte} {arg0 : BitVec 32} {s : State} (hs : Keep pq s) : KeepO pq (execReset tag arg0 s) := by
  unfold execReset
  repeat' first
    | with_reducible assumption
    | with_reducible refine keepO_next ?_
    | with_reducible refine keep_i3cIssue ?_

theorem keep_execSafeExit {tag : Byte} {s : State} (hs : Keep pq s) : KeepO pq (execSafeExit tag s) := by
  unfold execSafeExit
  repeat' first
    | with_reducible assumption
    | with_reducible refine keepO_next ?_
    | with_reducible refine keep_i3cIssue ?_

theorem keep_execMaintEnter {tag : Byte} {s : State} (hs : Keep pq s) : KeepO pq (execMaintEnter tag s) := by
  unfold execMaintEnter
  repeat' first
    | with_reducible assumption
    | with_reducible refine keepO_next ?_
    | with_reducible refine keep_i3cIssue ?_

theorem keep_execPark {tag : Byte} {arg0 : BitVec 32} {s : State} (hs : Keep pq s) : KeepO pq (execPark tag arg0 s) := by
  unfold execPark
  repeat' first
    | with_reducible assumption
    | with_reducible refine keepO_next ?_
    | with_reducible refine keep_i3cIssue ?_

theorem keep_execWake {tag : Byte} {s : State} (hs : Keep pq s) : KeepO pq (execWake tag s) := by
  unfold execWake
  repeat' first
    | with_reducible assumption
    | with_reducible refine keepO_next ?_
    | with_reducible refine keep_i3cIssue ?_

theorem keep_execSelfTest {tag : Byte} {arg0 : BitVec 32} {s : State} (hs : Keep pq s) : KeepO pq (execSelfTest tag arg0 s) := by
  unfold execSelfTest
  repeat' first
    | with_reducible assumption
    | with_reducible refine keepO_next ?_
    | with_reducible refine keep_i3cIssue ?_

theorem keep_execGbRead {tag : Byte} {arg0 : BitVec 32} {arg1 : BitVec 32} {s : State} (hs : Keep pq s) : KeepO pq (execGbRead tag arg0 arg1 s) := by
  unfold execGbRead
  repeat' first
    | with_reducible assumption
    | with_reducible refine keepO_next ?_
    | with_reducible refine keep_i3cIssue ?_

theorem keep_execAttest {tag : Byte} {s : State} (hs : Keep pq s) : KeepO pq (execAttest tag s) := by
  unfold execAttest
  repeat' first
    | with_reducible assumption
    | with_reducible refine keepO_next ?_
    | with_reducible refine keep_i3cIssue ?_

theorem keep_execStage {tag : Byte} {s : State} (hs : Keep pq s) : KeepO pq (execStage tag s) := by
  unfold execStage
  repeat' first
    | with_reducible assumption
    | with_reducible refine keepO_next ?_
    | with_reducible refine keep_i3cIssue ?_

theorem keep_execDeclare {tag : Byte} {arg0 : BitVec 32} {s : State} (hs : Keep pq s) : KeepO pq (execDeclare tag arg0 s) := by
  unfold execDeclare
  repeat' first
    | with_reducible assumption
    | with_reducible refine keepO_next ?_
    | with_reducible refine keep_i3cIssue ?_

theorem keep_execCommandDone {dt : Nat} {s : State} (hs : Keep pq s) : KeepO pq (execCommandDone dt s) := by
  unfold execCommandDone
  repeat' first
    | with_reducible assumption
    | with_reducible refine keepO_next ?_
    | with_reducible refine keep_advance ?_
    | with_reducible refine keep_i3cEnd ?_
    | split

theorem keep_cmdsetDeclare {s : State} {major : Nat} {minor : Nat} (hs : Keep pq s) : Keep pq (State.cmdsetDeclare s major minor) := by
  unfold State.cmdsetDeclare
  repeat' first
    | with_reducible assumption
    | (extract_lets +onlyGivenNames -underBinder x; (first | (refine (fun (hx : Keep pq x) => ?_) ?_; generalize x = y at hx ⊢; clear x; rotate_left; unfold x; clear x; rotate_right) | (have _h : Option _ := x; clear _h; generalize x = y; clear x) | (revert x; intro _)))
    | with_reducible refine keep_outPort ?_
    | with_reducible refine keep_wf ?_
    | split

theorem keep_execCmdsetDeclare {req : Requester} {mmode : Bool} {major : Byte} {minor : Byte} {s : State} (hs : Keep pq s) : KeepO pq (execCmdsetDeclare req mmode major minor s) := by
  unfold execCmdsetDeclare
  repeat' first
    | with_reducible assumption
    | with_reducible refine keepO_next ?_
    | with_reducible refine keep_cmdWrite ?_ ?_
    | with_reducible refine keep_cmdsetDeclare ?_
    | with_reducible refine keep_deny ?_
    | (intro _; intros)
    | split

theorem keep_windowWrite {s : State} {w : Nat} {v : Nat} (hs : Keep pq s) : Keep pq (State.windowWrite s w v) := by
  unfold State.windowWrite
  repeat' first
    | with_reducible assumption
    | (extract_lets +onlyGivenNames -underBinder x; (first | (have _h : Option _ := x; clear _h; generalize x = y; clear x) | (revert x; intro _)))
    | with_reducible refine keep_cmdsetDeclare ?_
    | with_reducible refine keep_deny ?_
    | with_reducible refine keep_i3cGo ?_
    | with_reducible refine keep_wrN ?_
    | with_reducible refine keep_writeReg ?_
    | split

theorem keep_windowWords {s : State} {w : Nat} {l : List Nat} (hs : Keep pq s) : Keep pq (State.windowWords s w l) := by
  induction l generalizing s w with
  | nil => exact keep_of hs
  | cons v l ih => exact ih (keep_windowWrite hs)

theorem keep_execI3cPrivateWrite {bytes : List Byte} {s : State} (hs : Keep pq s) : KeepO pq (execI3cPrivateWrite bytes s) := by
  unfold execI3cPrivateWrite
  repeat' first
    | with_reducible assumption
    | with_reducible refine keepO_next ?_
    | (extract_lets +onlyGivenNames -underBinder x; (first | (refine (fun (hx : Keep pq x) => ?_) ?_; generalize x = y at hx ⊢; clear x; rotate_left; unfold x; clear x; rotate_right) | (have _h : Option _ := x; clear _h; generalize x = y; clear x) | (revert x; intro _)))
    | with_reducible refine keep_bump ?_
    | with_reducible refine keep_windowWords ?_
    | split

theorem keep_execIbiRetry {s : State} (hs : Keep pq s) : KeepO pq (execIbiRetry s) := by
  unfold execIbiRetry
  repeat' first
    | with_reducible assumption
    | with_reducible refine keepO_next ?_
    | with_reducible refine keep_bump ?_
    | with_reducible refine keep_sendIbi ?_
    | split

theorem keep_execI3cBusError {s : State} (hs : Keep pq s) : KeepO pq (execI3cBusError s) := by
  unfold execI3cBusError
  repeat' first
    | with_reducible assumption
    | with_reducible refine keepO_next ?_
    | with_reducible refine keep_bump ?_
    | with_reducible refine keep_outPort ?_
    | split

theorem keep_ccc {s : State} {f : State → State} (hs : Keep pq s) (hf : ∀ s, Keep pq s → Keep pq (f s)) : KeepO pq (State.ccc s f) := by
  unfold State.ccc
  repeat' first
    | with_reducible assumption
    | with_reducible refine keepO_next ?_
    | with_reducible refine hf _ ?_
    | with_reducible refine keep_wf ?_
    | split

theorem keep_cccGet {s : State} {bs : List Byte} (hs : Keep pq s) : KeepO pq (State.cccGet s bs) := by
  unfold State.cccGet
  repeat' first
    | with_reducible assumption
    | with_reducible refine keepO_next ?_
    | with_reducible refine keep_ccc ?_ ?_
    | with_reducible refine keep_out ?_
    | (intro _; intros)
    | split

theorem keep_ibiGo {s : State} (hs : Keep pq s) : Keep pq (State.ibiGo s) := by
  unfold State.ibiGo
  repeat' first
    | with_reducible assumption
    | with_reducible refine keep_sendIbi ?_
    | split

theorem keep_takeAddress {s : State} {da : Nat} (hs : Keep pq s) : Keep pq (State.takeAddress s da) := by
  unfold State.takeAddress
  repeat' first
    | with_reducible assumption
    | with_reducible refine keep_ibiGo ?_
    | with_reducible refine keep_wf ?_

theorem keep_execEntdaa {da : BitVec 7} {s : State} (hs : Keep pq s) : KeepO pq (execEntdaa da s) := by
  unfold execEntdaa
  repeat' first
    | with_reducible assumption
    | with_reducible refine keepO_next ?_
    | with_reducible refine keep_ccc ?_ ?_
    | with_reducible refine keep_out ?_
    | with_reducible refine keep_takeAddress ?_
    | (intro _; intros)
    | split

theorem keep_execSetdasa {static : BitVec 7} {da : BitVec 7} {s : State} (hs : Keep pq s) : KeepO pq (execSetdasa static da s) := by
  unfold execSetdasa
  repeat' first
    | with_reducible assumption
    | with_reducible refine keepO_next ?_
    | with_reducible refine keep_ccc ?_ ?_
    | with_reducible refine keep_takeAddress ?_
    | (intro _; intros)
    | split

theorem keep_execRstdaa {s : State} (hs : Keep pq s) : KeepO pq (execRstdaa s) := by
  unfold execRstdaa
  repeat' first
    | with_reducible assumption
    | with_reducible refine keepO_next ?_
    | with_reducible refine keep_ccc ?_ ?_
    | with_reducible refine keep_wf ?_
    | (intro _; intros)

theorem keep_execEnec {events : Byte} {s : State} (hs : Keep pq s) : KeepO pq (execEnec events s) := by
  unfold execEnec
  repeat' first
    | with_reducible assumption
    | with_reducible refine keepO_next ?_
    | with_reducible refine keep_ccc ?_ ?_
    | with_reducible refine keep_ibiGo ?_
    | with_reducible refine keep_wf ?_
    | (intro _; intros)
    | split

theorem keep_execDisec {events : Byte} {s : State} (hs : Keep pq s) : KeepO pq (execDisec events s) := by
  unfold execDisec
  repeat' first
    | with_reducible assumption
    | with_reducible refine keepO_next ?_
    | with_reducible refine keep_ccc ?_ ?_
    | with_reducible refine keep_wf ?_
    | (intro _; intros)
    | split

theorem keep_execSetmwl {len : BitVec 16} {s : State} (hs : Keep pq s) : KeepO pq (execSetmwl len s) := by
  unfold execSetmwl
  repeat' first
    | with_reducible assumption
    | with_reducible refine keepO_next ?_
    | (extract_lets +onlyGivenNames -underBinder x; (first | (have _h : Option _ := x; clear _h; generalize x = y; clear x) | (revert x; intro _)))
    | with_reducible refine keep_ccc ?_ ?_
    | (intro _; intros)
    | with_reducible refine keep_of ?_

theorem keep_execSetmrl {len : BitVec 16} {s : State} (hs : Keep pq s) : KeepO pq (execSetmrl len s) := by
  unfold execSetmrl
  repeat' first
    | with_reducible assumption
    | with_reducible refine keepO_next ?_
    | (extract_lets +onlyGivenNames -underBinder x; (first | (have _h : Option _ := x; clear _h; generalize x = y; clear x) | (revert x; intro _)))
    | with_reducible refine keep_ccc ?_ ?_
    | (intro _; intros)
    | with_reducible refine keep_of ?_

theorem keep_execGetmwl {s : State} (hs : Keep pq s) : KeepO pq (execGetmwl s) := by
  unfold execGetmwl
  repeat' first
    | with_reducible assumption
    | with_reducible refine keepO_next ?_
    | with_reducible refine keep_cccGet ?_

theorem keep_execGetmrl {s : State} (hs : Keep pq s) : KeepO pq (execGetmrl s) := by
  unfold execGetmrl
  repeat' first
    | with_reducible assumption
    | with_reducible refine keepO_next ?_
    | with_reducible refine keep_cccGet ?_

theorem keep_execGetpid {s : State} (hs : Keep pq s) : KeepO pq (execGetpid s) := by
  unfold execGetpid
  repeat' first
    | with_reducible assumption
    | with_reducible refine keepO_next ?_
    | with_reducible refine keep_cccGet ?_

theorem keep_execGetbcr {s : State} (hs : Keep pq s) : KeepO pq (execGetbcr s) := by
  unfold execGetbcr
  repeat' first
    | with_reducible assumption
    | with_reducible refine keepO_next ?_
    | with_reducible refine keep_cccGet ?_

theorem keep_execGetdcr {s : State} (hs : Keep pq s) : KeepO pq (execGetdcr s) := by
  unfold execGetdcr
  repeat' first
    | with_reducible assumption
    | with_reducible refine keepO_next ?_
    | with_reducible refine keep_cccGet ?_

theorem keep_execGetstatus {s : State} (hs : Keep pq s) : KeepO pq (execGetstatus s) := by
  unfold execGetstatus
  repeat' first
    | with_reducible assumption
    | with_reducible refine keepO_next ?_
    | with_reducible refine keep_cccGet ?_
    | with_reducible refine keep_of ?_

theorem keep_execGetmxds {s : State} (hs : Keep pq s) : KeepO pq (execGetmxds s) := by
  unfold execGetmxds
  repeat' first
    | with_reducible assumption
    | with_reducible refine keepO_next ?_
    | with_reducible refine keep_cccGet ?_
    | with_reducible refine keep_of ?_

theorem keep_execEnthdr0 {s : State} (hs : Keep pq s) : KeepO pq (execEnthdr0 s) := by
  unfold execEnthdr0
  repeat' first
    | with_reducible assumption
    | with_reducible refine keepO_next ?_
    | with_reducible refine keep_wf ?_
    | split

theorem keep_execFullBist {req : Requester} {mmode : Bool} {s : State} (hs : Keep pq s) : KeepO pq (execFullBist req mmode s) := by
  unfold execFullBist
  repeat' first
    | with_reducible assumption
    | with_reducible refine keepO_next ?_
    | with_reducible refine keep_bistStart ?_
    | with_reducible refine keep_requestWrite ?_ ?_
    | (intro _; intros)

theorem keep_execCalibration {req : Requester} {mmode : Bool} {s : State} (hs : Keep pq s) : KeepO pq (execCalibration req mmode s) := by
  unfold execCalibration
  repeat' first
    | with_reducible assumption
    | with_reducible refine keepO_next ?_
    | with_reducible refine keep_calibrate ?_
    | with_reducible refine keep_requestWrite ?_ ?_
    | (intro _; intros)

theorem keep_clearSrams {s : State} (hs : Keep pq s) : Keep pq (State.clearSrams s) := by
  unfold State.clearSrams
  repeat' first
    | with_reducible assumption
    | (extract_lets +onlyGivenNames -underBinder x; (refine (fun (hx : Keep pq x) => ?_) ?_; generalize x = y at hx ⊢; clear x; rotate_left; unfold x; clear x; rotate_right))
    | with_reducible refine keep_eccFilter ?_
    | with_reducible refine keep_wipeLocket ?_
    | with_reducible refine keep_zeroRange ?_
    | with_reducible refine keep_of ?_

theorem keep_execFullBistDone {s : State} (hs : Keep pq s) : KeepO pq (execFullBistDone s) := by
  unfold execFullBistDone
  repeat' first
    | with_reducible assumption
    | with_reducible refine keepO_next ?_
    | (extract_lets +onlyGivenNames -underBinder x; (first | (refine (fun (hx : Keep pq x) => ?_) ?_; generalize x = y at hx ⊢; clear x; rotate_left; unfold x; clear x; rotate_right) | (have _h : Option _ := x; clear _h; generalize x = y; clear x) | (revert x; intro _)))
    | with_reducible refine keep_advanceTo ?_
    | with_reducible refine keep_clearSrams ?_
    | split
    | with_reducible refine keep_of ?_

end Sys2Proof.Machine
end

