-- ==== Sys2Proof/Laws/KeepReplay.lean ====
section
/-! SUPPORT. Every operation and meaning of Machine/Replay.lean keeps a sound state sound and the queue as it is. -/

namespace Sys2Proof.Machine
open Sys2Proof
set_option Elab.async false
set_option linter.all false

variable {pq : List Instr}

theorem keep_replayAck {s : State} {port : Nat} {peer : UdpFrom} {status : Nat} {session : Nat} {bell : Nat} {off : Nat} (hs : Keep pq s) : Keep pq (State.replayAck s port peer status session bell off) := by
  unfold State.replayAck
  repeat' first
    | with_reducible assumption
    | (extract_lets +onlyGivenNames -underBinder x; (first | (have _h : Option _ := x; clear _h; generalize x = y; clear x) | (revert x; intro _)))
    | with_reducible refine keep_out ?_

theorem keep_execReplayOpen {port : Fin 6} {peer : UdpFrom} {dg : List Byte} {s : State} (hs : Keep pq s) : KeepO pq (execReplayOpen port peer dg s) := by
  unfold execReplayOpen
  repeat' first
    | with_reducible assumption
    | with_reducible refine keepO_next ?_
    | (extract_lets +onlyGivenNames -underBinder x; (first | (refine (fun (hx : Keep pq x) => ?_) ?_; generalize x = y at hx ⊢; clear x; rotate_left; unfold x; clear x; rotate_right) | (have _h : Option _ := x; clear _h; generalize x = y; clear x) | (revert x; intro _)))
    | with_reducible refine keep_camClear ?_
    | with_reducible refine keep_clearC ?_
    | with_reducible refine keep_phase2All ?_
    | with_reducible refine keep_replayAck ?_
    | with_reducible refine keep_resetScales ?_
    | with_reducible refine keep_sieveStart ?_
    | with_reducible refine keep_wipeFill ?_
    | split
    | with_reducible refine keep_of ?_

theorem keep_execReplayClose {port : Fin 6} {peer : UdpFrom} {dg : List Byte} {s : State} (hs : Keep pq s) : KeepO pq (execReplayClose port peer dg s) := by
  unfold execReplayClose
  repeat' first
    | with_reducible assumption
    | with_reducible refine keepO_next ?_
    | (extract_lets +onlyGivenNames -underBinder x; (first | (refine (fun (hx : Keep pq x) => ?_) ?_; generalize x = y at hx ⊢; clear x; rotate_left; unfold x; clear x; rotate_right) | (have _h : Option _ := x; clear _h; generalize x = y; clear x) | (revert x; intro _)))
    | with_reducible refine keep_camClear ?_
    | with_reducible refine keep_endBell ?_
    | with_reducible refine keep_noBell ?_
    | with_reducible refine keep_replayAck ?_
    | with_reducible refine keep_sieveStart ?_
    | with_reducible refine keep_stopCompute ?_
    | split
    | with_reducible refine keep_of ?_

theorem keep_execReplayData {port : Fin 6} {peer : UdpFrom} {dg : List Byte} {s : State} (hs : Keep pq s) : KeepO pq (execReplayData port peer dg s) := by
  unfold execReplayData
  repeat' first
    | with_reducible assumption
    | with_reducible refine keepO_next ?_
    | (extract_lets +onlyGivenNames -underBinder x; (first | (have _h : Option _ := x; clear _h; generalize x = y; clear x) | (revert x; intro _)))
    | with_reducible refine keep_replayAck ?_
    | split
    | with_reducible refine keep_of ?_

theorem keep_replayInput {s : State} {kind : Nat} {k : Nat} {i : Nat} (hs : Keep pq s) : Keep pq (State.replayInput s kind k i) := by
  unfold State.replayInput
  repeat' first
    | with_reducible assumption
    | with_reducible refine keep_send ?_

theorem keep_replayFrame {s : State} {c : Nat} {r : List Byte} {body : List Byte} (hs : Keep pq s) : Keep pq (State.replayFrame s c r body) := by
  unfold State.replayFrame
  repeat' first
    | with_reducible assumption
    | (extract_lets +onlyGivenNames -underBinder x; (first | (refine (fun (hx : Keep pq x) => ?_) ?_; generalize x = y at hx ⊢; clear x; rotate_left; unfold x; clear x; rotate_right) | (have _h : Option _ := x; clear _h; generalize x = y; clear x) | (revert x; intro _)))
    | split
    | with_reducible refine keep_bump ?_
    | with_reducible refine keep_send ?_
    | with_reducible refine keep_setBuf ?_
    | with_reducible refine keep_store ?_
    | with_reducible refine keep_foldl ?_ ?_
    | (intro _; intros)

theorem keep_replayCam {s : State} {k : Nat} {i : Nat} {body : List Byte} (hs : Keep pq s) : Keep pq (State.replayCam s k i body).2 := by
  unfold State.replayCam
  repeat' first
    | with_reducible assumption
    | (extract_lets +onlyGivenNames -underBinder x; (first | (have _h : Option _ := x; clear _h; generalize x = y; clear x) | (revert x; intro _)))
    | with_reducible refine keep_replayFrame ?_
    | with_reducible refine keep_replayInput ?_
    | split

theorem keep_replayItem {s : State} {k : Nat} {i : Nat} {x : Nat × List Byte} (hs : Keep pq s) : Keep pq (State.replayItem s k i x).2 := by
  unfold State.replayItem
  repeat' first
    | with_reducible assumption
    | (extract_lets +onlyGivenNames -underBinder x; (first | (have _h : Option _ := x; clear _h; generalize x = y; clear x) | (revert x; intro _)))
    | with_reducible refine keep_egoTake ?_
    | with_reducible refine keep_replayCam ?_
    | split
    | with_reducible refine keep_of ?_

theorem keep_replayLidar {s : State} {b : List Byte} (hs : Keep pq s) : Keep pq (State.replayLidar s b) := by
  unfold State.replayLidar
  repeat' first
    | with_reducible assumption
    | with_reducible refine keep_lidarTake ?_

theorem keep_replayBell {s : State} {k : Nat} {data : List Byte} (hs : Keep pq s) : Keep pq (State.replayBell s k data).2 := by
  unfold State.replayBell
  repeat' first
    | with_reducible assumption
    | (extract_lets +onlyGivenNames -underBinder x; (first | (have _h : Option _ := x; clear _h; generalize x = y; clear x) | (revert x; intro _)))
    | split
    | with_reducible refine keep_replayItem ?_
    | with_reducible refine keep_replayLidar ?_
    | with_reducible refine keep_foldl ?_ ?_
    | with_reducible refine keep_foldl2 ?_ ?_
    | (intro _; intros)
    | with_reducible refine keep_eq2 ‹_› ?_
    | dsimp -zeta only

theorem keep_execReplayBellEnd {port : Fin 6} {peer : UdpFrom} {dg : List Byte} {s : State} (hs : Keep pq s) : KeepO pq (execReplayBellEnd port peer dg s) := by
  unfold execReplayBellEnd
  repeat' first
    | with_reducible assumption
    | with_reducible refine keepO_next ?_
    | (extract_lets +onlyGivenNames -underBinder x; (first | (refine (fun (hx : Keep pq x) => ?_) ?_; generalize x = y at hx ⊢; clear x; rotate_left; unfold x; clear x; rotate_right) | (have _h : Option _ := x; clear _h; generalize x = y; clear x) | (revert x; intro _)))
    | split
    | with_reducible refine keep_replayAck ?_
    | with_reducible refine keep_replayBell ?_
    | with_reducible refine keep_eq2 ‹_› ?_
    | with_reducible refine keep_of ?_
    | dsimp -zeta only

theorem keep_execReplayBellStart {s : State} (hs : Keep pq s) : KeepO pq (execReplayBellStart s) := by
  unfold execReplayBellStart
  repeat' first
    | with_reducible assumption
    | with_reducible refine keepO_next ?_
    | (extract_lets +onlyGivenNames -underBinder x; (first | (refine (fun (hx : Keep pq x) => ?_) ?_; generalize x = y at hx ⊢; clear x; rotate_left; unfold x; clear x; rotate_right) | (have _h : Option _ := x; clear _h; generalize x = y; clear x) | (revert x; intro _)))
    | with_reducible refine keep_advanceTo ?_
    | with_reducible refine keep_endBell ?_
    | with_reducible refine keep_gapCheck ?_
    | with_reducible refine keep_remapEdge ?_
    | with_reducible refine keep_startBell ?_
    | split
    | with_reducible refine keep_of ?_

end Sys2Proof.Machine
end

