-- ==== Sys2Proof/Laws/KeepRubric.lean ====
section
/-! SUPPORT. Every operation and meaning of Machine/Rubric.lean keeps a sound state sound and the queue as it is. -/

namespace Sys2Proof.Machine
open Sys2Proof
set_option Elab.async false
set_option linter.all false

variable {pq : List Instr}

theorem keep_rubric {s : State} {n : Nat} {w : Nat} {st : Nat} {r : Nat} (hs : Keep pq s) : Keep pq (State.rubric s n w st r) := by
  unfold State.rubric
  repeat' first
    | with_reducible assumption
    | (extract_lets +onlyGivenNames -underBinder x; (first | (refine (fun (hx : Keep pq x) => ?_) ?_; generalize x = y at hx ⊢; clear x; rotate_left; unfold x; clear x; rotate_right) | (have _h : Option _ := x; clear _h; generalize x = y; clear x) | (revert x; intro _)))
    | split
    | with_reducible refine keep_bump ?_
    | with_reducible refine keep_markResult ?_
    | with_reducible refine keep_recvStream ?_
    | with_reducible refine keep_send ?_
    | with_reducible refine keep_eq4 ‹_› ?_
    | with_reducible refine keep_of ?_
    | dsimp -zeta only

theorem keep_contestTiles {s : State} {stream : Nat} (hs : Keep pq s) : Keep pq (State.contestTiles s stream) := by
  unfold State.contestTiles
  repeat' first
    | with_reducible assumption
    | (extract_lets +onlyGivenNames -underBinder x; (first | (have _h : Option _ := x; clear _h; generalize x = y; clear x) | (revert x; intro _)))
    | split
    | with_reducible refine keep_store ?_
    | with_reducible refine keep_foldl ?_ ?_
    | (intro _; intros)

theorem keep_contestRequests {s : State} {cores : Nat} {main : Nat} {proc : Nat} (hs : Keep pq s) : Keep pq (State.contestRequests s cores main proc) := by
  unfold State.contestRequests
  repeat' first
    | with_reducible assumption
    | (extract_lets +onlyGivenNames -underBinder x; (refine (fun (hx : Keep pq x) => ?_) ?_; generalize x = y at hx ⊢; clear x; rotate_left; unfold x; clear x; rotate_right))
    | with_reducible refine keep_request ?_
    | with_reducible refine keep_foldl ?_ ?_
    | (intro _; intros)

theorem keep_proctor {s : State} {n : Nat} {w : Nat} {st : Nat} {i : Nat} (hs : Keep pq s) : Keep pq (State.proctor s n w st i) := by
  unfold State.proctor
  repeat' first
    | with_reducible assumption
    | (extract_lets +onlyGivenNames -underBinder x; (first | (refine (fun (hx : Keep pq x) => ?_) ?_; generalize x = y at hx ⊢; clear x; rotate_left; unfold x; clear x; rotate_right) | (have _h : Option _ := x; clear _h; generalize x = y; clear x) | (revert x; intro _)))
    | split
    | with_reducible refine keep_contestRequests ?_
    | with_reducible refine keep_contestTiles ?_
    | with_reducible refine keep_markResult ?_
    | with_reducible refine keep_recvStream ?_
    | with_reducible refine keep_send ?_
    | with_reducible refine keep_eq4 ‹_› ?_
    | dsimp -zeta only

theorem keep_rubricOp {s : State} {n : Nat} {compare : Bool} (hs : Keep pq s) : Keep pq (State.rubricOp s n compare) := by
  unfold State.rubricOp
  repeat' first
    | with_reducible assumption
    | split
    | with_reducible refine keep_issueSta ?_
    | with_reducible refine keep_startSta ?_
    | with_reducible refine keep_eq2 ‹_› ?_
    | dsimp -zeta only

theorem keep_execRubricRun {core : Fin 64} {s : State} (hs : Keep pq s) : KeepO pq (execRubricRun core s) := by
  unfold execRubricRun
  repeat' first
    | with_reducible assumption
    | with_reducible refine keepO_next ?_
    | with_reducible refine keep_rubricOp ?_

theorem keep_execProctorCompare {core : Fin 64} {s : State} (hs : Keep pq s) : KeepO pq (execProctorCompare core s) := by
  unfold execProctorCompare
  repeat' first
    | with_reducible assumption
    | with_reducible refine keepO_next ?_
    | with_reducible refine keep_rubricOp ?_

theorem keep_execRubricComplete {s : State} (hs : Keep pq s) : KeepO pq (execRubricComplete s) := by
  unfold execRubricComplete
  repeat' first
    | with_reducible assumption
    | with_reducible refine keepO_next ?_
    | (extract_lets +onlyGivenNames -underBinder x; (first | (refine (fun (hx : Keep pq x) => ?_) ?_; generalize x = y at hx ⊢; clear x; rotate_left; unfold x; clear x; rotate_right) | (have _h : Option _ := x; clear _h; generalize x = y; clear x) | (revert x; intro _)))
    | with_reducible refine keep_advanceTo ?_
    | with_reducible refine keep_endJob ?_
    | with_reducible refine keep_proctor ?_
    | with_reducible refine keep_rubric ?_
    | with_reducible refine keep_foldl ?_ ?_
    | (intro _; intros)
    | split

end Sys2Proof.Machine
end

