-- ==== Sys2Proof/Laws/KeepVector.lean ====
section
/-! SUPPORT. Every operation and meaning of Machine/Vector.lean keeps a sound state sound and the queue as it is. -/

namespace Sys2Proof.Machine
open Sys2Proof
set_option Elab.async false
set_option linter.all false

variable {pq : List Instr}

theorem keep_deskTile {s : State} {n : Nat} {st : Nat} {off : Nat} {count : Nat} {fmt : Nat} {quiet : Bool} (hs : Keep pq s) : Keep pq (State.deskTile s n st off count fmt quiet).2.2.2 := by
  unfold State.deskTile
  repeat' first
    | with_reducible assumption
    | (extract_lets +onlyGivenNames -underBinder x; (first | (have _h : Option _ := x; clear _h; generalize x = y; clear x) | (revert x; intro _)))
    | with_reducible refine keep_receive ?_
    | split

theorem keep_vrunNans {r : VRun} {n st k stream idx : Nat} (h : Keep pq r.s) : Keep pq (r.nans n st k stream idx).s := by
  unfold VRun.nans
  dsimp only
  split
  · exact h
  · split
    · exact keep_bump h
    · exact keep_numFault (keep_bump h)

theorem keep_vrunPut {r : VRun} {n dst : Nat} {h : Hdr} {pay : List Byte} (hr : Keep pq r.s) : Keep pq (r.put n dst h pay).s :=
  keep_wrN (keep_wrN hr)

theorem keep_vrunOp {r : VRun} {n st w : Nat} {v : Vop} (hr : Keep pq r.s) : Keep pq (r.op n st w v).s := by
  unfold VRun.op
  extract_lets s p quiet r2 nd
  split
  rename_i e1
  have h1 := keep_eq4 e1 (keep_deskTile (show Keep pq s from hr))
  split
  rename_i e2
  have h2 := keep_eq4 (q := pq) e2 (by
    split
    · split
      rename_i e
      exact keep_eq4 e (keep_deskTile h1)
    · exact h1)
  split
  rename_i e3
  have h3 := keep_eq4 (q := pq) e3 (by
    split
    · split
      rename_i e
      exact keep_eq4 e (keep_deskTile h2)
    · exact h2)
  clear_value r2
  split
  extract_lets void xs
  split
  · split
    rename_i e4
    have h4 := keep_eq4 e4 (keep_deskTile h3)
    refine keep_vrunPut (keep_vrunNans ?_)
    dsimp only
    split
    · exact keep_tally (keep_bump (keep_of h4))
    · exact keep_numFault (keep_tally (keep_bump (keep_of h4)))
  · split
    · exact keep_vrunPut h3
    · exact keep_vrunPut (keep_vrunNans (keep_tally h3))

theorem keep_loadOps {s : State} {n first k : Nat} (hs : Keep pq s) : Keep pq (s.loadOps n first k).2 := by
  induction k generalizing s first with
  | zero => exact hs
  | succ k ih =>
    unfold State.loadOps
    have h1 := keep_loadCode (n := n) (k := keyDesk (s.phys n) (s.dir (s.phys n) 32 + 16 * first)) (len := 16) hs
    split
    · rename_i e; rw [e] at h1; exact h1
    · rename_i e; rw [e] at h1
      have h2 := ih (first := first + 1) h1
      split
      · rename_i e2; rw [e2] at h2; exact h2
      · rename_i e2; rw [e2] at h2; exact h2

theorem vrunFold {ops : List Vop} {n st w : Nat} {s : State} {outs : List TileW} {c : Nat} {b : Bool} (h : Keep pq s) :
    Keep pq (ops.foldl (fun (r : VRun) v => r.op n st w v) { s := s, outs := outs, cycles := c, nanSent := b }).s := by
  suffices ∀ r : VRun, Keep pq r.s → Keep pq (ops.foldl (fun (r : VRun) v => r.op n st w v) r).s from this _ h
  induction ops with
  | nil => exact fun r hr => hr
  | cons v l ih => exact fun r hr => ih _ (keep_vrunOp hr)

theorem keep_execVec {core : Fin 64} {s : State} (hs : Keep pq s) : KeepO pq (execVec core s) := by
  unfold execVec
  extract_lets +onlyGivenNames -underBinder n
  split
  · exact keepO_next (keep_eq2 ‹_› (keep_issue hs))
  · rename_i e1
    have h1 := keep_eq2 e1 (keep_issue hs)
    extract_lets +onlyGivenNames -underBinder p
    split
    · exact keepO_next (keep_eq2 ‹_› (keep_loadCode h1))
    · rename_i e2
      have h2 := keep_eq2 e2 (keep_loadCode h1)
      split
      · exact keepO_next (keep_eq2 ‹_› (keep_loadOps h2))
      · rename_i ops s3 e3
        have h3 := keep_eq2 e3 (keep_loadOps h2)
        refine keepO_next (keep_startJob (keep_wf (keep_mem (vrunFold h3) (keep_wfMem h3))))

theorem keep_execVecComplete {core : Fin 64} {s : State} (hs : Keep pq s) : KeepO pq (execVecComplete core s) := by
  unfold execVecComplete
  repeat' first
    | with_reducible assumption
    | with_reducible refine keepO_next ?_
    | (extract_lets +onlyGivenNames -underBinder x; (refine (fun (hx : Keep pq x) => ?_) ?_; generalize x = y at hx ⊢; clear x; rotate_left; unfold x; clear x; rotate_right))
    | with_reducible refine keep_advanceTo ?_
    | with_reducible refine keep_endJob ?_
    | with_reducible refine keep_flush ?_
    | with_reducible refine keep_wf ?_
    | split

end Sys2Proof.Machine
end

