-- ==== Sys2Proof/Laws/KeepDispatch.lean ====
section
/-! SUPPORT. Every operation and meaning of Machine/Dispatch.lean keeps a sound state sound and the queue as it is. -/

namespace Sys2Proof.Machine
open Sys2Proof
set_option Elab.async false
set_option linter.all false

variable {pq : List Instr}

theorem keep_exec {i : Instr} {s : State} (hs : Keep pq s) : KeepO pq (exec i s) := by
  cases i with
  | bellEdge => exact keep_execBellEdge hs
  | healthPoint => exact keep_execHealthPoint hs
  | scalePhase2 => exact keep_execScalePhase2 hs
  | gatePoint => exact keep_execGatePoint hs
  | aliveStart => exact keep_execAliveStart hs
  | aliveToggle => exact keep_execAliveToggle hs
  | aliveReadbackCheck _ _ => exact keep_execAliveReadbackCheck hs
  | heartbeatDeadline => exact keep_execHeartbeatDeadline hs
  | planReload => exact keep_execPlanReload hs
  | taskBegin _ => exact keep_execTaskBegin hs
  | budget _ _ => exact keep_execBudget hs
  | move _ => exact keep_execMove hs
  | moveComplete _ _ _ => exact keep_execMoveComplete hs
  | deadline _ _ => exact keep_execDeadline hs
  | mmFormT _ => exact keep_execMmFormT hs
  | mmFormW _ => exact keep_execMmFormW hs
  | ew _ => exact keep_execEw hs
  | mmComplete _ => exact keep_execMmComplete hs
  | vec _ => exact keep_execVec hs
  | vecComplete _ => exact keep_execVecComplete hs
  | compress _ => exact keep_execCompress hs
  | expand _ => exact keep_execExpand hs
  | codecComplete _ => exact keep_execCodecComplete hs
  | poolMax _ => exact keep_execPoolMax hs
  | poolAvg _ => exact keep_execPoolAvg hs
  | anchor2d _ => exact keep_execAnchor2d hs
  | center2d _ => exact keep_execCenter2d hs
  | centerBev _ => exact keep_execCenterBev hs
  | nmsAxis _ => exact keep_execNmsAxis hs
  | nmsBev _ => exact keep_execNmsBev hs
  | detectComplete _ => exact keep_execDetectComplete hs
  | attPlan _ => exact keep_execAttPlan hs
  | attAppend _ => exact keep_execAttAppend hs
  | attFetch _ => exact keep_execAttFetch hs
  | attSpread _ => exact keep_execAttSpread hs
  | attendComplete _ => exact keep_execAttendComplete hs
  | attReleaseFrame => exact keep_execAttReleaseFrame hs
  | rubricRun _ => exact keep_execRubricRun hs
  | proctorCompare _ => exact keep_execProctorCompare hs
  | rubricComplete => exact keep_execRubricComplete hs
  | emitRelease _ => exact keep_execEmitRelease hs
  | emitReleaseComplete => exact keep_execEmitReleaseComplete hs
  | digest _ => exact keep_execDigest hs
  | digestCompare _ => exact keep_execDigestCompare hs
  | evidenceCaptureDone _ _ => exact keep_execEvidenceCaptureDone hs
  | swap _ => exact keep_execSwap hs
  | swapComplete _ => exact keep_execSwapComplete hs
  | strandProgramDone _ _ _ => exact keep_execStrandProgramDone hs
  | suspectReplayDone _ _ _ => exact keep_execSuspectReplayDone hs
  | recess _ => exact keep_execRecess hs
  | unitSegmentDone _ _ _ => exact keep_execUnitSegmentDone hs
  | recessEnd _ => exact keep_execRecessEnd hs
  | barrier _ => exact keep_execBarrier hs
  | endTask _ => exact keep_execEnd hs
  | remapLoadDone _ => exact keep_execRemapLoadDone hs
  | faultRecord => exact keep_execFaultRecord hs
  | earlyBufferRelease => exact keep_execEarlyBufferRelease hs
  | nvmEntryWritten => exact keep_execNvmEntryWritten hs
  | retirementMapWritten => exact keep_execRetirementMapWritten hs
  | sramScrub _ => exact keep_execSramScrub hs
  | l2Scrub _ _ => exact keep_execL2Scrub hs
  | patrolScrub _ => exact keep_execPatrolScrub hs
  | hbmTempPoll _ => exact keep_execHbmTempPoll hs
  | bankPowerDown _ _ _ => exact keep_execBankPowerDown hs
  | bankDrainTimeout _ _ _ => exact keep_execBankDrainTimeout hs
  | weightDigestCheck => exact keep_execWeightDigestCheck hs
  | digestPassTimeout => exact keep_execDigestPassTimeout hs
  | testLaneRound _ => exact keep_execTestLaneRound hs
  | lockstepMismatch _ _ _ => exact keep_execLockstepMismatch hs
  | sequencerMismatch _ => exact keep_execSequencerMismatch hs
  | collectorMismatch => exact keep_execCollectorMismatch hs
  | phaseMismatch _ => exact keep_execPhaseMismatch hs
  | clockLoss _ => exact keep_execClockLoss hs
  | warmReset _ => exact keep_execWarmReset hs
  | powerOnStart _ => exact keep_execPowerOnStart hs
  | imageLoadWatchdog _ => exact keep_execImageLoadWatchdog hs
  | undervoltage _ => exact keep_execUndervoltage hs
  | overvoltage _ => exact keep_execOvervoltage hs
  | holdUpEnd => exact keep_execHoldUpEnd hs
  | inputWarning _ => exact keep_execInputWarning hs
  | railFault _ => exact keep_execRailFault hs
  | dieTempSample _ _ _ _ _ _ => exact keep_execDieTempSample hs
  | coolantTempSample _ => exact keep_execCoolantTempSample hs
  | pocTrip _ => exact keep_execPocTrip hs
  | pocRestore _ => exact keep_execPocRestore hs
  | safeReqAssert => exact keep_execSafeReqAssert hs
  | safeReqRelease => exact keep_execSafeReqRelease hs
  | wakeRequest => exact keep_execWakeRequest hs
  | wakeReady _ _ _ => exact keep_execWakeReady hs
  | tamperTrip _ => exact keep_execTamperTrip hs
  | cameraTrigger _ => exact keep_execCameraTrigger hs
  | frameStart _ _ _ _ _ _ => exact keep_execFrameStart hs
  | longPacket _ _ _ _ _ _ _ => exact keep_execLongPacket hs
  | frameEnd _ _ _ _ => exact keep_execFrameEnd hs
  | frameTimeout _ => exact keep_execFrameTimeout hs
  | camLinkDown _ => exact keep_execCamLinkDown hs
  | camLinkUp _ _ _ => exact keep_execCamLinkUp hs
  | ispFrameStart _ => exact keep_execIspFrameStart hs
  | ispFrameDone _ _ => exact keep_execIspFrameDone hs
  | i2cWrite _ _ _ _ _ => exact keep_execI2cWrite hs
  | i2cRead _ _ _ _ => exact keep_execI2cRead hs
  | groupOpen _ _ _ _ => exact keep_execGroupOpen hs
  | groupCommit _ _ _ _ => exact keep_execGroupCommit hs
  | i2cTransactionDone _ _ _ _ => exact keep_execI2cTransactionDone hs
  | i2cTimeout _ _ => exact keep_execI2cTimeout hs
  | psetCommit _ _ _ => exact keep_execPsetCommit hs
  | lidarDatagram _ _ _ _ _ _ => exact keep_execLidarDatagram hs
  | egoMessage _ _ _ _ => exact keep_execEgoMessage hs
  | voxelInsert => exact keep_execVoxelInsert hs
  | batchReadyDeadline _ _ => exact keep_execBatchReadyDeadline hs
  | ptpSync _ => exact keep_execPtpSync hs
  | ptpFollowUp _ => exact keep_execPtpFollowUp hs
  | ptpDelayReq _ => exact keep_execPtpDelayReq hs
  | ptpDelayResp _ => exact keep_execPtpDelayResp hs
  | ptpPdelayReq _ => exact keep_execPtpPdelayReq hs
  | ptpPdelayResp _ => exact keep_execPtpPdelayResp hs
  | ptpPdelayRespFollowUp _ => exact keep_execPtpPdelayRespFollowUp hs
  | ptpAnnounce _ => exact keep_execPtpAnnounce hs
  | ptpSyncSend => exact keep_execPtpSyncSend hs
  | ptpAnnounceSend => exact keep_execPtpAnnounceSend hs
  | ptpDelayReqSend => exact keep_execPtpDelayReqSend hs
  | syncLoss => exact keep_execSyncLoss hs
  | holdoverMax => exact keep_execHoldoverMax hs
  | lockTimeout => exact keep_execLockTimeout hs
  | jxHello _ => exact keep_execJxHello hs
  | jxHelloSend => exact keep_execJxHelloSend hs
  | jxReady _ => exact keep_execJxReady hs
  | jxReadySend => exact keep_execJxReadySend hs
  | jxArm _ => exact keep_execJxArm hs
  | armSend => exact keep_execArmSend hs
  | readyTimeout => exact keep_execReadyTimeout hs
  | armFallback => exact keep_execArmFallback hs
  | goDrive => exact keep_execGoDrive hs
  | goEdge _ => exact keep_execGoEdge hs
  | goTimeout => exact keep_execGoTimeout hs
  | goLoopCheck _ => exact keep_execGoLoopCheck hs
  | jxHeartbeat _ => exact keep_execJxHeartbeat hs
  | jxJoin _ => exact keep_execJxJoin hs
  | jxJoinSend => exact keep_execJxJoinSend hs
  | jxRefuse _ => exact keep_execJxRefuse hs
  | arpRequest _ _ _ => exact keep_execArpRequest hs
  | ethFrameDiscard _ => exact keep_execEthFrameDiscard hs
  | ethLinkDown _ _ => exact keep_execEthLinkDown hs
  | ethLinkUp _ => exact keep_execEthLinkUp hs
  | resultHello _ _ _ => exact keep_execResultHello hs
  | resultSegmentSend _ => exact keep_execResultSegmentSend hs
  | csiRecordSend _ => exact keep_execCsiRecordSend hs
  | csiOutLinkDown _ => exact keep_execCsiOutLinkDown hs
  | csiOutLinkUp _ => exact keep_execCsiOutLinkUp hs
  | stageOpen _ _ _ => exact keep_execStageOpen hs
  | stageEraseDone _ => exact keep_execStageEraseDone hs
  | stageData _ _ _ _ => exact keep_execStageData hs
  | stageCommit _ _ _ => exact keep_execStageCommit hs
  | stageCommitVerified => exact keep_execStageCommitVerified hs
  | stageAbort _ _ _ => exact keep_execStageAbort hs
  | stageSessionTimeout => exact keep_execStageSessionTimeout hs
  | replayOpen _ _ _ => exact keep_execReplayOpen hs
  | replayData _ _ _ => exact keep_execReplayData hs
  | replayBellEnd _ _ _ => exact keep_execReplayBellEnd hs
  | replayBellStart => exact keep_execReplayBellStart hs
  | replayClose _ _ _ => exact keep_execReplayClose hs
  | status _ _ => exact keep_execStatus hs
  | safeEnter _ => exact keep_execSafeEnter hs
  | reset _ _ => exact keep_execReset hs
  | safeExit _ => exact keep_execSafeExit hs
  | maintEnter _ => exact keep_execMaintEnter hs
  | park _ _ => exact keep_execPark hs
  | wake _ => exact keep_execWake hs
  | selfTest _ _ => exact keep_execSelfTest hs
  | gbRead _ _ _ => exact keep_execGbRead hs
  | attest _ => exact keep_execAttest hs
  | stage _ => exact keep_execStage hs
  | declare _ _ => exact keep_execDeclare hs
  | commandDone _ => exact keep_execCommandDone hs
  | i3cPrivateWrite _ => exact keep_execI3cPrivateWrite hs
  | cmdsetDeclare _ _ _ _ => exact keep_execCmdsetDeclare hs
  | ibiRetry => exact keep_execIbiRetry hs
  | entdaa _ => exact keep_execEntdaa hs
  | setdasa _ _ => exact keep_execSetdasa hs
  | rstdaa => exact keep_execRstdaa hs
  | enec _ => exact keep_execEnec hs
  | disec _ => exact keep_execDisec hs
  | setmwl _ => exact keep_execSetmwl hs
  | setmrl _ => exact keep_execSetmrl hs
  | getmwl => exact keep_execGetmwl hs
  | getmrl => exact keep_execGetmrl hs
  | getpid => exact keep_execGetpid hs
  | getbcr => exact keep_execGetbcr hs
  | getdcr => exact keep_execGetdcr hs
  | getstatus => exact keep_execGetstatus hs
  | getmxds => exact keep_execGetmxds hs
  | enthdr0 => exact keep_execEnthdr0 hs
  | fltHeartbeat _ _ _ => exact keep_execFltHeartbeat hs
  | fltAck _ _ _ => exact keep_execFltAck hs
  | fltSw _ _ _ => exact keep_execFltSw hs
  | fltSeverityWrite _ _ _ _ => exact keep_execFltSeverityWrite hs
  | injectMessage _ _ => exact keep_execInjectMessage hs
  | injectSram _ _ => exact keep_execInjectSram hs
  | injectHbm _ _ => exact keep_execInjectHbm hs
  | injectLockstep _ _ => exact keep_execInjectLockstep hs
  | injectSequencer _ _ => exact keep_execInjectSequencer hs
  | injectDigest _ _ => exact keep_execInjectDigest hs
  | injectTileCrc _ _ => exact keep_execInjectTileCrc hs
  | injectAlive _ _ => exact keep_execInjectAlive hs
  | pwrCtrlReset _ _ _ => exact keep_execPwrCtrlReset hs
  | pwrCtrlPark _ _ _ => exact keep_execPwrCtrlPark hs
  | strandExtendedRequest _ _ _ => exact keep_execStrandExtendedRequest hs
  | unitExtendedRequest _ _ _ => exact keep_execUnitExtendedRequest hs
  | stationExtendedRequest _ _ _ _ => exact keep_execStationExtendedRequest hs
  | fullBist _ _ => exact keep_execFullBist hs
  | calibration _ _ => exact keep_execCalibration hs
  | secAttest _ _ => exact keep_execSecAttest hs
  | signingDone _ => exact keep_execSigningDone hs
  | unlock _ _ => exact keep_execUnlock hs
  | lcTransition _ _ => exact keep_execLcTransition hs
  | advanceArb _ _ => exact keep_execAdvanceArb hs
  | arbStepDone => exact keep_execArbStepDone hs
  | ownerKey _ _ => exact keep_execOwnerKey hs
  | ocmCounterClear _ _ => exact keep_execOcmCounterClear hs
  | registerWrite _ _ _ _ _ => exact keep_execRegisterWrite hs
  | readClear _ _ _ _ => exact keep_execReadClear hs
  | loLatchRead _ _ _ => exact keep_execLoLatchRead hs
  | locketDataRead _ _ => exact keep_execLocketDataRead hs
  | debugAttach _ => exact keep_execDebugAttach hs
  | debugDetach _ => exact keep_execDebugDetach hs
  | debugHalt _ => exact keep_execDebugHalt hs
  | debugResume _ => exact keep_execDebugResume hs
  | debugAbstractCommand _ => exact keep_execDebugAbstractCommand hs
  | debugProgbufExec _ => exact keep_execDebugProgbufExec hs
  | debugTrigger _ => exact keep_execDebugTrigger hs
  | debugSysbusAccess _ _ _ _ _ => exact keep_execDebugSysbusAccess hs
  | planReloadDone _ => exact keep_execPlanReloadDone hs
  | evidenceHoldEnd _ => exact keep_execEvidenceHoldEnd hs
  | controlPairAccess _ _ _ _ _ _ => exact keep_execControlPairAccess hs
  | i3cBusError => exact keep_execI3cBusError hs
  | inputWarningClear _ => exact keep_execInputWarningClear hs
  | fullBistDone => exact keep_execFullBistDone hs
  | factoryJtagTransition _ _ _ _ _ _ => exact keep_execFactoryJtagTransition hs

end Sys2Proof.Machine
end

