-- ==== Sys2Proof/Laws/Regs.lean ====
section
/-! SUPPORT. Reading a register field after a write of a field, and a message or an event after it was sent. -/

namespace Sys2Proof.Machine
open Sys2Proof
set_option Elab.async false
set_option linter.all false

theorem bits_mod (v : Nat) {hi lo : Nat} (h : hi < 32) : bits (v % 2 ^ 32) hi lo = bits v hi lo := by
  unfold bits
  simp only [Nat.shiftRight_eq_div_pow]
  by_cases hl : lo ≤ hi + 1
  · have e : (2 : Nat) ^ 32 = 2 ^ lo * 2 ^ (32 - lo) := by rw [← Nat.pow_add]; congr 1; omega
    rw [e, Nat.mod_mul_right_div_self, Nat.mod_mod_of_dvd _ (Nat.pow_dvd_pow 2 (by omega))]
  · have e : hi + 1 - lo = 0 := by omega
    rw [e]; simp [Nat.mod_one]

/-- The parts of a word before, in and after a field, and of the word with the field written. -/
theorem setBits_parts (v hi lo x : Nat) :
    v = v % 2 ^ lo + 2 ^ lo * (2 ^ (hi + 1 - lo) * (v / 2 ^ lo / 2 ^ (hi + 1 - lo)) + v / 2 ^ lo % 2 ^ (hi + 1 - lo)) ∧
    setBits v hi lo x = v % 2 ^ lo + 2 ^ lo * (2 ^ (hi + 1 - lo) * (v / 2 ^ lo / 2 ^ (hi + 1 - lo)) + x % 2 ^ (hi + 1 - lo)) := by
  have hL : 0 < 2 ^ lo := Nat.two_pow_pos lo
  have hW : 0 < 2 ^ (hi + 1 - lo) := Nat.two_pow_pos _
  unfold setBits bits
  simp only [Nat.shiftRight_eq_div_pow]
  generalize 2 ^ lo = L at *
  generalize 2 ^ (hi + 1 - lo) = W at *
  have hv := Nat.div_add_mod v L
  have hd := Nat.div_add_mod (v / L) W
  generalize v % L = r at *
  generalize hD : v / L = d at *
  generalize d % W = b at *
  generalize d / W = c at *
  generalize x % W = y at *
  have e1 : v = r + L * (W * c + b) := by rw [hd]; omega
  refine ⟨e1, ?_⟩
  rw [e1, Nat.mul_add, Nat.mul_add, Nat.mul_comm L b, Nat.mul_comm L y]
  omega

/-- Writing a field leaves every bit outside it. -/
theorem bits_setBits_other (v x : Nat) {hi lo hi' lo' : Nat} (hlo : lo ≤ hi) (h : hi' < lo ∨ hi < lo') :
    bits (setBits v hi lo x) hi' lo' = bits v hi' lo' := by
  obtain ⟨e1, e2⟩ := setBits_parts v hi lo x
  unfold bits
  simp only [Nat.shiftRight_eq_div_pow]
  rcases h with h | h
  · by_cases hl : lo' ≤ hi'
    · have key : ∀ a, (a / 2 ^ lo') % 2 ^ (hi' + 1 - lo') = (a % 2 ^ lo / 2 ^ lo') % 2 ^ (hi' + 1 - lo') := fun a => by
        have e : (2 : Nat) ^ lo = 2 ^ lo' * 2 ^ (lo - lo') := by rw [← Nat.pow_add]; congr 1; omega
        rw [e, Nat.mod_mul_right_div_self, Nat.mod_mod_of_dvd _ (Nat.pow_dvd_pow 2 (by omega))]
      have em : setBits v hi lo x % 2 ^ lo = v % 2 ^ lo := by
        rw [e2, Nat.add_mul_mod_self_left, Nat.mod_mod]
      rw [key (setBits v hi lo x), key v, em]
    · have e : hi' + 1 - lo' = 0 := by omega
      rw [e, Nat.pow_zero, Nat.mod_one, Nat.mod_one]
  · have key : ∀ a, a / 2 ^ lo' = a / 2 ^ lo / 2 ^ (hi + 1 - lo) / 2 ^ (lo' - (hi + 1)) := fun a => by
      rw [Nat.div_div_eq_div_mul, Nat.div_div_eq_div_mul, ← Nat.pow_add, ← Nat.pow_add]
      congr 2; omega
    have hL : 0 < 2 ^ lo := Nat.two_pow_pos lo
    have hW : 0 < 2 ^ (hi + 1 - lo) := Nat.two_pow_pos _
    have em : setBits v hi lo x / 2 ^ lo / 2 ^ (hi + 1 - lo) = v / 2 ^ lo / 2 ^ (hi + 1 - lo) := by
      rw [e2, Nat.add_mul_div_left _ _ hL, Nat.div_eq_of_lt (Nat.mod_lt _ hL), Nat.zero_add, Nat.mul_add_div hW,
        Nat.div_eq_of_lt (Nat.mod_lt _ hW), Nat.add_zero]
    rw [key (setBits v hi lo x), key v, em]

/-- A field of a 32-bit register. -/
abbrev Fld.ok (f : Fld) : Prop := f.lo ≤ f.hi ∧ f.hi < 32

/-- Fields that share no bit. -/
abbrev Fld.apart (f g : Fld) : Prop := f.addr ≠ g.addr ∨ g.hi < f.lo ∨ f.hi < g.lo

theorem State.rf_wf_self {s : State} (hs : smWf regReset s.regs) {f : Fld} (hf : f.ok) (v : Nat) :
    (s.wf f v).rf f = v % 2 ^ (f.hi + 1 - f.lo) := by
  unfold State.rf
  rw [State.reg_wf hs, if_pos rfl, BitVec.toNat_ofNat, bits_mod _ hf.2, bits_setBits]

theorem State.rf_wf_apart {s : State} (hs : smWf regReset s.regs) {f g : Fld} (hf : f.ok) (hg : g.hi < 32) (h : f.apart g) (v : Nat) :
    (s.wf f v).rf g = s.rf g := by
  unfold State.rf
  rw [State.reg_wf hs]
  by_cases e : f.addr = g.addr
  · rw [if_pos e, BitVec.toNat_ofNat, bits_mod _ hg, bits_setBits_other _ _ hf.1 (h.resolve_left (fun x => x e)), e]
  · rw [if_neg e]

theorem State.rf_of_regs {s t : State} (h : t.regs = s.regs) (f : Fld) : t.rf f = s.rf f := by
  unfold State.rf; rw [State.reg_of_regs h]

theorem wf_smWf {s : State} (hs : smWf regReset s.regs) (f : Fld) (v : Nat) : smWf regReset (s.wf f v).regs := smWf_set hs _ _

end Sys2Proof.Machine
end

