-- ==== Sys2Proof/Laws/Send.lean ====
section
/-! SUPPORT. What sending a fault message can do (R338, R339), and that a denied write does no more (R368). -/

namespace Sys2Proof.Machine
open Sys2Proof
set_option Elab.async false
set_option linter.all false

theorem OnlyRegs.refl (s : State) : OnlyRegs s s := rfl

theorem OnlyRegs.trans {s t u : State} (h : OnlyRegs s t) (g : OnlyRegs t u) : OnlyRegs s u := by
  unfold OnlyRegs at *
  rw [g, h]

theorem OnlyRegs.wf {s t : State} (h : OnlyRegs s t) (f : Fld) (v : Nat) : OnlyRegs s (t.wf f v) :=
  h.trans (by unfold OnlyRegs State.wf State.setReg; rfl)

theorem OnlyRegs.bump {s t : State} (h : OnlyRegs s t) (f : Fld) (n : Nat) : OnlyRegs s (t.bump f n) := h.wf f _

theorem OnlyRegs.sameMem {s t : State} (h : OnlyRegs s t) : SameMem s t := fun k => by
  unfold State.rd
  rw [h]

theorem sendMsg_shape (s : State) (m : Msg) :
    ∃ c, s.sendMsg m = { s with coll := c } ∨ s.sendMsg m = ({ s with coll := c } : State).bump (F.FLT_SRC_CNT_MERGED m.src) 1 := by
  unfold State.sendMsg
  split
  · exact ⟨_, .inl rfl⟩
  · exact ⟨_, .inr rfl⟩

/-- A message is all a send can change: it waits at its source, or merges with the one that waits there. -/
theorem sendMsg_only (s : State) (m : Msg) : OnlyRegs s (s.sendMsg m) := by
  obtain ⟨c, h | h⟩ := sendMsg_shape s m
  · rw [h]; rfl
  · rw [h]; exact OnlyRegs.bump (t := { s with coll := c }) rfl _ _

theorem sendMsg_waits {s : State} {m : Msg} (h : smFind s.coll.pend m.src = none) : smFind (s.sendMsg m).coll.pend m.src = some m := by
  unfold State.sendMsg
  rw [h]
  dsimp only
  rw [smFind_insert, if_pos rfl]

theorem sendMsg_other (s : State) (m : Msg) {x : Nat} (hx : x ≠ m.src) : smFind (s.sendMsg m).coll.pend x = smFind s.coll.pend x := by
  unfold State.sendMsg
  split
  · dsimp only
    rw [smFind_insert, if_neg hx.symm]
  · dsimp only
    rw [State.bump_coll]
    dsimp only
    rw [smFind_insert, if_neg hx.symm]

theorem sendMsg_regs {s : State} (hs : smWf regReset s.regs) (m : Msg) : SameRegsBut s (s.sendMsg m) [A.FLT_SRC_CNT m.src] := by
  intro a ha
  obtain ⟨c, h | h⟩ := sendMsg_shape s m
  · rw [h]; rfl
  · rw [h]; exact (State.reg_wf (s := { s with coll := c }) hs _ _ a).trans (if_neg (fun e => ha (List.mem_singleton.2 e.symm)))

theorem sendMsg_smWf {s : State} (hs : smWf regReset s.regs) (m : Msg) : smWf regReset (s.sendMsg m).regs := by
  obtain ⟨c, h | h⟩ := sendMsg_shape s m
  · rw [h]; exact hs
  · rw [h]; exact wf_smWf (s := { s with coll := c }) hs _ _

theorem send_only (s : State) (src : Nat) (k : Kind) (a : Nat) : OnlyRegs s (s.send src k a) := sendMsg_only _ _

theorem send_sent (s : State) (src : Nat) (k : Kind) (a : Nat) : SentMsg s (s.send src k a) src k a :=
  fun h => sendMsg_waits (m := { src := src, kind := k.code, addr := a % 2 ^ 40, merges := 0, injected := false, ev := 0, evBytes := 0, detail := [] }) h

theorem send_other (s : State) (src : Nat) (k : Kind) (a : Nat) {x : Nat} (hx : x ≠ src) :
    smFind (s.send src k a).coll.pend x = smFind s.coll.pend x := sendMsg_other _ _ hx

theorem send_regs {s : State} (hs : smWf regReset s.regs) (src : Nat) (k : Kind) (a : Nat) :
    SameRegsBut s (s.send src k a) [A.FLT_SRC_CNT src] := sendMsg_regs hs _

theorem send_smWf {s : State} (hs : smWf regReset s.regs) (src : Nat) (k : Kind) (a : Nat) : smWf regReset (s.send src k a).regs :=
  sendMsg_smWf hs _

/-- A message sent after nothing but register writes. -/
theorem SentMsg.of {s t u : State} {src : Nat} {k : Kind} {a : Nat} (h : SentMsg t u src k a) (e : t.coll.pend = s.coll.pend) :
    SentMsg s u src k a := fun hn => h (by rw [e]; exact hn)

/-- A denied write changes nothing but the message it sends. -/
theorem deny_denied {s : State} (hs : smWf regReset s.regs) (r : Requester) (a : Nat) : Denied s (s.deny r a) r a :=
  ⟨send_sent _ _ _ _, send_only _ _ _ _, fun b hb => send_regs hs _ _ _ b (fun h => hb (List.mem_singleton.1 h))⟩

/-- A field of a register that a list of writes leaves out. -/
theorem SameRegsBut.rf {s t : State} {l : List Nat} (h : SameRegsBut s t l) {f : Fld} (hf : f.addr ∉ l) : t.rf f = s.rf f := by
  unfold State.rf
  rw [h _ hf]

theorem wf_regs {s : State} (hs : smWf regReset s.regs) (f : Fld) (v : Nat) : SameRegsBut s (s.wf f v) [f.addr] := fun a ha => by
  rw [State.reg_wf hs, if_neg (fun e => ha (List.mem_singleton.2 e.symm))]

/-- A field write after an update that leaves the registers alone. -/
theorem wf_regs_of {s t : State} (hs : smWf regReset s.regs) (e : t.regs = s.regs) (f : Fld) (v : Nat) : SameRegsBut s (t.wf f v) [f.addr] :=
  fun a ha => by
    rw [wf_regs (by rw [e]; exact hs) f v a ha]
    exact State.reg_of_regs e a

theorem SameRegsBut.trans {s t u : State} {l l' : List Nat} (h : SameRegsBut s t l) (g : SameRegsBut t u l') : SameRegsBut s u (l ++ l') :=
  fun a ha => (g a (fun x => ha (List.mem_append_right _ x))).trans (h a (fun x => ha (List.mem_append_left _ x)))

theorem SameRegsBut.mono {s t : State} {l l' : List Nat} (h : SameRegsBut s t l) (hl : ∀ a ∈ l, a ∈ l') : SameRegsBut s t l' :=
  fun a ha => h a (fun x => ha (hl a x))

end Sys2Proof.Machine
end

