-- ==== Sys2Proof/Laws/Timetable.lean ====
section
/-! SUPPORT. What issuing an instruction, reading good memory and letting time pass can do. -/

namespace Sys2Proof.Machine
open Sys2Proof
set_option Elab.async false
set_option linter.all false

/-- The bell number's roll touches the collector and what sending a message touches, only. -/
theorem rollBell_frame {α : Type} (g : State → α) (hc : ∀ s c b, g { s with coll := c, tsu := { s.tsu with rateWarned := b } } = g s)
    (hm : ∀ (s : State) src k a, g (s.send src k a) = g s) (s : State) : g s.rollBell = g s := by
  unfold State.rollBell
  extract_lets n ms lost c u s1 s2
  have h1 : g s1 = g s := hc _ _ _
  have h2 : g s2 = g s := by
    unfold s2
    split
    · exact h1
    · rw [hm, h1]
  split
  · rfl
  · split
    · exact h2
    · rw [hm, h2]

theorem State.rollBell_same (s : State) : s.rollBell.mem = s.mem ∧ s.rollBell.ecc = s.ecc ∧ s.rollBell.memc = s.memc ∧ s.rollBell.tt = s.tt ∧
    s.rollBell.now = s.now ∧ s.rollBell.bell = s.bell ∧ s.rollBell.pstate = s.pstate ∧ s.rollBell.image = s.image ∧ s.rollBell.inj = s.inj ∧ s.rollBell.jx = s.jx :=
  ⟨rollBell_frame (fun s => s.mem) (fun _ _ _ => rfl) (by simp) s, rollBell_frame (fun s => s.ecc) (fun _ _ _ => rfl) (by simp) s,
   rollBell_frame (fun s => s.memc) (fun _ _ _ => rfl) (by simp) s, rollBell_frame (fun s => s.tt) (fun _ _ _ => rfl) (by simp) s,
   rollBell_frame (fun s => s.now) (fun _ _ _ => rfl) (by simp) s, rollBell_frame (fun s => s.bell) (fun _ _ _ => rfl) (by simp) s,
   rollBell_frame (fun s => s.pstate) (fun _ _ _ => rfl) (by simp) s, rollBell_frame (fun s => s.image) (fun _ _ _ => rfl) (by simp) s,
   rollBell_frame (fun s => s.inj) (fun _ _ _ => rfl) (by simp) s,
   rollBell_frame (fun s => s.jx) (fun _ _ _ => rfl) (by simp) s⟩

theorem State.advance_same (s : State) (k : Nat) : (s.advance k).mem = s.mem ∧ (s.advance k).ecc = s.ecc ∧ (s.advance k).memc = s.memc ∧
    (s.advance k).tt = s.tt ∧ (s.advance k).bell = s.bell ∧ (s.advance k).pstate = s.pstate ∧ (s.advance k).image = s.image ∧
    (s.advance k).inj = s.inj ∧ (s.advance k).jx = s.jx := by
  unfold State.advance
  split
  · exact ⟨rfl, rfl, rfl, rfl, rfl, rfl, rfl, rfl, rfl⟩
  · have h := State.rollBell_same { s with now := s.now + k, tsu := s.tsu.advance s.rate k }
    exact ⟨h.1, h.2.1, h.2.2.1, h.2.2.2.1, h.2.2.2.2.2.1, h.2.2.2.2.2.2.1, h.2.2.2.2.2.2.2.1, h.2.2.2.2.2.2.2.2.1, h.2.2.2.2.2.2.2.2.2⟩

theorem State.advanceTo_same (s : State) (t : Nat) : (s.advanceTo t).mem = s.mem ∧ (s.advanceTo t).ecc = s.ecc ∧
    (s.advanceTo t).memc = s.memc ∧ (s.advanceTo t).tt = s.tt ∧ (s.advanceTo t).bell = s.bell ∧ (s.advanceTo t).pstate = s.pstate ∧
    (s.advanceTo t).image = s.image ∧ (s.advanceTo t).inj = s.inj ∧ (s.advanceTo t).jx = s.jx := State.advance_same s _

/-- Time reaches the tick it passes to, outside OFF. -/
theorem State.advanceTo_now {s : State} (h : s.pstate ≠ .off) (t : Nat) : (s.advanceTo t).now = max s.now t := by
  unfold State.advanceTo State.advance
  rw [if_neg h, (State.rollBell_same _).2.2.2.2.1]
  dsimp only
  omega

/-- Every register below the fault counters is unchanged, and the register storage is in its canonical form. -/
structure Low (s t : State) : Prop where
  wfr : smWf regReset t.regs
  low : ∀ a, a < 0x2000032000 → t.reg a = s.reg a

theorem tt_above (b p : Nat) (h : 0x2000032000 ≤ b) : 0x2000032000 ≤ b + 1048576 * p := Nat.le_add_right_of_le h

theorem Low.refl {s : State} (h : smWf regReset s.regs) : Low s s := ⟨h, fun _ _ => rfl⟩

theorem Low.of {s t u : State} (h : Low s t) (e : u.regs = t.regs) : Low s u :=
  ⟨e ▸ h.wfr, fun a ha => (State.reg_of_regs e a).trans (h.low a ha)⟩

theorem Low.wf {s t : State} (h : Low s t) {f : Fld} (hf : 0x2000032000 ≤ f.addr) (v : Nat) : Low s (t.wf f v) :=
  ⟨wf_smWf h.wfr f v, fun a ha => by rw [State.reg_wf h.wfr, if_neg (by omega)]; exact h.low a ha⟩

theorem Low.bump {s t : State} (h : Low s t) {f : Fld} (hf : 0x2000032000 ≤ f.addr) (n : Nat) : Low s (t.bump f n) := h.wf hf _

theorem Low.send {s t : State} (h : Low s t) (src : Nat) (k : Kind) (a : Nat) : Low s (t.send src k a) := by
  unfold State.send State.sendMsg
  dsimp only
  split
  · exact h.of rfl
  · refine Low.bump ?_ (Nat.le_add_right _ _) 1
    exact h.of rfl

theorem Low.rollBell {s t : State} (h : Low s t) : Low s t.rollBell := by
  unfold State.rollBell
  extract_lets n ms lost c u s1 s2
  have h1 : Low s s1 := h.of rfl
  have h2 : Low s s2 := by
    unfold s2
    split
    · exact h1
    · exact h1.send _ _ _
  split
  · exact h
  · split
    · exact h2
    · exact h2.send _ _ _

theorem Low.advance {s t : State} (h : Low s t) (k : Nat) : Low s (t.advance k) := by
  unfold State.advance
  split
  · exact h
  · refine Low.rollBell ?_
    exact h.of rfl

theorem tt_late (p : Nat) : 0x2000032000 ≤ (F.TT_FLT_CNT_LATE p).addr := tt_above 0x2010004020 p (by decide)
theorem tt_pc (p : Nat) : 0x2000032000 ≤ (F.TT_PC_PC p).addr := tt_above 0x2010004010 p (by decide)
theorem tt_kind (p : Nat) : 0x2000032000 ≤ (F.TT_LAST_FLT_KIND p).addr := tt_above 0x2010004024 p (by decide)
theorem tt_task (p : Nat) : 0x2000032000 ≤ (F.TT_LAST_FLT_TASK p).addr := tt_above 0x2010004024 p (by decide)
theorem tt_cyc (p : Nat) : 0x2000032000 ≤ (F.TT_LAST_CYC_CYCLE p).addr := tt_above 0x2010004028 p (by decide)

theorem Low.ttFault {s t : State} (h : Low s t) (p : Nat) (k : Kind) (x c : Nat) : Low s (t.ttFault p k x c) :=
  ((h.wf (tt_kind p) _).wf (tt_task p) _).wf (tt_cyc p) _

theorem Low.addCard {s t : State} (h : Low s t) (a b c : Nat) (d : List Byte) : Low s (t.addCard a b c d) := h.of rfl

theorem Low.phys {s t : State} (h : Low s t) {n : Nat} (hn : n < 64) : t.phys n = s.phys n := by
  have e := h.low (F.CHIP_REMAP_PHYS n).addr (by unfold F.CHIP_REMAP_PHYS A.CHIP_REMAP; dsimp only; omega)
  unfold State.phys State.rf
  exact congrArg (fun w => bits (BitVec.toNat w) _ _) e

theorem smGetList_of_eq {d : Nat → Byte} {m m' : List Host.Cell} (h : m = m') (k n : Nat) : smGetList d m k n = smGetList d m' k n := by rw [h]

theorem State.rdN_of_mem {s t : State} (h : t.mem = s.mem) (k n : Nat) : t.rdN k n = s.rdN k n := by unfold State.rdN; rw [h]
theorem State.rdLe_of_mem {s t : State} (h : t.mem = s.mem) (k n : Nat) : t.rdLe k n = s.rdLe k n := by
  unfold State.rdLe; rw [State.rdN_of_mem h]
theorem State.dir_of_mem {s t : State} (h : t.mem = s.mem) (p o : Nat) : t.dir p o = s.dir p o := by
  unfold State.dir; rw [State.rdLe_of_mem h]
theorem State.insWord_of_mem {s t : State} (h : t.mem = s.mem) (p i : Nat) : t.insWord p i = s.insWord p i := by
  unfold State.insWord State.insKey; rw [State.rdLe_of_mem h, State.dir_of_mem h]

/-- With no bad word and every bank on, a read answers the stored bytes and changes nothing. -/
theorem State.load_good {s : State} (he : s.ecc = []) (hb : s.memc.bankOff = []) (code : Bool) (req k n : Nat) :
    s.load code req k n = (s.rdN k n, true, s) := by
  have h1 : ∀ a b, s.eccIn a b = [] := fun a b => by unfold State.eccIn; rw [he]; rfl
  have h2 : s.offBanks k n = [] := by unfold State.offBanks; rw [hb]; rfl
  unfold State.load
  rw [h1, h2]
  rfl

theorem State.loadCode_good {s : State} (he : s.ecc = []) (hb : s.memc.bankOff = []) (n k len : Nat) :
    s.loadCode n k len = (some (s.rdN k len), s) := by
  unfold State.loadCode
  rw [State.load_good he hb]
  rfl

/-- What an issue leaves: memory, check bits, banks, bell and operations as they were, with the instruction's place in the list passed. -/
structure Issued (s t : State) (n : Nat) : Prop where
  mem : t.mem = s.mem
  ecc : t.ecc = s.ecc
  memc : t.memc = s.memc
  jobs : t.tt.jobs = s.tt.jobs
  tt : t.tt = { s.tt with seqs := t.tt.seqs }
  bell : t.bell = s.bell
  pstate : t.pstate = s.pstate
  image : t.image = s.image
  inj : t.inj = s.inj
  jx : t.jx = s.jx
  low : smWf regReset s.regs → Low s t

theorem Issued.setSeq {s t : State} {n m : Nat} {f : Seq → Seq} (h : Issued s t n) : Issued s (t.setSeq m f) n :=
  ⟨h.mem, h.ecc, h.memc, h.jobs, by have := h.tt; unfold State.setSeq; dsimp only; rw [this], h.bell, h.pstate, h.image, h.inj, h.jx,
   fun hw => (h.low hw).of rfl⟩

theorem Issued.wf {s t : State} {n : Nat} {f : Fld} {v : Nat} (h : Issued s t n) (hf : 0x2000032000 ≤ f.addr) : Issued s (t.wf f v) n :=
  ⟨by rw [State.wf_mem]; exact h.mem, by rw [State.wf_ecc]; exact h.ecc, by rw [State.wf_memc]; exact h.memc,
   by rw [State.wf_tt]; exact h.jobs, by rw [State.wf_tt]; exact h.tt, by rw [State.wf_bell]; exact h.bell,
   by rw [State.wf_pstate]; exact h.pstate, by rw [State.wf_image]; exact h.image, by rw [State.wf_inj]; exact h.inj,
   by rw [State.wf_jx]; exact h.jx,
   fun hw => (h.low hw).wf hf _⟩

/-- A word that is next issues when its unit takes it (R43). -/
theorem issue_next {s : State} {n w i : Nat} (h : s.Next n w i) {ok : Nat → Bool} (hok : ok w = true) :
    ∃ t, s.issue n ok = (some (w, s.insWord (s.phys n) (i + 1), i), t) ∧ Issued s t n ∧
      t.tt.seqs = s.tt.seqs.modify n (fun q => { q with lastIssue := t.now }) ∧
      (smWf regReset s.regs → t.rf (F.TT_PC_PC (s.phys n)) = (i + if insOp w = 0x08 then 2 else 1) % 2 ^ 24) := by
  have hg : (!s.seqRuns n || !ok (s.insWord (s.phys n) i) || decide (s.dir (s.phys n) 4 ≤ i)) = false := by
    rw [h.runs, h.word, hok]
    simp [h.count]
  unfold State.issue
  dsimp only
  rw [h.pc, hg, if_neg Bool.false_ne_true]
  have ha := State.advanceTo_same s (max (s.bell.start + 2 * insAt (s.insWord (s.phys n) i)) (s.seqOf n).lastIssue)
  have hl : smWf regReset s.regs → Low s (s.advanceTo (max (s.bell.start + 2 * insAt (s.insWord (s.phys n) i)) (s.seqOf n).lastIssue)) :=
    fun hw => (Low.refl hw).advance _
  generalize s.advanceTo (max (s.bell.start + 2 * insAt (s.insWord (s.phys n) i)) (s.seqOf n).lastIssue) = a at ha hl ⊢
  obtain ⟨hm, he, hc, ht, hb, hp, hi, hj, hx⟩ := ha
  rw [State.loadCode_good (he.trans h.good) (by rw [hc]; exact h.on)]
  have h0 : Issued s a n := ⟨hm, he, hc, by rw [ht], by rw [ht], hb, hp, hi, hj, hx, hl⟩
  dsimp only
  rw [h.word]
  have h1 : ∀ x : Kind, Issued s ((((a.bump (F.TT_FLT_CNT_LATE (s.phys n)) 1).ttFault (s.phys n) x (insTask w) (insAt w)).addCard 7 n 0
      (leBytes 1 x.code)).send (srcSeq (s.phys n)) x (taskAddr (insTask w) (insAt w))) n := fun x => by
    constructor
    case low => exact fun hw => ((((hl hw).bump (tt_late _) 1).ttFault _ _ _ _).addCard _ _ _ _).send _ _ _
    all_goals unfold State.ttFault State.addCard; simp [hm, he, hc, ht, hb, hp, hi, hj, hx]
  have h2 : Issued s (if decide (insAt w < a.cycle) = true then (((a.bump (F.TT_FLT_CNT_LATE (s.phys n)) 1).ttFault (s.phys n) .LATE_ISSUE (insTask w)
      (insAt w)).addCard 7 n 0 (leBytes 1 Kind.LATE_ISSUE.code)).send (srcSeq (s.phys n)) .LATE_ISSUE (taskAddr (insTask w) (insAt w)) else a) n := by
    split
    · exact h1 _
    · exact h0
  have hseq : (if decide (insAt w < a.cycle) = true then (((a.bump (F.TT_FLT_CNT_LATE (s.phys n)) 1).ttFault (s.phys n) .LATE_ISSUE (insTask w)
      (insAt w)).addCard 7 n 0 (leBytes 1 Kind.LATE_ISSUE.code)).send (srcSeq (s.phys n)) .LATE_ISSUE (taskAddr (insTask w) (insAt w)) else a).tt.seqs
      = s.tt.seqs := by
    unfold State.ttFault State.addCard
    split <;> simp [ht]
  generalize (if decide (insAt w < a.cycle) = true then (((a.bump (F.TT_FLT_CNT_LATE (s.phys n)) 1).ttFault (s.phys n) .LATE_ISSUE (insTask w)
      (insAt w)).addCard 7 n 0 (leBytes 1 Kind.LATE_ISSUE.code)).send (srcSeq (s.phys n)) .LATE_ISSUE (taskAddr (insTask w) (insAt w)) else a) = b at h2 hseq ⊢
  have h3 : Issued s ((b.setSeq n (fun q => { q with lastIssue := b.now })).wf (F.TT_PC_PC (s.phys n)) (i + (if insOp w = 0x08 then 2 else 1))) n :=
    h2.setSeq.wf (tt_pc _)
  refine ⟨_, ?_, h3, ?_, fun hw => State.rf_wf_self (h2.setSeq.low hw).wfr ⟨Nat.zero_le _, show 23 < 32 by decide⟩ _⟩
  · rw [State.insWord_of_mem h3.mem]
  · rw [State.wf_tt, State.wf_now]
    unfold State.setSeq
    dsimp only
    rw [hseq]

end Sys2Proof.Machine
end

