-- ==== Sys2Proof/Tests/Slice0.lean ====
section
/-! SUPPORT. Witnesses of the statements' hypotheses, ill-formed operands that WellFormed refuses, and small tests. -/

namespace Sys2Proof.Tests
open Sys2Proof Sys2Proof.Machine

set_option Elab.async false

/-! ### Small states -/

/-- Soundness of a concrete state, as a check that evaluates. -/
def soundB (s : State) : Bool :=
  smWfB regReset s.regs && Memory.wf s.mem && smWfB (fun _ => 0) s.ecc && s.tt.seqs.length == 64 && s.jx.peers.length == 4 &&
    s.harts.length == 3 && s.cams.length == 16 && s.pipes.length == 4 && s.sieve.gens.length == 8 && s.emit.queues.length == 36 &&
    s.sec.keys.length == 4 && decide (s.tsu.sec < 2 ^ 48) && decide (s.tsu.ns < 1000000000) && decide (s.tsu.frac < 4294967296)

theorem sound {s : State} (h : soundB s = true) : s.Sound := by
  simp only [soundB, Bool.and_eq_true, beq_iff_eq, decide_eq_true_eq] at h
  obtain ⟨⟨⟨⟨⟨⟨⟨⟨⟨⟨⟨⟨⟨h1, h2⟩, h3⟩, h4⟩, h5⟩, h6⟩, h7⟩, h8⟩, h9⟩, h10⟩, h11⟩, h12⟩, h13⟩, h14⟩ := h
  exact ⟨(smWfB_iff _).1 h1, h2, (smWfB_iff _).1 h3, h4, h5, h6, h7, h8, h9, h10, h11, h12, h13, h14⟩

/-- Bytes with little-endian fields: offset, size, value. -/
def flds (n : Nat) (l : List (Nat × Nat × Nat)) : List Byte :=
  (List.range n).map (fun i => match l.find? (fun f => decide (f.1 ≤ i) && decide (i < f.1 + f.2.1)) with
    | some f => BitVec.ofNat 8 (f.2.2 / 256 ^ (i - f.1))
    | none => 0)

/-- A loaded record. -/
def rec1 (typ : Nat) (b : List Byte) : ImgRec := { typ := typ, idx := 0, dest := 0, bytes := b }

/-- The TIME record: a 10 ms bell, slave port 0, GM port 1, a profile. -/
def timeRec (profile : Nat) : ImgRec := rec1 recTime (flds 120 [(10, 4, 10000000), (14, 1, 1), (15, 1, 2), (16, 1, profile)])

/-- The JEXONG record: module m of n. -/
def jxRec (m n : Nat) : ImgRec := rec1 recJexong (flds 16 [(0, 1, m), (1, 1, n)])

/-- In RUN, with a bell. -/
def running : State :=
  { State.reset with pstate := .run, image := [timeRec 1, jxRec 0 1, rec1 recHeader (flds 128 [(0, 4, 1000)])],
                     bell := { Bell.reset with running := true, n := 5, nextB := 60000000, hb := [5] } }

/-- Core 0 runs a list whose first word has an op, a unit and other bits, with one operand descriptor of a form. -/
def coreAt (op unit form : Nat) (x : Nat := 0) : State :=
  ((({ running with tt := { running.tt with seqs := running.tt.seqs.modify 0 (fun q => { q with runs := true }) } }.wf (F.CHIP_REMAP_PHYS 0) 0).wf
    (F.TT_STATUS_RUNNING 0) 1).wrN (keyDesk 0 0) (flds 20 [(0, 4, 0x100), (4, 4, 2), (8, 4, 0x200), (16, 4, 0x300)])).wrN (keyDesk 0 0x100)
      (leBytes 16 (op * 2 ^ 120 + unit * 2 ^ 40 + x)) |>.wrN (keyDesk 0 0x300) [BitVec.ofNat 8 form]

/-- The word of `coreAt`. -/
def coreWord (op unit : Nat) (x : Nat := 0) : Nat := op * 2 ^ 120 + unit * 2 ^ 40 + x

/-- A word is next, as a check that evaluates. -/
def nextB (s : State) (n w i : Nat) : Bool :=
  s.seqRuns n && decide (s.rf (F.TT_PC_PC (s.phys n)) = i) && decide (i < s.dir (s.phys n) 4) && decide (s.insWord (s.phys n) i = w) &&
    decide (s.ecc = []) && decide (s.memc.bankOff = [])

theorem next_of {s : State} {n w i : Nat} (h : nextB s n w i = true) : s.Next n w i := by
  simp only [nextB, Bool.and_eq_true, decide_eq_true_eq] at h
  exact ⟨h.1.1.1.1.1, h.1.1.1.1.2, h.1.1.1.2, h.1.1.2, h.1.2, h.2⟩

/-- An operation in progress. -/
def job (k : JobKind) (unit : Nat) : Job :=
  { kind := k, core := 0, unit := unit, task := 0, at0 := 0, due := 10, instr := 0, idx := 0, deadline := 100, desc := flds 32 [(16, 2, 4)], outs := [] }

def withJob (k : JobKind) (unit : Nat) : State := { running with tt := { running.tt with jobs := [job k unit] } }

/-- Core 0 is next at an STA to a station, with one record of the current plan. -/
def station (unit typ size v : Nat) (x : Nat := 0) : State :=
  have s := coreAt 0x20 unit 0 x
  { s with image := s.image ++ [rec1 typ (flds size [(0, 1, v)])] }

/-! ### Witnesses: the queue, reset, memory and time -/

theorem wit_StepRunsFrontCommand : ∃ (c : Instr) (rest : List Instr) (s : State), s.pending = c :: rest :=
  ⟨.getbcr, [], { State.reset with pending := [.getbcr] }, rfl⟩

theorem wit_StepKeepsSound : ∃ s t : State, s.Sound ∧ step s = .next t := ⟨State.reset, _, sound (by decide +kernel), rfl⟩

theorem wit_CommandsLeaveTheQueue : ∃ (c : Instr) (s t : State), s.Sound ∧ exec c s = .next t ∧ s.pending = [.getdcr] :=
  ⟨.getbcr, { State.reset with pending := [.getdcr] }, _, sound (by decide +kernel), rfl, rfl⟩

theorem wit_IdleStepIsOneTimeEdge : ∃ s : State, s.Sound ∧ s.pending = [] ∧ s.pstate ≠ .off ∧ -2147483 ≤ s.rate ∧ s.rate ≤ 2147483 :=
  ⟨State.reset, sound (by decide +kernel), by decide +kernel⟩

theorem wit_IdleStepIsOneTimeEdge_fastest : ∃ s : State, s.Sound ∧ s.pending = [] ∧ s.pstate ≠ .off ∧ s.rate = 2147483 :=
  ⟨State.reset.wf F.TSU_RATE_RATE 2147483, sound (by decide +kernel), by decide +kernel⟩

theorem wit_MemoryReadsBackWrites : ∃ s : State, Memory.wf s.mem = true ∧ s.mem ≠ [] := ⟨State.reset.wrN 5 [1], by decide +kernel⟩

/-! ### Witnesses: the timetable -/

theorem wit_MoveStartsItsTransfer : ∃ (s : State) (w : Nat), s.Sound ∧ s.Next 0 w 0 ∧ insOp w = 0x08 ∧ s.unitBusy (insArg w 55 40) = false :=
  ⟨coreAt 0x08 0x4000 0, coreWord 0x08 0x4000, sound (by decide +kernel), next_of (by decide +kernel), by decide +kernel⟩

theorem wit_SequencerKeeps_taskBegin : ∃ (s : State) (w : Nat), s.Sound ∧ s.Next 0 w 0 ∧ insOp w = 0x01 :=
  ⟨coreAt 0x01 0 0, coreWord 0x01 0, sound (by decide +kernel), next_of (by decide +kernel), by decide +kernel⟩

theorem wit_SequencerKeeps_barrier : ∃ (s : State) (w : Nat), s.Sound ∧ s.Next 0 w 0 ∧ insOp w = 0x38 :=
  ⟨coreAt 0x38 0xFF00 0, coreWord 0x38 0xFF00, sound (by decide +kernel), next_of (by decide +kernel), by decide +kernel⟩

theorem wit_SequencerKeeps_digest : ∃ (s : State) (w : Nat), s.Sound ∧ s.Next 0 w 0 ∧ insOp w = 0x28 ∧ insArg w 55 48 ∉ s.tt.judged ∧ 0 ∉ s.inj.digest :=
  ⟨coreAt 0x28 0xFF00 0, coreWord 0x28 0xFF00, sound (by decide +kernel), next_of (by decide +kernel), by decide +kernel⟩

theorem wit_EndStopsTheSequencer : ∃ (s : State) (w : Nat), s.Sound ∧ s.Next 0 w 0 ∧ insOp w = 0xFF ∧ ∀ j ∈ s.tt.jobs, j.core ≠ 0 :=
  ⟨coreAt 0xFF 0 0, coreWord 0xFF 0, sound (by decide +kernel), next_of (by decide +kernel), by decide +kernel⟩

theorem wit_BudgetReportsARunawayTask : ∃ (s : State) (c : Task), s.Sound ∧
    (s.seqOf 63).tasks.find? (fun t => t.task == 255 && !t.stopped && !t.sent) = some c :=
  ⟨{ running with tt := { running.tt with seqs := running.tt.seqs.modify 63 (fun q =>
      { q with tasks := [{ task := 255, start := 0, budget := 1, stopped := false, sent := false }] }) } },
    { task := 255, start := 0, budget := 1, stopped := false, sent := false }, sound (by decide +kernel), by decide +kernel⟩

theorem wit_TransfersFreeTheirMover : ∃ (s : State) (j : Job), s.jobAt 0x4000 = some j ∧ j.kind = .move ∧ j.due + 2 * 45 ≤ j.deadline ∧ 3 < leAt j.desc 16 2 :=
  ⟨withJob .move 0x4000, job .move 0x4000, by decide +kernel⟩

/-! ### Witnesses: engines and stations -/

theorem wit_EnginesAndVectorStart : ∀ x ∈ [(0x10, 0), (0x10, 1), (0x11, 2), (0x18, 0)], ∃ (s : State) (w : Nat), s.Sound ∧ s.Next 0 w 0 ∧
    s.unitBusy (insArg w 55 40) = false ∧ insOp w = x.1 ∧ s.opdForm (s.phys 0) w = x.2 := by
  have h : ∀ x ∈ [(0x10, 0), (0x10, 1), (0x11, 2), (0x18, 0)], (soundB (coreAt x.1 0 x.2) && nextB (coreAt x.1 0 x.2) 0 (coreWord x.1 0) 0) = true ∧
    (coreAt x.1 0 x.2).unitBusy (insArg (coreWord x.1 0) 55 40) = false ∧ insOp (coreWord x.1 0) = x.1 ∧
    (coreAt x.1 0 x.2).opdForm ((coreAt x.1 0 x.2).phys 0) (coreWord x.1 0) = x.2 := by decide +kernel
  intro x hx
  have g := h x hx
  have b := Bool.and_eq_true_iff.1 g.1
  exact ⟨_, _, sound b.1, next_of b.2, g.2⟩

/-- A station's STA is next. -/
def staB (s : State) (unit : Nat) (x : Nat := 0) : Bool :=
  soundB s && nextB s 0 (coreWord 0x20 unit x) 0 && !s.unitBusy (insArg (coreWord 0x20 unit x) 55 40) && decide (insOp (coreWord 0x20 unit x) = 0x20)

theorem sta_of {s : State} {unit x : Nat} (h : staB s unit x = true) : s.Sound ∧ s.Next 0 (coreWord 0x20 unit x) 0 ∧
    s.unitBusy (insArg (coreWord 0x20 unit x) 55 40) = false ∧ insOp (coreWord 0x20 unit x) = 0x20 := by
  simp only [staB, Bool.and_eq_true, decide_eq_true_eq, Bool.not_eq_true'] at h
  exact ⟨sound h.1.1.1, next_of h.1.1.2, h.1.2, h.2⟩

theorem wit_StationsStart_codec : ∀ v ∈ [1, 2], ∃ (s : State) (w : Nat), (s.Sound ∧ s.Next 0 w 0 ∧ s.unitBusy (insArg w 55 40) = false ∧ insOp w = 0x20) ∧
    stKind (insArg w 55 40) = 6 ∧ leAt (s.codecDesc w) 0 1 = v := by
  have h : ∀ v ∈ [1, 2], staB (station 0x6000 recCodec 32 v) 0x6000 = true ∧ stKind (insArg (coreWord 0x20 0x6000) 55 40) = 6 ∧
    leAt ((station 0x6000 recCodec 32 v).codecDesc (coreWord 0x20 0x6000)) 0 1 = v := by decide +kernel
  exact fun v hv => ⟨_, _, sta_of (h v hv).1, (h v hv).2⟩

theorem wit_StationsStart_detect : ∀ v ∈ [0, 1, 2, 3, 4, 5, 6], ∃ (s : State) (w : Nat),
    (s.Sound ∧ s.Next 0 w 0 ∧ s.unitBusy (insArg w 55 40) = false ∧ insOp w = 0x20) ∧ stKind (insArg w 55 40) = 8 ∧ leAt (s.detDesc w) 0 1 = v := by
  have h : ∀ v ∈ [0, 1, 2, 3, 4, 5, 6], staB (station 0x8000 recDetect 64 v) 0x8000 = true ∧ stKind (insArg (coreWord 0x20 0x8000) 55 40) = 8 ∧
    leAt ((station 0x8000 recDetect 64 v).detDesc (coreWord 0x20 0x8000)) 0 1 = v := by decide +kernel
  exact fun v hv => ⟨_, _, sta_of (h v hv).1, (h v hv).2⟩

theorem wit_StationsStart_attend : ∀ v ∈ [0, 1, 2, 3], ∃ (s : State) (w : Nat),
    (s.Sound ∧ s.Next 0 w 0 ∧ s.unitBusy (insArg w 55 40) = false ∧ insOp w = 0x20) ∧ stKind (insArg w 55 40) = 7 ∧ s.attBusy = false ∧
    leAt (s.attDesc w) 0 1 = v := by
  have h : ∀ v ∈ [0, 1, 2, 3], staB (station 0x7000 recAttend 16 v) 0x7000 = true ∧ stKind (insArg (coreWord 0x20 0x7000) 55 40) = 7 ∧
    (station 0x7000 recAttend 16 v).attBusy = false ∧ leAt ((station 0x7000 recAttend 16 v).attDesc (coreWord 0x20 0x7000)) 0 1 = v := by decide +kernel
  exact fun v hv => ⟨_, _, sta_of (h v hv).1, (h v hv).2⟩

theorem wit_StationsStart_rubric : ∀ x ∈ [(0, false), (2 ^ 15, true)], ∃ (s : State) (w : Nat),
    (s.Sound ∧ s.Next 0 w 0 ∧ s.unitBusy (insArg w 55 40) = false ∧ insOp w = 0x20) ∧ stKind (insArg w 55 40) = 9 ∧ bitAt w 15 = x.2 := by
  have h : ∀ x ∈ [(0, false), (2 ^ 15, true)], staB (coreAt 0x20 0x9000 0 x.1) 0x9000 x.1 = true ∧ stKind (insArg (coreWord 0x20 0x9000 x.1) 55 40) = 9 ∧
    bitAt (coreWord 0x20 0x9000 x.1) 15 = x.2 := by decide +kernel
  exact fun x hx => ⟨_, _, sta_of (h x hx).1, (h x hx).2⟩

theorem wit_SwapRotatesOneStep : ∃ (s : State) (w : Nat), s.Sound ∧ s.Next 0 w 0 ∧ s.unitBusy (insArg w 55 40) = false ∧ insOp w = 0x30 :=
  ⟨coreAt 0x30 0 0, coreWord 0x30 0, sound (by decide +kernel), next_of (by decide +kernel), by decide +kernel⟩

theorem wit_CompletionsFreeTheirUnit_units : ∀ k ∈ [JobKind.mm, .ew, .swap], ∃ (s : State) (j : Job), s.Sound ∧ s.jobAt 0xFFFF = some j ∧ j.kind = k := by
  have h : ∀ k ∈ [JobKind.mm, .ew, .swap], soundB (withJob k 0xFFFF) = true ∧ (withJob k 0xFFFF).jobAt 0xFFFF = some (job k 0xFFFF) ∧ (job k 0xFFFF).kind = k := by
    decide +kernel
  exact fun k hk => ⟨_, _, sound (h k hk).1, (h k hk).2⟩

theorem wit_CompletionsFreeTheirUnit_first : ∀ k ∈ [JobKind.vec, .codec, .detect, .attend, .rubric, .emit, .recess], ∃ (s : State) (j : Job), s.Sound ∧
    s.tt.jobs.find? (fun j => j.kind == k && j.core == 0 && stLoc j.unit == 3) = some j := by
  have h : ∀ k ∈ [JobKind.vec, .codec, .detect, .attend, .rubric, .emit, .recess], soundB (withJob k 24) = true ∧
    (withJob k 24).tt.jobs.find? (fun j => j.kind == k && j.core == 0 && stLoc j.unit == 3) = some (job k 24) := by decide +kernel
  exact fun k hk => ⟨_, _, sound (h k hk).1, (h k hk).2⟩

/-! ### Witnesses: the bell and the outputs -/

theorem wit_BellEdgeStartsNextBell : ∃ s e : State, s.bellPeriod ≠ 0 ∧ s.replay = none ∧ s.pstate ≠ .off ∧ s.bell.running = true ∧
    e = (s.advanceToNs s.bell.nextB).endBell ∧ e.tsu.held = none ∧ e.flag F.PWR_STATE_MAINT_PENDING = false ∧ e.flag F.PWR_STATE_PARK_PENDING = false :=
  ⟨running, (running.advanceToNs running.bell.nextB).endBell, by decide +kernel, rfl, by decide +kernel, rfl, rfl, by decide +kernel⟩

theorem wit_HealthAndGatePoints : ∃ s t : State, s.Sound ∧ s.bell.running = true ∧ s.bell.healthDone = false ∧
    t.Sound ∧ t.bell.running = true ∧ t.bell.healthDone = true ∧ t.bell.gateDone = false :=
  ⟨running, { running with bell := { running.bell with healthDone := true, verdict := true } }, sound (by decide +kernel), rfl, rfl, sound (by decide +kernel), rfl, rfl, rfl⟩

/-- Past its health point. -/
def healthy : State := { running with bell := { running.bell with healthDone := true, verdict := true } }

theorem wit_PointsOfTheBell : healthy.Sound ∧ healthy.bell.running = true ∧ healthy.pstate ≠ .halt ∧ healthy.bell.healthDone = true ∧ healthy.bell.phase2Done = false :=
  ⟨sound (by decide +kernel), by decide +kernel⟩

theorem wit_PointsOfTheBell_heartbeat : ∃ s : State, s.Sound ∧ s.bell.running = true ∧ s.pstate ≠ .halt ∧ s.modules > 1 ∧ s.replay = none ∧
    s.bell.gateDone = true ∧ s.bell.hbDone = false :=
  ⟨{ healthy with image := [jxRec 0 2], bell := { healthy.bell with gateDone := true } }, sound (by decide +kernel), by decide +kernel⟩

theorem wit_PointsOfTheBell_reload : ∃ s : State, s.Sound ∧ s.bell.running = true ∧ s.pstate ≠ .halt ∧
    s.jx.switches.find? (fun x => x.1 == s.bell.n + 1) = some (s.bell.n + 1, 2) ∧ s.bell.healthDone = true ∧ s.bell.reloadDone = false ∧
    s.jx.reload.find? (fun x => x.1 == 63) = some (63, 2) :=
  ⟨{ healthy with jx := { healthy.jx with switches := [(6, 2)], reload := [(63, 2)] } }, sound (by decide +kernel), by decide +kernel⟩

theorem wit_PointsOfTheBell_remap : ∃ (s : State) (r : Remap), s.Sound ∧ s.bell.running = true ∧ s.pstate ≠ .halt ∧
    s.tt.remaps.find? (fun r => r.logical == 63 && !r.done) = some r :=
  ⟨{ healthy with tt := { healthy.tt with remaps := [{ logical := 63, src := 63, dst := 65, done := false, due := 0 }] } },
    { logical := 63, src := 63, dst := 65, done := false, due := 0 }, sound (by decide +kernel), by decide +kernel⟩

theorem wit_PointsOfTheBell_batch : ∃ (s : State) (b : List Byte), s.Sound ∧ s.bell.running = true ∧ s.pstate ≠ .halt ∧ s.batches[0]? = some b :=
  ⟨{ healthy with image := [rec1 recBatch (flds 48 [])] }, flds 48 [], sound (by decide +kernel), by decide +kernel⟩

theorem wit_AliveOutputs : ∃ s : State, s.Sound ∧ s.alive.starting = true ∧ s.alive.toggling = true ∧ s.alive.inject = none ∧ s.alive.driveA = false :=
  ⟨{ running with alive := { running.alive with starting := true, toggling := true } }, sound (by decide +kernel), by decide +kernel⟩

theorem wit_SafeRequestInput : ∀ p ∈ [PState.boot, .run, .safe, .halt, .maint, .park], ∃ s : State, s.Sound ∧ s.flag F.FLT_STATUS_SAFE_REQ_USED = true ∧
    s.pstate = p ∧ s.pstate ≠ .off ∧ s.safety.recovering = false := by
  have h : ∀ p ∈ [PState.boot, .run, .safe, .halt, .maint, .park], soundB ({ running with pstate := p }.wf F.FLT_STATUS_SAFE_REQ_USED 1) = true ∧
    ({ running with pstate := p }.wf F.FLT_STATUS_SAFE_REQ_USED 1).flag F.FLT_STATUS_SAFE_REQ_USED = true ∧
    ({ running with pstate := p }.wf F.FLT_STATUS_SAFE_REQ_USED 1).pstate = p ∧ ({ running with pstate := p }.wf F.FLT_STATUS_SAFE_REQ_USED 1).pstate ≠ .off ∧
    ({ running with pstate := p }.wf F.FLT_STATUS_SAFE_REQ_USED 1).safety.recovering = false := by decide +kernel
  exact fun p hp => ⟨_, sound (h p hp).1, (h p hp).2⟩

/-! ### Witnesses: faults, injection, comparators, debugger -/

theorem wit_FirmwareReportsAFault : ∃ (s : State) (v u w : BitVec 32), s.Sound ∧ s.pstate ≠ .off ∧ s.parked = false ∧ bits v.toNat 15 8 = 0xF8 ∧ bits u.toNat 15 8 = 0xFF ∧ bits w.toNat 15 8 = 0xF7 ∧
    bits u.toNat 21 16 = 63 ∧ smFind s.coll.pend (0xA00 + 63) = none :=
  ⟨running, 0xF800, 0x3FFFFF, 0xF700, sound (by decide +kernel), by decide +kernel⟩

theorem wit_SeverityTablesWrite : ∃ s t : State, s.Sound ∧ t.Sound ∧ s.pstate = .boot ∧ t.pstate = .maint ∧
    ¬ (Requester.cp1 = .cp0 ∧ true = true ∧ (s.pstate = .boot ∨ s.pstate = .maint)) ∧ running.Sound ∧
    s.pstate ≠ .off ∧ s.parked = false ∧ running.pstate ≠ .off ∧ running.parked = false ∧ ¬ (Requester.cp0 = .cp0 ∧ true = true ∧ (running.pstate = .boot ∨ running.pstate = .maint)) :=
  ⟨State.reset, { running with pstate := .maint }, sound (by decide +kernel), sound (by decide +kernel), by decide +kernel, by decide +kernel, by decide +kernel,
    sound (by decide +kernel), by decide +kernel⟩

theorem wit_HeartbeatWrite : ∃ s : State, s.Sound ∧ s.pstate ≠ .off ∧ s.parked = false ∧ s.bell.running = true ∧ s.bell.healthDone = true ∧ s.bell.gateDone = false ∧ s.bell.n % 2 ^ 32 ∉ s.bell.hb ∧
    ¬ (Requester.cp0 = .cp0 ∧ false = true) :=
  ⟨{ healthy with bell := { healthy.bell with hb := [] } }, sound (by decide +kernel), by decide +kernel⟩

theorem wit_AcknowledgeAgg : ∀ x ∈ [(PState.run, 0), (.safe, 4), (.halt, 5)], ∃ (s : State) (v w : BitVec 32), s.Sound ∧ s.pstate ≠ .off ∧ s.parked = false ∧ 
    x.2 = (if s.pstate = .safe then 4 else if s.pstate = .halt then 5 else 0) ∧ bitAt v.toNat 0 = true ∧ bitAt w.toNat 0 = false := by
  have h : ∀ x ∈ [(PState.run, 0), (.safe, 4), (.halt, 5)], soundB { running with pstate := x.1 } = true ∧ x.1 ≠ .off ∧ ({ running with pstate := x.1 } : State).parked = false ∧
    x.2 = (if x.1 = .safe then 4 else if x.1 = .halt then 5 else 0) := by decide +kernel
  exact fun x hx => ⟨_, 1, 2, sound (h x hx).1, (h x hx).2.1, (h x hx).2.2.1, (h x hx).2.2.2, by decide +kernel⟩

theorem wit_FaultInjection : ∃ s : State, s.Sound ∧ s.pstate ≠ .off ∧ s.parked = false ∧ s.rf F.SEC_STATUS_LC = 1 ∧ bits (s.rf F.FLT_INJ_ARG1_ARG) 0 0 = 0 ∧ s.pairStopped 0 = false ∧
    bits (s.rf F.FLT_INJ_ARG1_ARG) 6 0 < 66 ∧ bits (s.rf F.FLT_INJ_ARG1_ARG) 31 20 = 0x8C1 ∧ smFind s.coll.pend 0x8C1 = none :=
  ⟨(State.reset.wf F.SEC_STATUS_LC 1).wf F.FLT_INJ_ARG1_ARG 0x8C110040, sound (by decide +kernel), by decide +kernel⟩

theorem wit_FaultInjection_denied : ∃ s : State, s.Sound ∧ s.pstate ≠ .off ∧ s.parked = false ∧ ¬ (Requester.cp0 = .cp0 ∧ true = true ∧ s.rf F.SEC_STATUS_LC = 1) :=
  ⟨State.reset, sound (by decide +kernel), by decide +kernel⟩

theorem wit_ComparatorsStopTheirUnit : ∃ s : State, s.Sound ∧ s.pairStopped 0 = false ∧ s.pairStopped 1 = true ∧ s.flag F.LKS_STATUS_SPLIT = false ∧
    s.pstate ≠ .halt ∧ s.pstate ≠ .off ∧ s.pstate = .run ∧ s.rf F.LKS_LATENT_PASSES < 2 ^ 32 - 1 :=
  ⟨running.wf F.LKS_STATUS_CP1_STOP 1, sound (by decide +kernel), by decide +kernel⟩

/-- JTAG is open on every hart. -/
def debugged (attached : Bool) : State :=
  (({ running with sec := { running.sec with scope := 7 }, harts := List.replicate 3 { Hart.reset with attached := attached } }.wf F.SEC_STATUS_JTAG 1).wf
    F.LKS_STATUS_SPLIT 1)

theorem wit_DebuggerActions : ∀ a ∈ [true, false], ∀ h : Fin 3, ∃ (s : State) (x : Hart), s.Sound ∧ s.harts[h.val]? = some x ∧ s.dbgOpen h.val = true ∧
    x.attached = a ∧ x.stopped = false ∧ s.rf F.LKS_DBG_ACT_ACTIONS < 2 ^ 32 - 1 := by
  have g : ∀ a ∈ [true, false], ∀ h : Fin 3, soundB (debugged a) = true ∧ (debugged a).harts[h.val]? = some { Hart.reset with attached := a } ∧
    (debugged a).dbgOpen h.val = true ∧ ({ Hart.reset with attached := a } : Hart).attached = a ∧ ({ Hart.reset with attached := a } : Hart).stopped = false ∧
    (debugged a).rf F.LKS_DBG_ACT_ACTIONS < 2 ^ 32 - 1 := by decide +kernel
  exact fun a ha h => ⟨_, _, sound (g a ha h).1, (g a ha h).2⟩

/-! ### Witnesses: collector, stores, scrubs, temperature, banks -/

/-- A message waits. -/
def waitingMsg (p : PState) (kind : Nat) : State :=
  { running with pstate := p, coll := { running.coll with ringsOpen := true, pend := [(srcColl, plainMsg srcColl kind 0 false)] } }

theorem wit_CollectorRecordsAMessage : ∀ x ∈ [(PState.run, 134, 4), (.run, 136, 5), (.safe, 136, 5)], ∃ (s : State) (m : Msg), s.Sound ∧ s.parked = false ∧
    s.pstate ≠ .off ∧ s.rf F.LKS_STATUS_COLL_ERR = 0 ∧ s.nextPending = some m ∧ s.coll.ringsOpen = true ∧ s.pstate = x.1 ∧ (s.effective m.src m.kind).1 = x.2.2 := by
  have h : ∀ x ∈ [(PState.run, 134, 4), (.run, 136, 5), (.safe, 136, 5)], soundB (waitingMsg x.1 x.2.1) = true ∧ (waitingMsg x.1 x.2.1).parked = false ∧
    (waitingMsg x.1 x.2.1).pstate ≠ .off ∧ (waitingMsg x.1 x.2.1).rf F.LKS_STATUS_COLL_ERR = 0 ∧
    (waitingMsg x.1 x.2.1).nextPending = some (plainMsg srcColl x.2.1 0 false) ∧ (waitingMsg x.1 x.2.1).coll.ringsOpen = true ∧ (waitingMsg x.1 x.2.1).pstate = x.1 ∧
    ((waitingMsg x.1 x.2.1).effective (plainMsg srcColl x.2.1 0 false).src (plainMsg srcColl x.2.1 0 false).kind).1 = x.2.2 := by decide +kernel
  exact fun x hx => ⟨_, _, sound (h x hx).1, (h x hx).2⟩

theorem wit_CollectorRecordsAMessage_none : running.Sound ∧ running.parked = false ∧ running.pstate ≠ .off ∧ running.rf F.LKS_STATUS_COLL_ERR = 0 ∧
    running.nextPending = none := ⟨sound (by decide +kernel), by decide +kernel⟩

theorem wit_CollectorStoresAreWritten : ∃ (s : State) (e : Entry), s.Sound ∧ s.coll.ringsOpen = false ∧ 5 ≤ s.rf F.BOOT_STATUS_STEP ∧ s.parked = false ∧
    s.coll.nvmBusy = some e ∧ e.bytes.length = 256 ∧ s.coll.nvmIndex = 16383 ∧ s.rf F.FLT_PERSIST_WRITTEN < 2 ^ 16 - 1 ∧ s.tst.mapq = [1] :=
  ⟨{ State.reset with coll := { State.reset.coll with nvmBusy := some { seq := 0, sev := 4, bytes := flds 256 [] }, nvmIndex := 16383 }, tst := { State.reset.tst with mapq := [1] } }.wf F.BOOT_STATUS_STEP 5, { seq := 0, sev := 4, bytes := flds 256 [] }, sound (by decide +kernel), by decide +kernel⟩

theorem wit_CollectorStoresAreWritten_none : State.reset.Sound ∧ State.reset.coll.nvmBusy = none ∧ State.reset.tst.mapq = [] :=
  ⟨sound (by decide +kernel), by decide +kernel⟩

theorem wit_ScrubsReadEveryMemory : ∃ s : State, s.Sound ∧ s.pstate ≠ .off ∧ s.parked = false ∧ s.ecc = [] ∧ s.eccIn (keyL2 (32767 * 64)) 64 = [] ∧
    s.flag F.MEM_STATUS_TRAINED = true ∧ s.memc.patrol = 25165823 :=
  ⟨{ running with memc := { running.memc with patrol := 25165823 } }.wf F.MEM_STATUS_TRAINED 1, sound (by decide +kernel), by decide +kernel⟩

theorem wit_HbmTemperature : ∃ s : State, s.Sound ∧ s.pstate ≠ .off ∧ s.rf F.MEM_STATUS_TRAINED = 1 ∧ s.rf F.MEM_STATUS_SELF_REFRESH = 0 ∧
    s.rf F.MEM_STATUS_TEMP_STATE = 0 ∧ s.memc.tempFails = 3 :=
  ⟨{ running with memc := { running.memc with tempFails := 3 } }.wf F.MEM_STATUS_TRAINED 1, sound (by decide +kernel), by decide +kernel⟩

theorem wit_BanksAndStallCounters : ∃ s : State, s.Sound ∧ s.pstate ≠ .off ∧ s.parked = false ∧ s.memc.bankReq.any (fun r => r.1 == 255) = true ∧ smGet (fun _ => 0) s.memc.bankOut 255 = 0 ∧
    s.memc.bankReq.find? (fun r => r.1 == 255) = some (255, 0) ∧ bitAt (1 : BitVec 32).toNat 0 = true :=
  ⟨{ running with memc := { running.memc with bankReq := [(255, 0)] } }, sound (by decide +kernel), by decide +kernel⟩

theorem wit_BanksAndStallCounters_none : running.Sound ∧ running.memc.bankReq = [] := ⟨sound (by decide +kernel), by decide +kernel⟩

/-! ### Witnesses: digests, evidence, self-test -/

/-- A submission of region 7. -/
def sub (crc : Nat) : DigSub := { region := 7, run := 0, core := 0, partner := 1, at0 := 0, crc := crc, count := 1, streams := [3], recs := [] }

def subbed (l : List DigSub) : State := { running with tt := { running.tt with subs := l } }

theorem wit_DigestVerdict : (subbed []).Sound ∧ (subbed []).tt.subs.filter (fun x => x.region == 7) = [] ∧
    (subbed [sub 1, sub 1]).Sound ∧ (subbed [sub 1, sub 1]).tt.subs.filter (fun x => x.region == 7) = [sub 1, sub 1] ∧
    (subbed [sub 1, sub 2]).Sound ∧ (subbed [sub 1, sub 2]).tt.subs.filter (fun x => x.region == 7) = [sub 1, sub 2] ∧ (sub 1).crc ≠ (sub 2).crc ∧
    (subbed [sub 1]).Sound ∧ (subbed [sub 1]).tt.subs.filter (fun x => x.region == 7) = [sub 1] :=
  ⟨sound (by decide +kernel), by decide +kernel, sound (by decide +kernel), by decide +kernel, sound (by decide +kernel), by decide +kernel, by decide +kernel,
    sound (by decide +kernel), by decide +kernel⟩

/-- An event with one waiting suspect: strand 96 of core 0's engine 0, at recess. -/
def event (captured : Bool) : Evid :=
  { slot := 255, bell := 5, region := 0, coreA := 0, coreB := 1, physA := 0, physB := 1, engA := 0, engB := 0, lane := 0, instr := 0, stream := 0, tile := 0, pos := 0,
    ch := 0, groups := 0, lBytes := 0, sBytes := 0, data := [], cycles := 0, sus := [{ run := 0, phys := 0, engine := 0, strand := 96, status := 0 }], holdEnd := 100,
    captured := captured }

def withEvent (captured : Bool) : State :=
  { running with tst := { running.tst with evs := [event captured] }, engs := [(0, { ret := [], pend := [], rec0 := [96, 97, 98, 99], slots := List.range 96, entered := [] })] }

theorem wit_EvidenceAndStrandPrograms : (withEvent false).Sound ∧ (withEvent false).tst.evs.find? (fun v => v.slot == 255 && !v.captured) = some (event false) ∧
    (withEvent false).now + 100 ≤ (event false).holdEnd ∧ (withEvent false).gradebookBase ≤ 0x600000000 :=
  ⟨sound (by decide +kernel), by decide +kernel⟩

theorem wit_EvidenceAndStrandPrograms_program : ∃ s : State, s.Sound ∧ s.tst.progs.find? (fun x => x.1 == 65 * 8 + 7) = some (65 * 8 + 7, 0, false) :=
  ⟨{ running with tst := { running.tst with progs := [(65 * 8 + 7, 0, false)] } }, sound (by decide +kernel), by decide +kernel⟩

theorem wit_EvidenceAndStrandPrograms_replay : ∃ u : Sus, (withEvent true).Sound ∧
    (withEvent true).tst.evs.find? (fun v => v.slot == 255 && v.captured) = some (event true) ∧ (event true).sus[0]? = some u ∧ u.status = 0 ∧ (withEvent true).tt.jobs = [] ∧
    (withEvent true).tst.progs = [] ∧ u.strand ∈ ((withEvent true).eng u.phys u.engine).rec0 ∧ (withEvent true).fenced u.phys = false :=
  ⟨{ run := 0, phys := 0, engine := 0, strand := 96, status := 0 }, sound (by decide +kernel), by decide +kernel⟩

theorem wit_TestRequestsQueue : ∃ (s : State) (q p : TestReq), s.Sound ∧ s.regAnswers A.TST_REQ = true ∧ q.target = 65 ∧ q.kind = 0 ∧ q.detect = false ∧ q ∉ s.tst.reqs ∧
    s.tst.reqs.length < 16 ∧ p ∈ s.tst.reqs ∧ p.target = 3 ∧ p.kind = 2 ∧ p.detect = true :=
  ⟨{ running with tst := { running.tst with reqs := [{ kind := 2, target := 3, detect := true }] } }, { kind := 0, target := 65, detect := false },
    { kind := 2, target := 3, detect := true }, sound (by decide +kernel), by decide +kernel⟩

theorem wit_TestRequestsQueue_full : ∃ (s : State) (q : TestReq), s.Sound ∧ s.regAnswers A.TST_REQ = true ∧ q.target = 7 ∧ q.kind = 2 ∧ q.detect = false ∧
    q ∉ s.tst.reqs ∧ 16 ≤ s.tst.reqs.length :=
  ⟨{ running with tst := { running.tst with reqs := (List.range 16).map (fun i => { kind := 0, target := i, detect := false }) } },
    { kind := 2, target := 7, detect := false }, sound (by decide +kernel), by decide +kernel⟩

theorem wit_DestructiveTests : ∃ s t u : State, s.Sound ∧ s.regAnswers A.TST_REQ = true ∧ s.pstate = .maint ∧ s.tst.bistEnd = none ∧
    t.Sound ∧ t.regAnswers A.TST_REQ = true ∧ t.pstate ≠ .maint ∧ u.Sound ∧ u.regAnswers A.TST_REQ = true ∧ u.tst.bistEnd = some 9 :=
  ⟨{ running with pstate := .maint }, running, { running with pstate := .maint, tst := { running.tst with bistEnd := some 9 } }, sound (by decide +kernel), rfl, rfl, rfl,
    sound (by decide +kernel), rfl, by decide +kernel, sound (by decide +kernel), rfl, rfl⟩

theorem wit_RecessSegments_recess : ∃ (s : State) (w : Nat), s.Sound ∧ s.Next 0 w 0 ∧ insOp w = 0x31 ∧ s.recessUnits 0 w ≠ [] :=
  ⟨coreAt 0x31 0 0 (2 ^ 24), coreWord 0x31 0 (2 ^ 24), sound (by decide +kernel), next_of (by decide +kernel), by decide +kernel⟩

theorem wit_RecessSegments_segment : ∃ s : State, s.Sound ∧ (s.unitT (unitKey 4 7)).run = some (0, 50) ∧ (s.unitT (unitKey 4 7)).complete = false :=
  ⟨{ running with tst := { running.tst with units := [{ unit := unitKey 4 7, next := 0, complete := false, passed := false, ext := [], winEnd := 0, run := some (0, 50) }] } },
    sound (by decide +kernel), by decide +kernel⟩

theorem wit_RecessSegments_digest : ∃ (s : State) (len : Nat), s.Sound ∧ s.rf F.TST_DIGEST_NEXT < recCount (s.recBytes recDigest 0) 48 ∧
    recCount (s.recBytes recDigest 0) 48 ≤ 4096 ∧ len = leAt (recElem (s.recBytes recDigest 0) 48 (s.rf F.TST_DIGEST_NEXT)) 8 4 ∧ len ≤ s.tst.dleft ∧ s.ecc = [] ∧
    s.memc.bankOff = [] ∧ s.tst.bad.length < 64 ∧ s.flag F.TST_STATUS_DIGEST_BUSY = true ∧ s.tst.dlate = false ∧ s.pstate ≠ .halt ∧
    s.inRegion (keyHbm (leAt (recElem (s.recBytes recDigest 0) 48 (s.rf F.TST_DIGEST_NEXT)) 0 5)) len = true :=
  ⟨{ running with image := [rec1 recDigest (flds 96 [(8, 4, 64), (56, 4, 64)])], tst := { running.tst with dleft := 64 } }.wf F.TST_STATUS_DIGEST_BUSY 1, 64,
    sound (by decide +kernel), by decide +kernel⟩

/-! ### Witnesses: PTP -/

def ann (port : Fin 6) : PtpAnn :=
  { port := port, ok := true, domain := 0, clock := 0, sport := 0, prio1 := 0, cls := 0, acc := 0, var := 0, prio2 := 0, gm := 0, steps := 0 }

/-- PTP runs with slave port 0 and GM port 1; a master, a Sync and a delay request are held. -/
def ptp (profile : Nat) : State :=
  { running with image := [timeRec profile], tsu := { running.tsu with best := some (ann 0), sync2 := some (7, 100, 0), lastT1 := some (0, 100), req := some (7, 50), pd2 := some (7, 1, 2, 0) } }.wf
    F.TSU_STATUS_SLAVE 0

def ptpM (port : Fin 6) (ok two : Bool) : PtpMsg :=
  { dt := 3, port := port, ok := ok, domain := 0, clock := 0, sport := 0, seq := 7, twoStep := two, ts := 5, corr := 0, reqClock := BitVec.ofNat 64 (ptp 1).clockId, logInterval := 0 }

theorem wit_PtpMessagesReceived_dropped : ∃ (s : State) (m : PtpMsg), s.Sound ∧ s.ptpOn = true ∧ s.ptpGood m.port.val m.ok m.domain = false :=
  ⟨ptp 1, ptpM 5 true false, sound (by decide +kernel), by decide +kernel⟩

theorem wit_PtpMessagesReceived_sync : ∃ (s : State) (m : PtpMsg) (b : PtpAnn), s.Sound ∧ s.ptpOn = true ∧ s.ptpGood m.port.val m.ok m.domain = true ∧
    bitAt s.slavePorts m.port.val = true ∧ s.staticPtp = false ∧ s.tsu.best = some b ∧ b.port = m.port ∧ b.clock = m.clock ∧ b.sport = m.sport ∧ m.twoStep = true ∧
    s.tsu.sync2 = some (m.seq.toNat, 100, 0) :=
  ⟨ptp 1, ptpM 0 true true, ann 0, sound (by decide +kernel), by decide +kernel⟩

theorem wit_PtpMessagesReceived_delay : ∃ (s u : State) (m n : PtpMsg), s.Sound ∧ s.ptpOn = true ∧ s.ptpGood m.port.val m.ok m.domain = true ∧
    bitAt s.gmPorts m.port.val = true ∧ s.p2p = false ∧ u.Sound ∧ u.ptpOn = true ∧ u.ptpGood n.port.val n.ok n.domain = true ∧ u.p2p = true :=
  ⟨ptp 1, ptp 0, ptpM 1 true false, ptpM 0 true false, sound (by decide +kernel), by decide +kernel, by decide +kernel, by decide +kernel, by decide +kernel,
    sound (by decide +kernel), by decide +kernel⟩

theorem wit_PtpMessagesReceived_delayResp : ∃ (s : State) (m : PtpMsg), s.Sound ∧ s.ptpOn = true ∧ s.ptpGood m.port.val m.ok m.domain = true ∧
    s.fromMaster m = true ∧ s.p2p = false ∧ s.tsu.req = some (m.seq.toNat, 50) ∧ s.tsu.lastT1 = some (0, 100) ∧ m.reqClock.toNat = s.clockId :=
  ⟨ptp 1, ptpM 0 true false, sound (by decide +kernel), by decide +kernel⟩

theorem wit_PtpMessagesReceived_peerDelay : ∀ two : Bool, ∃ (s : State) (m : PtpMsg), s.Sound ∧ s.ptpOn = true ∧ s.ptpGood m.port.val m.ok m.domain = true ∧
    bitAt s.slavePorts m.port.val = true ∧ s.p2p = true ∧ s.tsu.req = some (m.seq.toNat, 50) ∧ m.reqClock.toNat = s.clockId ∧ m.twoStep = two ∧
    s.tsu.pd2 = some (m.seq.toNat, 1, 2, 0) := by
  have h : ∀ two : Bool, (ptp 0).ptpOn = true ∧ (ptp 0).ptpGood (ptpM 0 true two).port.val (ptpM 0 true two).ok (ptpM 0 true two).domain = true ∧
    bitAt (ptp 0).slavePorts (ptpM 0 true two).port.val = true ∧ (ptp 0).p2p = true ∧ (ptp 0).tsu.req = some ((ptpM 0 true two).seq.toNat, 50) ∧
    (ptpM 0 true two).reqClock.toNat = (ptp 0).clockId ∧ (ptpM 0 true two).twoStep = two ∧ (ptp 0).tsu.pd2 = some ((ptpM 0 true two).seq.toNat, 1, 2, 0) := by decide +kernel
  exact fun two => ⟨ptp 0, ptpM 0 true two, sound (by decide +kernel), h two⟩

theorem wit_PtpMessagesReceived_announce : ∃ (s : State) (b : PtpAnn), s.Sound ∧ s.ptpOn = true ∧ s.ptpGood b.port.val b.ok b.domain = true ∧
    bitAt s.slavePorts b.port.val = true ∧ s.staticPtp = false ∧ s.tsu.best = none :=
  ⟨{ running with image := [timeRec 1] }, ann 0, sound (by decide +kernel), by decide +kernel⟩

theorem wit_PtpSendsAndServoTimeouts : ∃ s u : State, s.Sound ∧ s.ptpOn = true ∧ s.parked = false ∧ s.slavePort < 6 ∧ s.servo = 3 ∧ s.tsu.locked = false ∧
    s.flag F.TSU_STATUS_TIMEOUT = false ∧ bitAt s.gmPorts 1 = true ∧ u.Sound ∧ u.ptpOn = true ∧ u.parked = false ∧ u.servo = 4 :=
  ⟨(ptp 1).wf F.TSU_STATUS_STATE 3, (ptp 1).wf F.TSU_STATUS_STATE 4, sound (by decide +kernel), by decide +kernel, by decide +kernel, by decide +kernel, by decide +kernel, by decide +kernel,
    by decide +kernel, by decide +kernel, sound (by decide +kernel), by decide +kernel⟩

/-! ### Witnesses: Jexong -/

/-- Module 0 of two, LOCKED, with a master. -/
def duo (master : Nat) (run : Bool) : State :=
  { running with image := [timeRec 1, rec1 recJexong (flds 16 [(1, 1, 2), (2, 1, master)])], bell := { running.bell with running := run }, pw := { running.pw with ready := true, first := 1 }, jx := { running.jx with readySent := some 0, peers := running.jx.peers.map (fun (p : Peer) => { p with ready := true, readyLocked := true }) } }.wf
    F.TSU_STATUS_STATE 3

/-- A Jexong message of module 1. -/
def jxM (typ : Nat) (l : List (Nat × Nat × Nat)) : JxMsg := { ok := true, payload := flds 40 ([(0, 1, typ), (1, 1, 1)] ++ l) }

theorem wit_JexongPeerMessages_from : ∀ typ ∈ [1, 2, 3, 4, 5, 6], (duo 0 true).Sound ∧ (duo 0 true).jxFrom (jxM typ []) typ = some 1 ∧
    (duo 0 true).jxFrom { jxM typ [] with ok := false } typ = none ∧ ((duo 0 true).peer 1).absent = false := by
  have h : ∀ typ ∈ [1, 2, 3, 4, 5, 6], (duo 0 true).jxFrom (jxM typ []) typ = some 1 ∧ (duo 0 true).jxFrom { jxM typ [] with ok := false } typ = none ∧
    ((duo 0 true).peer 1).absent = false := by decide +kernel
  exact fun typ ht => ⟨sound (by decide +kernel), h typ ht⟩

theorem wit_JexongPeerMessages_hello : ∃ (s : State) (m : JxMsg), s.Sound ∧ s.jxFrom m 1 = some 1 ∧ leAt m.payload 4 1 = 1 ∧ m.payload.drop 8 = s.planDigest :=
  ⟨duo 0 true, { ok := true, payload := flds 8 [(0, 1, 1), (1, 1, 1), (4, 1, 1)] ++ (duo 0 true).planDigest }, sound (by decide +kernel), by decide +kernel⟩

theorem wit_JexongPeerMessages_refused : ∃ (s : State) (m n : JxMsg), s.Sound ∧ s.jxFrom m 1 = some 1 ∧ leAt m.payload 4 1 ≠ 1 ∧ s.jxFrom n 1 = some 1 ∧
    leAt n.payload 4 1 = 1 ∧ n.payload.drop 8 ≠ s.planDigest :=
  ⟨duo 0 true, jxM 1 [(4, 1, 2)], jxM 1 [(4, 1, 1)], sound (by decide +kernel), by decide +kernel⟩

theorem wit_JexongPeerMessages_heartbeat : ∃ (s : State) (m n : JxMsg), s.Sound ∧ s.jxFrom m 4 = some 1 ∧ bitAt (leAt m.payload 5 1) s.moduleId = false ∧
    s.jxFrom n 4 = some 1 ∧ bitAt (leAt n.payload 5 1) s.moduleId = true ∧ s.bell.running = true ∧ s.safety.excluded = false :=
  ⟨duo 0 true, jxM 4 [(5, 1, 2)], jxM 4 [(5, 1, 1)], sound (by decide +kernel), by decide +kernel⟩

theorem wit_JexongPeerMessages_join : ∃ (s : State) (m n : JxMsg), s.Sound ∧ s.jxFrom m 5 = some 1 ∧ leAt m.payload 4 1 ≠ s.moduleId ∧ leAt m.payload 4 1 < s.modules ∧
    s.jxFrom n 5 = some 1 ∧ leAt n.payload 4 1 = s.moduleId ∧ s.servo = 3 ∧ s.bell.running = false ∧ s.pstate ≠ .maint ∧ s.pstate ≠ .halt :=
  ⟨duo 0 false, jxM 5 [(4, 1, 1)], jxM 5 [(4, 1, 0)], sound (by decide +kernel), by decide +kernel⟩

theorem wit_JexongPeerMessages_sends : ∃ s : State, s.Sound ∧ 1 < s.modules ∧ s.pstate ≠ .off ∧ s.parked = false ∧
    s.others.all (fun k => (s.peer k).helloMajor.isSome) = false ∧ s.pw.ready = true ∧ s.pstate ≠ .maint ∧ s.pstate ≠ .halt ∧ s.outside = true ∧ s.servo = 3 ∧ s.bell.running = true ∧ s.actingMaster = some s.moduleId ∧
    s.others.find? (fun m => bitAt s.announced m && (s.peer m).ready && (s.peer m).readyLocked) = some 1 :=
  ⟨{ duo 0 true with safety := { (duo 0 true).safety with excluded := true }, jx := { (duo 0 true).jx with failSet := 2 } }, sound (by decide +kernel), by decide +kernel⟩

theorem wit_JexongArmAndGo_arm : (duo 0 false).Sound ∧ (duo 0 false).canArm = true ∧ (duo 0 false).isMaster = true ∧
    (duo 0 false).others.all (fun m => ((duo 0 false).peer m).ready) = true ∧
    (duo 1 false).Sound ∧ (duo 1 false).canArm = true ∧ (duo 1 false).isMaster = false ∧ (duo 1 false).servo = 3 ∧
    (duo 1 false).others.any (fun m => decide (m < (duo 1 false).moduleId) && ((duo 1 false).peer m).ready && ((duo 1 false).peer m).readyLocked) = false :=
  ⟨sound (by decide +kernel), by decide +kernel, by decide +kernel, by decide +kernel, sound (by decide +kernel), by decide +kernel⟩

theorem wit_JexongArmAndGo_armed : ∃ m : JxMsg, (duo 0 false).Sound ∧ (duo 0 false).jxFrom m 3 = some 1 ∧ (duo 0 false).armNames (leAt m.payload 4 1) = true ∧
    (duo 0 false).bell.running = false ∧ (duo 0 false).flag F.JXL_STATUS_GO_SEEN = false ∧
    (duo 0 false).pw.first = 1 ∧ (duo 0 false).timeUp ≤ leAt m.payload 16 6 * 1000000000 + leAt m.payload 22 4 + 100000 ∧ (duo 0 false).jx.armSent = false :=
  ⟨jxM 3 [(4, 1, 3), (8, 8, 9), (16, 6, 1)], sound (by decide +kernel), by decide +kernel⟩

/-- ARM is held and GO has not come. -/
def armed (servo : Nat) (driven : Bool) : State :=
  ({ duo 0 false with jx := { (duo 0 false).jx with arm := some (3, 9, 1000000), armSent := true, driven := driven } }.wf F.TSU_STATUS_STATE servo).wf
    F.TSU_STATUS_FREE_RUNNING (if servo = 1 then 1 else 0)

theorem wit_JexongArmAndGo_go : ∀ servo ∈ [1, 3], (armed servo false).Sound ∧ (armed servo false).jx.arm = some (3, 9, 1000000) ∧ (armed servo false).isMaster = true ∧
    (armed servo false).jx.armSent = true ∧ (armed servo false).jx.driven = false ∧ (armed servo false).armNames 3 = true ∧ (armed servo false).bell.running = false ∧
    (armed servo false).bell.armed = false ∧ (armed servo false).flag F.JXL_STATUS_GO_SEEN = false ∧ (((armed servo false).advanceToNs (1000000 + (armed servo false).cableNs)).advance 0).timeUp ≤ 1000000 + 100000 ∧
    1 < (armed servo false).modules ∧ (armed servo false).pstate = .run ∧ (armed servo false).parked = false ∧ (armed servo false).flag F.TSU_STATUS_FREE_RUNNING = decide (servo = 1) ∧
    (armed servo false).servo = servo := by
  have h : ∀ servo ∈ [1, 3], soundB (armed servo false) = true ∧ (armed servo false).jx.arm = some (3, 9, 1000000) ∧ (armed servo false).isMaster = true ∧
    (armed servo false).jx.armSent = true ∧ (armed servo false).jx.driven = false ∧ (armed servo false).armNames 3 = true ∧ (armed servo false).bell.running = false ∧
    (armed servo false).bell.armed = false ∧ (armed servo false).flag F.JXL_STATUS_GO_SEEN = false ∧ (((armed servo false).advanceToNs (1000000 + (armed servo false).cableNs)).advance 0).timeUp ≤ 1000000 + 100000 ∧
    1 < (armed servo false).modules ∧ (armed servo false).pstate = .run ∧ (armed servo false).parked = false ∧ (armed servo false).flag F.TSU_STATUS_FREE_RUNNING = decide (servo = 1) ∧
    (armed servo false).servo = servo := by decide +kernel
  exact fun x hx => ⟨sound (h x hx).1, (h x hx).2⟩

theorem wit_JexongArmAndGo_loop : (duo 0 false).Sound ∧ (duo 0 false).jx.arm = none ∧ 1 < (duo 0 false).modules ∧ (duo 0 false).pstate ≠ .off ∧ (duo 0 false).parked = false ∧ (armed 3 true).Sound ∧ (armed 3 true).isMaster = true ∧
    (armed 3 true).jx.driven = true ∧ (200 : BitVec 16).toNat ≤ 200 ∧ ∀ c ∈ some (201 : BitVec 16), 200 < c.toNat :=
  ⟨sound (by decide +kernel), by decide +kernel, by decide +kernel, by decide +kernel, by decide +kernel, sound (by decide +kernel), by decide +kernel, by decide +kernel, by decide +kernel, fun c h => by cases h; decide +kernel⟩

/-! ### Witnesses: cameras, I2C, SIEVE -/

/-- A camera's record: 4 x 2 pixels of RAW12 in one exposure on VC 0, no embedded lines, gear 1, pipeline c mod 4. -/
def camRecord (c flags : Nat) : List Byte :=
  flds 144 [(0, 1, c), (1, 1, c % 4), (2, 1, 1), (3, 1, flags), (4, 1, 1), (6, 1, 0x2C), (7, 1, 0xFF), (12, 2, 4), (14, 2, 2)]

def camFrame : CamOpen :=
  { buf := some 0, frame := 1, capt := 0, sof := 0, seq := 0, lines := [0, 0, 0, 0], started := [true, false, false, false], ended := [false, true, true, true],
    extra := [false, false, false, false], tagBad := false, repairs := 0, assumed := 0, free := false }

/-- Camera c has a record and a state, with power. -/
def camera (c flags : Nat) (f : Cam → Cam) : State :=
  { running with image := [timeRec 1, rec1 recCamera (camRecord c flags)], cams := running.cams.modify c f }.wf (F.CSI_LINK_POC_ON c) 1

theorem wit_CameraFramesReceived : (camera 15 0 id).Sound ∧ (camera 15 0 id).camOn 15 = some (camRecord 15 0) ∧ (vcPlanes (camRecord 15 0) 0).contains 0 = true ∧
    camFlag (camRecord 15 0) 0 = false ∧ ((camera 15 0 id).cam 15).opens = [] ∧ ((camera 15 0 id).cam 15).bufs.length = 3 ∧ ((camera 15 0 id).cam 15).bufSt 0 = 0 :=
  ⟨sound (by decide +kernel), by decide +kernel⟩

/-- A frame is being received. -/
def receiving : State := camera 15 0 (fun m => { m with opens := [camFrame] })

theorem wit_CameraFramesReceived_line : receiving.Sound ∧ receiving.camOn 15 = some (camRecord 15 0) ∧ packetPlane (camRecord 15 0) 0 0x2C = some 0 ∧
    (receiving.cam 15).opens = [camFrame] ∧ (receiving.cam 15).opens ≠ [] ∧ (camFrame.started[0]?).getD false = true ∧ (camFrame.ended[0]?).getD true = false ∧
    camFrame.lines[0]? = some 0 ∧ 0 < planeLines (camRecord 15 0) 0 ∧ camFrame.buf = some 0 ∧ (flds 6 []).length = planeBytes (camRecord 15 0) 0 ∧ receiving.memc.bankOff = [] ∧
    receiving.unlocked (keyHbm (receiving.fbBase 15 0 + planeOff (camRecord 15 0) 0 0)) (up64 (planeBytes (camRecord 15 0) 0)) = true := ⟨sound (by decide +kernel), by decide +kernel⟩

theorem wit_CameraLinkTriggerAndIsp : ∃ s : State, s.Sound ∧ s.camOn 15 = some (camRecord 15 1) ∧ s.rf (F.CSI_LINK_UP 15) = 1 ∧ s.rf (F.CSI_LINK_POC_ON 15) = 1 ∧
    leAt (camRecord 15 1) 2 1 ≤ (1 : Fin 6).val ∧ ¬ leAt (camRecord 15 1) 2 1 ≤ (0 : Fin 6).val ∧ camFlag (camRecord 15 1) 0 = true ∧ s.bellPeriod ≠ 0 ∧ Requester.cp0 ≠ .i3c ∧
    s.regAnswers (A.ISP_PSET_COMMIT 15) = true ∧ (65535 : BitVec 32).toNat % 65536 ≠ 0 ∧ (s.cam 15).psets.length = 7 :=
  ⟨(camera 15 1 (fun m => { m with psets := List.replicate 7 (1, []) })).wf (F.CSI_LINK_UP 15) 1, sound (by decide +kernel), by decide +kernel⟩

theorem wit_CameraLinkTriggerAndIsp_frame : ∃ s : State, s.Sound ∧ s.pstate ≠ .off ∧ s.parked = false ∧ s.pipes[3]? = some none ∧
    earliest (s.waiting 3) = some (77, 15, 2) ∧ s.camRec 15 = some (camRecord 15 0) :=
  ⟨camera 15 0 (fun m => { m with bufs := m.bufs.modify 2 (fun b => { b with st := 2, sof := 77 }) }), sound (by decide +kernel), by decide +kernel⟩

theorem wit_CameraLinkTriggerAndIsp_done : ∃ (s : State) (j : PipeJob), s.Sound ∧ s.pipes[3]? = some (some j) ∧ j.cam < 16 ∧ s.camRec j.cam = some (camRecord 15 0) :=
  ⟨{ camera 15 0 id with pipes := running.pipes.set 3 (some { cam := 15, buf := 2, set := 0, due := 9, tag := 0, pset := [] }) },
    { cam := 15, buf := 2, set := 0, due := 9, tag := 0, pset := [] }, sound (by decide +kernel), by decide +kernel⟩

/-- The tunnel of camera 15 runs an operation. -/
def tunnel (op : I2cOp) (l : List I2cOp) (g : Option (Nat × List (Nat × Nat × List Byte))) : State :=
  camera 15 0 (fun m => { m with running := some (0, op), queues := [l, []], group := g })

theorem wit_I2cTunnel_queue : ∃ (s t : State) (l : List I2cOp), s.Sound ∧ s.camOn 15 = some (camRecord 15 0) ∧ s.regAnswers (A.CSI_I2C_CMD 15 0) = true ∧
    (s.cam 15).running = some (0, .read 1 2 4) ∧ (s.cam 15).queues[0]? = some l ∧ (s.cam 15).used 0 = 31 ∧ (s.cam 15).group = none ∧
    t.Sound ∧ t.camOn 15 = some (camRecord 15 0) ∧ (t.cam 15).running = some (0, .read 1 2 4) ∧ (t.cam 15).queues[0]? = some [] ∧
    (t.cam 15).group = some (5, List.replicate 23 (1, 2, [])) ∧ (t.cam 15).used 0 < 32 :=
  ⟨tunnel (.read 1 2 4) (List.replicate 31 (.read 1 2 4)) none, tunnel (.read 1 2 4) [] (some (5, List.replicate 23 (1, 2, []))), List.replicate 31 (.read 1 2 4),
    sound (by decide +kernel), by decide +kernel, by decide +kernel, by decide +kernel, by decide +kernel, by decide +kernel, by decide +kernel, sound (by decide +kernel),
    by decide +kernel⟩

theorem wit_I2cTunnel_commands : ∀ k ∈ [0, 1, 2, 3], bits (BitVec.ofNat 32 (k * 2 ^ 30 + 65535)).toNat 31 30 = k ∧
    bits (BitVec.ofNat 32 (k * 2 ^ 30 + 65535)).toNat 15 0 ≠ 0 := by decide +kernel

theorem wit_I2cTunnel_ends : (tunnel (.group 5 []) [] none).Sound ∧ (tunnel (.group 5 []) [] none).camOn 15 = some (camRecord 15 0) ∧
    ((tunnel (.group 5 []) [] none).cam 15).running = some (0, .group 5 []) ∧ ((tunnel (.group 5 []) [] none).cam 15).queues = [[], []] :=
  ⟨sound (by decide +kernel), by decide +kernel⟩

/-- An ego message at 5 ns, with its CRC. -/
def egoBytes : List Byte :=
  have b := flds 72 [(2, 1, 1), (20, 4, 40), (38, 4, 5)]
  b.take 28 ++ leBytes 4 (crc32c (b.take 28 ++ b.drop 32)) ++ b.drop 32

/-- A lidar on port 3 at address 7 and UDP port 9. -/
def lidRecord : List Byte := flds 128 [(1, 1, 3), (4, 4, 7), (8, 2, 9), (10, 2, 8)]

/-- SIEVE is open on port 3, with a lidar of 8-byte datagrams and an ego source on UDP 9. -/
def sieving (ego : List (Nat × List Byte)) (q : List LidPt) : State :=
  { running with image := [timeRec 1, rec1 recLidar lidRecord, rec1 recFusion (flds 64 [(12, 2, 9), (16, 1, 8)])], pw := { running.pw with ready := true }, sieve := { running.sieve with ego := ego, queue := q } }.wf (F.ETH_STATUS_LINK 3) 1

theorem wit_SieveTakesItsInputs : (sieving [] []).Sound ∧ (sieving [] []).sieveOn = true ∧ (sieving [] []).replay = none ∧ (sieving [] []).flag (F.ETH_STATUS_LINK 3) = true ∧
    (sieving [] []).lidMatch 3 8 9 = none ∧ (sieving [] []).lidMatch 3 7 9 = some lidRecord ∧ (flds 7 []).length ≠ leAt lidRecord 10 2 ∧
    bitAt ((sieving [] []).recLe recFusion 16 1) 3 = true ∧ (9 : BitVec 16).toNat = (sieving [] []).recLe recFusion 12 2 :=
  ⟨sound (by decide +kernel), by decide +kernel⟩

theorem wit_SieveTakesItsInputs_ego : egoBytes.length = 72 ∧ leAt egoBytes 0 2 % 4096 = (sieving [] []).recLe recFusion 14 2 % 4096 ∧ leAt egoBytes 2 1 = 1 ∧
    leAt egoBytes 20 4 = 40 ∧ leAt egoBytes 28 4 = crc32c (egoBytes.take 28 ++ egoBytes.drop 32) ∧ leAt egoBytes 32 6 * 1000000000 + leAt egoBytes 38 4 = 5 ∧
    (∀ m ∈ (sieving [(4, [])] []).sieve.ego, m.1 < 5) ∧ ∃ m ∈ (sieving [(5, [])] []).sieve.ego, 5 ≤ m.1 :=
  ⟨by decide +kernel, by decide +kernel, by decide +kernel, by decide +kernel, by decide +kernel, by decide +kernel, by decide +kernel, (5, []), by decide +kernel⟩

theorem wit_SieveTakesItsInputs_voxel : ∃ (s : State) (p : LidPt), s.Sound ∧ s.sieveOn = true ∧ s.replay = none ∧ s.flag (F.ETH_STATUS_LINK 3) = true ∧
    s.sieve.queue = [p] ∧ s.ecc = [] ∧ s.inj.hbm = none ∧ s.inj.sram = none :=
  ⟨sieving [] [{ lidar := 0, x := 0, y := 0, z := 0, inten := 0, t := 0 }], { lidar := 0, x := 0, y := 0, z := 0, inten := 0, t := 0 }, sound (by decide +kernel),
    by decide +kernel⟩

/-! ### Witnesses: outputs -/

/-- One output and one destination on port 5, with addresses and gears. -/
def outputRec : ImgRec := rec1 recOutput (flds 192 ([(0, 1, 1), (1, 1, 1), (2, 2, 0x5000), (4, 4, 1), (20, 4, 2), (24, 4, 3), (28, 1, 7), (31, 1, 1), (50, 2, 0xFFFF)] ++
  [(128, 1, 5), (130, 2, 100), (132, 4, 4), (142, 2, 8)]))

def anyRec : OutRec := { output := 0, vc := 1, dataId := 2, bell := 5, bytes := flds 64 [], off := 0 }

/-- A record waits on CSI link 3 and for destination 0; the links are up. -/
def sending : State :=
  ({ running with image := [timeRec 1, outputRec], emit := { running.emit with queues := (running.emit.queues.set 3 [anyRec]).set 4 [anyRec] } }.wf (F.CSO_STATUS_UP 3) 1).wf
    (F.ETH_STATUS_LINK 5) 1

theorem wit_OutputLinksAndPorts : sending.Sound ∧ sending.queueOf 3 = [anyRec] ∧ sending.rf (F.CSO_STATUS_UP 3) = 1 ∧ sending.queueOf (4 + 0) = [anyRec] ∧
    sending.rf (F.ETH_STATUS_LINK (sending.destPort 0)) = 1 ∧ sending.rf (F.CSO_STATUS_UP 0) = 0 ∧ sending.gear 0 = 7 ∧ sending.gear 3 = 1 ∧ sending.pstate ≠ .off ∧
    sending.parked = false ∧ sending.rf (F.ETH_STATUS_LINK 5) = 1 ∧ (0 < sending.nDest ∧ sending.destPort 0 = 5) ∧ sending.rf (F.ETH_DROP_RX_BAD 5) < 65535 :=
  ⟨sound (by decide +kernel), by decide +kernel⟩

theorem wit_ReleasesAndConsumers_emit : ∃ (s : State) (w : Nat), (s.Sound ∧ s.Next 0 w 0 ∧ s.unitBusy (insArg w 55 40) = false ∧ insOp w = 0x20) ∧ s.pstate ≠ .halt ∧
    stKind (insArg w 55 40) = 10 ∧ insArg w 39 24 < s.nOut := by
  have h : staB { coreAt 0x20 0xA000 0 with image := [timeRec 1, outputRec] } 0xA000 = true ∧ ({ coreAt 0x20 0xA000 0 with image := [timeRec 1, outputRec] } : State).pstate ≠ .halt ∧
    stKind (insArg (coreWord 0x20 0xA000) 55 40) = 10 ∧ insArg (coreWord 0x20 0xA000) 39 24 < ({ coreAt 0x20 0xA000 0 with image := [timeRec 1, outputRec] } : State).nOut := by
    decide +kernel
  exact ⟨_, _, sta_of h.1, h.2⟩

theorem wit_ReleasesAndConsumers_hello : ∃ peer other : UdpFrom, sending.Sound ∧ sending.portIp 5 ≠ 0 ∧ sending.rf (F.ETH_STATUS_LINK 5) = 1 ∧
    (3 : BitVec 32).toNat = sending.portIp 5 ∧ (4 : BitVec 32).toNat ≠ sending.portIp 5 ∧ 0 < sending.nDest ∧ sending.destPort 0 = 5 ∧
    leAt (sending.destElem 0) 4 4 = peer.ip.toNat ∧ leAt (sending.destElem 0) 14 2 = peer.udp.toNat ∧
    ∀ d < sending.nDest, sending.destPort d = 5 → leAt (sending.destElem d) 4 4 = other.ip.toNat → leAt (sending.destElem d) 14 2 ≠ other.udp.toNat :=
  ⟨{ mac := 1, ip := 4, udp := 8 }, { mac := 1, ip := 4, udp := 9 }, sound (by decide +kernel), by decide +kernel⟩

theorem wit_ReleasesAndConsumers_attend : ∃ s : State, s.Sound ∧ s.pstate ≠ .off ∧ s.attBusy = false ∧ s.now ≤ s.att.relAt + 2 ∧ s.att.relq ≠ [] :=
  ⟨{ running with now := 2, att := { running.att with relq := [7] } }, sound (by decide +kernel), by decide +kernel⟩

/-! ### Witnesses: staging and replay -/

def host : UdpFrom := { mac := 1, ip := 4, udp := 8 }

/-- A staging datagram of a type and session 9: store, offset, data. -/
def stDg (typ store off : Nat) (data : List Byte) : List Byte :=
  have h := flds 20 [(0, 1, typ), (2, 2, 9), (4, 1, store), (8, 8, off), (16, 2, data.length)]
  h ++ leBytes 4 (crc32c (h ++ data)) ++ data

/-- In a state with E5 up and a session. -/
def staged (p : PState) (g : Option Stage) : State :=
  { running with pstate := p, image := [timeRec 1, outputRec], stage := g }.wf (F.ETH_STATUS_LINK 5) 1

def session (erasing : Bool) (commit : Option (List Byte)) (next : Nat) : Stage :=
  { port := some 5, session := 9, target := 1, bootLen := 8, modelLen := 0, copy := false, bootNext := next, modelNext := 0, erasing := erasing, commit := commit, peer := host, last := 0 }

theorem wit_StagingSession_open : (staged .maint none).Sound ∧ (5 : Fin 6).val = 5 ∧ (staged .maint none).pstate ≠ .off ∧ (staged .maint none).rf (F.ETH_STATUS_LINK 5) = 1 ∧
    (staged .maint none).portIp 5 ≠ 0 ∧ stGood [] = false ∧ stGood (stDg 1 1 0 (flds 24 [(0, 8, 8)])) = true ∧ stTyp (stDg 1 1 0 (flds 24 [(0, 8, 8)])) = 1 ∧
    (staged .maint none).pstate = .maint ∧ (staged .maint none).stage = none ∧ (staged .maint none).openAllowed (some 5) (stDg 1 1 0 (flds 24 [(0, 8, 8)])) = true ∧
    (staged .maint none).openAllowed (some 5) (stDg 1 2 0 (flds 24 [(0, 8, 8)])) = false ∧ (staged .run none).Sound ∧ (staged .run none).pstate ≠ .maint :=
  ⟨sound (by decide +kernel), by decide +kernel, by decide +kernel, by decide +kernel, by decide +kernel, by decide +kernel, by decide +kernel, by decide +kernel, by decide +kernel,
    by decide +kernel, by decide +kernel, by decide +kernel, sound (by decide +kernel), by decide +kernel⟩

theorem wit_StagingSession_data : ∃ (s : State) (g : Stage) (dg abort commit : List Byte), s.Sound ∧ s.pstate = .maint ∧ s.stage = some g ∧ g.port = some 5 ∧ g.peer = host ∧ g.busy = false ∧
    stGood dg = true ∧ g.session = stSession dg ∧ stTyp dg = 2 ∧ stStore dg ≤ 1 ∧ stOff dg = g.next (stStore dg) ∧ 0 < stLen dg ∧ stOff dg + stLen dg = g.len (stStore dg) ∧
    stGood abort = true ∧ stTyp abort = 4 ∧ stGood commit = true ∧ stTyp commit = 3 ∧ g.bootNext < g.bootLen :=
  ⟨staged .maint (some (session false none 4)), session false none 4, stDg 2 0 4 (flds 4 []), stDg 4 0 0 [], stDg 3 0 0 (flds 32 []), sound (by decide +kernel), by decide +kernel⟩

theorem wit_StagingSession_commit : ∃ (s : State) (g : Stage), s.Sound ∧ s.pstate = .maint ∧ s.stage = some g ∧ g.port = some 5 ∧ g.peer = host ∧ g.busy = false ∧
    g.bootLen ≤ g.bootNext ∧ g.modelLen ≤ g.modelNext :=
  ⟨staged .maint (some (session false none 8)), session false none 8, sound (by decide +kernel), by decide +kernel⟩

theorem wit_StagingSession_ends : ∃ (s t : State) (g h : Stage), s.Sound ∧ s.stage = some g ∧ g.port = some 5 ∧ g.peer = host ∧ g.session = stSession (stDg 1 1 0 []) ∧ g.erasing = true ∧
    t.Sound ∧ t.stage = some h ∧ h.port = some 5 ∧ h.commit = some [] :=
  ⟨staged .maint (some (session true none 0)), staged .maint (some (session false (some []) 8)), session true none 0, session false (some []) 8, sound (by decide +kernel),
    by decide +kernel, by decide +kernel, by decide +kernel, by decide +kernel, by decide +kernel, sound (by decide +kernel), by decide +kernel⟩

/-- A replay datagram of a type: session 9, bell, offset, data. -/
def rpDg (typ bell off : Nat) (data : List Byte) : List Byte :=
  have h := flds 14 [(0, 1, typ), (2, 2, 9), (4, 2, bell), (6, 4, off), (10, 2, data.length)]
  h ++ leBytes 4 (crc32c (h ++ data)) ++ data

def replaySt (k : Nat) (data : List Byte) (whole : Bool) : Replay :=
  { port := 5, session := 9, first := 3, bells := 2, k := k, data := data, whole := whole, running := false, lastStart := 0, peer := host, psets := [] }

def replaying (r : Option Replay) : State :=
  { staged .maint none with replay := r, pw := { running.pw with ready := true }, bell := { running.bell with running := false } }

theorem wit_ReplaySession_open : (replaying none).Sound ∧ (replaying none).replayReads 5 1 (rpDg 1 0 0 (flds 12 [])) = true ∧ (replaying none).pstate = .maint ∧
    (replaying none).replay = none ∧ (replaying none).pw.ready = true ∧ (replaying (some (replaySt 0 [] false))).Sound ∧ (replaying (some (replaySt 0 [] false))).replay.isSome = true :=
  ⟨sound (by decide +kernel), by decide +kernel, by decide +kernel, by decide +kernel, by decide +kernel, sound (by decide +kernel), by decide +kernel⟩

theorem wit_ReplaySession_data : ∃ (s : State) (r : Replay) (dg e short close : List Byte), s.Sound ∧ s.replayOf 5 host dg = some r ∧ r.k < r.bells ∧ rpBell dg = r.k ∧ r.whole = false ∧
    s.replayReads 5 2 dg = true ∧ rpOff dg = r.data.length ∧ 0 < rpLen dg ∧ s.replayReads 5 3 e = true ∧ leAt (rpData e) 0 4 ≤ r.data.length ∧
    s.replayReads 5 3 short = true ∧ r.data.length < leAt (rpData short) 0 4 ∧ s.replayReads 5 4 close = true :=
  ⟨replaying (some (replaySt 1 [1, 2] false)), replaySt 1 [1, 2] false, rpDg 2 1 2 [3], rpDg 3 1 0 (leBytes 4 2), rpDg 3 1 0 (leBytes 4 3), rpDg 4 0 0 [],
    sound (by decide +kernel), by decide +kernel⟩

theorem wit_ReplaySession_start : ∃ (s : State) (r : Replay), s.Sound ∧ s.replay = some r ∧ r.whole = true ∧ s.inputsDone = true ∧ r.k < r.bells ∧ s.pstate = .maint :=
  ⟨replaying (some (replaySt 1 [] true)), replaySt 1 [] true, sound (by decide +kernel), by decide +kernel⟩

/-! ### Witnesses: the I3C port -/

/-- The command set is agreed and no command runs. -/
def i3c (p : PState) : State := { running with pstate := p }.wf F.I3C_CMDSET_VER_MAJOR 1

/-- A command of an opcode may be issued. -/
def free (s : State) (op : Nat) : Prop :=
  s.pstate ≠ .off ∧ s.rf F.I3C_RESP_BUSY = 0 ∧ s.rf F.I3C_CMDSET_VER_MAJOR ≠ 0 ∧ s.i3cEnabled op = true ∧ s.pairStopped 0 = false

theorem wit_I3cHardwareCommands : ∀ p ∈ [PState.boot, .run, .safe], ∃ s : State, s.Sound ∧ s.pstate = p ∧ s.pstate ≠ .off ∧ s.pstate ≠ .park ∧ s.rf F.I3C_RESP_BUSY = 0 ∧
    s.rf F.I3C_CMDSET_VER_MAJOR ≠ 0 ∧ s.i3cEnabled 1 = true ∧ s.i3cEnabled 8 = true ∧ bitAt (256 : BitVec 32).toNat 16 = false ∧ 1 ≤ bits (256 : BitVec 32).toNat 8 0 ∧
    bits (256 : BitVec 32).toNat 8 0 ≤ 256 := by
  have h : ∀ p ∈ [PState.boot, .run, .safe], soundB (i3c p) = true ∧ (i3c p).pstate = p ∧ (i3c p).pstate ≠ .off ∧ (i3c p).pstate ≠ .park ∧ (i3c p).rf F.I3C_RESP_BUSY = 0 ∧
    (i3c p).rf F.I3C_CMDSET_VER_MAJOR ≠ 0 ∧ (i3c p).i3cEnabled 1 = true ∧ (i3c p).i3cEnabled 8 = true ∧ bitAt (256 : BitVec 32).toNat 16 = false ∧
    1 ≤ bits (256 : BitVec 32).toNat 8 0 ∧ bits (256 : BitVec 32).toNat 8 0 ≤ 256 := by decide +kernel
  exact fun p hp => ⟨_, sound (h p hp).1, (h p hp).2⟩

theorem wit_I3cHardwareCommands_wake : (i3c .park).Sound ∧ (i3c .park).pstate ≠ .off ∧ (i3c .park).rf F.I3C_RESP_BUSY = 0 ∧ (i3c .park).rf F.I3C_CMDSET_VER_MAJOR ≠ 0 ∧
    (i3c .park).i3cEnabled 6 = true ∧ (i3c .park).parked = true ∧ (i3c .park).pw.under = none :=
  ⟨sound (by decide +kernel), by decide +kernel⟩

theorem wit_I3cHardwareCommands_one : ∃ (s : State) (cnt : BitVec 32) (lo : Nat), s.Sound ∧ bits cnt.toNat 8 0 = 1 ∧ bitAt cnt.toNat 16 = false ∧ lo = max 3 (s.ringNext - 196608) ∧
    min (bits cnt.toNat 8 0) (s.ringNext - lo) = 1 :=
  ⟨(i3c .run).wf F.FLT_SEQ_SEQ 4, 1, 3, sound (by decide +kernel), by decide +kernel⟩

theorem wit_I3cFirmwareCommands_states : ∀ x ∈ [(PState.safe, 3), (.boot, 4), (.run, 5), (.maint, 7), (.safe, 9), (.maint, 10), (.halt, 11)],
    (i3c x.1).Sound ∧ (i3c x.1).pstate = x.1 ∧ free (i3c x.1) x.2 := by
  have h : ∀ x ∈ [(PState.safe, 3), (.boot, 4), (.run, 5), (.maint, 7), (.safe, 9), (.maint, 10), (.halt, 11)], soundB (i3c x.1) = true ∧ (i3c x.1).pstate = x.1 ∧
    (i3c x.1).pstate ≠ .off ∧ (i3c x.1).rf F.I3C_RESP_BUSY = 0 ∧ (i3c x.1).rf F.I3C_CMDSET_VER_MAJOR ≠ 0 ∧ (i3c x.1).i3cEnabled x.2 = true ∧ (i3c x.1).pairStopped 0 = false := by
    decide +kernel
  exact fun x hx => ⟨sound (h x hx).1, (h x hx).2⟩

theorem wit_I3cFirmwareCommands_effects : (i3c .safe).exitReason = 0 ∧ ({ i3c .safe with safety := { running.safety with excluded := true } } : State).exitReason = 4 ∧
    (i3c .run).rf F.PWR_STATE_MAINT_PENDING = 0 ∧ (i3c .maint).requestWhy { kind := 3, target := 0, detect := false } = none ∧
    (i3c .run).requestWhy { kind := 3, target := 0, detect := false } = some 0 ∧ (i3c .safe).sec.signing = none ∧ (i3c .safe).rf F.OCM_STATUS_LOCKET_BAD = 0 ∧
    (i3c .safe).rdLe ((i3c .safe).i3cBuf 32) 1 = 0 ∧ ((i3c .safe).wf F.SEC_STATUS_KEYS 1).rf F.SEC_STATUS_KEYS = 1 ∧
    bits (0x103 : BitVec 32).toNat 15 8 = 1 ∧ bits (0x203 : BitVec 32).toNat 15 8 ≠ 1 := by decide +kernel

/-- An I3C OPEN stands in the command buffer. -/
def i3cOpen : State :=
  ((i3c .maint).wf F.BOOT_STATUS_SLOT_VALID 1).wrN ((i3c .maint).i3cBuf 0) (stDg 1 1 0 (flds 24 [(0, 8, 8), (16, 1, 1)]))

theorem wit_I3cFirmwareCommands_stage : i3cOpen.Sound ∧ i3cOpen.pstate = .maint ∧ i3cOpen.stage = none ∧
    (have dg := i3cOpen.rdN (i3cOpen.i3cBuf 0) (24 + min (i3cOpen.rdLe (i3cOpen.i3cBuf 16) 2) 1400); stGood dg = true ∧ stTyp dg = 1 ∧ i3cOpen.openAllowed none dg = true) ∧
    stGood ((i3c .maint).rdN ((i3c .maint).i3cBuf 0) 24) = false :=
  ⟨sound (by decide +kernel), by decide +kernel⟩

/-- A DECLARE runs. -/
def declaring : State := { i3c .run with i3c := { running.i3c with running := some (11, 255, 4, [1]) } }

theorem wit_I3cFirmwareCommands_done : declaring.Sound ∧ declaring.i3c.running = some (11, (255 : Byte).toNat, 4, [1]) ∧ declaring.pairStopped 0 = false ∧ declaring.i3cCanEnd 11 = true ∧
    (declaring.wf F.LKS_STATUS_CP0_STOP 1).Sound ∧ (declaring.wf F.LKS_STATUS_CP0_STOP 1).pairStopped 0 = true :=
  ⟨sound (by decide +kernel), by decide +kernel, by decide +kernel, by decide +kernel, sound (by decide +kernel), by decide +kernel⟩

theorem wit_I3cRefusals : ∃ s t : State, s.Sound ∧ s.pstate = .off ∧ t.Sound ∧ t.pstate ≠ .off ∧ t.rf F.I3C_RESP_BUSY = 1 :=
  ⟨i3c .off, (i3c .run).wf F.I3C_RESP_BUSY 1, sound (by decide +kernel), by decide +kernel, sound (by decide +kernel), by decide +kernel⟩

theorem wit_I3cRefusals_codes : (running.wf F.I3C_CMDSET_VER_MAJOR 0).Sound ∧ (running.wf F.I3C_CMDSET_VER_MAJOR 0).rf F.I3C_CMDSET_VER_MAJOR = 0 ∧ (i3c .run).Sound ∧
    ({ i3c .run with image := [rec1 recOutput (flds 192 [(50, 2, 0xFFBF)])] } : State).i3cEnabled 6 = false ∧ (i3c .run).i3cEnabled 6 = true ∧ i3cAllowed 6 false .run = false ∧
    i3cAllowed 5 false .run = true ∧ (0 : BitVec 32) ≠ 0x9C3E ∧ 256 < bits (257 : BitVec 32).toNat 8 0 ∧ i3cAllowed 8 (bitAt (0x10001 : BitVec 32).toNat 16) .run = false :=
  ⟨sound (by decide +kernel), by decide +kernel, sound (by decide +kernel), by decide +kernel⟩

theorem wit_I3cCommonCommandCodes : ∃ s t : State, s.Sound ∧ s.pstate ≠ .off ∧ s.rf F.I3C_STATUS_DA_VALID = 0 ∧ t.Sound ∧ t.pstate ≠ .off ∧ t.rf F.I3C_STATUS_DA_VALID = 1 ∧
    (0x5B : BitVec 7) ≠ 0x5C ∧ (i3c .off).Sound ∧ (i3c .off).pstate = .off :=
  ⟨i3c .run, (i3c .run).wf F.I3C_STATUS_DA_VALID 1, sound (by decide +kernel), by decide +kernel, by decide +kernel, sound (by decide +kernel), by decide +kernel, by decide +kernel,
    by decide +kernel, sound (by decide +kernel), by decide +kernel⟩

theorem wit_I3cPrivateWritesAndInterrupts : ∃ s : State, s.Sound ∧ s.pstate ≠ .off ∧ s.rf F.I3C_STATUS_DA_VALID = 1 ∧ 6 ≤ s.i3c.mwl ∧ s.regAnswers A.I3C_CMDSET_VER = true ∧
    s.coll.ibi = some [0] ∧ s.coll.ibiSent = true ∧ s.rf F.I3C_STATUS_IBI_EN = 1 :=
  ⟨(({ i3c .run with coll := { running.coll with ibi := some [0], ibiSent := true } }.wf F.I3C_STATUS_DA_VALID 1).wf F.I3C_STATUS_IBI_EN 1), sound (by decide +kernel),
    by decide +kernel⟩

theorem wit_I3cPrivateWrites_addresses : ∀ x ∈ [((0x00 : Byte), (0x20 : Byte), 0x2000), (0xFF, 0x2F, 0x2FFF), (0x00, 0x01, 0x100), (0xFF, 0x1F, 0x1FFF), (0x00, 0x30, 0x3000), (0xFB, 0xFF, 0xFFFB)],
    x.2.2 = x.1.toNat + 256 * x.2.1.toNat := by decide +kernel

/-! ### Witnesses: supply, start, security, registers -/

/-- Camera 15 has power and tripped before. -/
def tripped (on : Nat) (trip : Option Nat) : State :=
  { running with cams := running.cams.modify 15 (fun m => { m with pocTrip := trip }) }.wf (F.CSI_LINK_POC_ON 15) on

theorem wit_SupplyThermalAndPower : ∃ s t : State, s.Sound ∧ s.pstate ≠ .off ∧ s.pw.under = none ∧ s.rf F.PWR_FLAGS_VIN_WARN = 0 ∧ s.parked = false ∧
    t.Sound ∧ t.pstate ≠ .off ∧ t.pw.under = some 5 ∧ t.rf F.PWR_FLAGS_VIN_WARN = 1 :=
  ⟨running, { running with pw := { running.pw with under := some 5 } }.wf F.PWR_FLAGS_VIN_WARN 1, sound (by decide +kernel), by decide +kernel, by decide +kernel, by decide +kernel,
    by decide +kernel, sound (by decide +kernel), by decide +kernel⟩

theorem wit_SupplyThermalAndPower_die : (105 : BitVec 8).toInt = 105 ∧ (114 : BitVec 8).toInt < 115 ∧ (115 : BitVec 8).toInt = 115 ∧ (100 : BitVec 8).toInt ≤ 100 ∧
    (255 : BitVec 8).toInt = -1 ∧ running.rf F.PWR_FLAGS_DIE_WARN = 0 ∧ toSigned 8 (running.rf F.PWR_TEMP_DIE) < 115 ∧
    (running.wf F.PWR_FLAGS_DIE_WARN 1).Sound ∧ (running.wf F.PWR_FLAGS_DIE_WARN 1).rf F.PWR_FLAGS_DIE_WARN = 1 ∧ toSigned 8 ((running.wf F.PWR_FLAGS_DIE_WARN 1).rf F.PWR_TEMP_DIE) < 115 :=
  ⟨by decide +kernel, by decide +kernel, by decide +kernel, by decide +kernel, by decide +kernel, by decide +kernel, by decide +kernel, sound (by decide +kernel), by decide +kernel⟩

theorem wit_SupplyThermalAndPower_coolant : ∃ s t : State, s.Sound ∧ t.Sound ∧ coolLimits (s.rf F.SEC_STATUS_GRADE) = (68, -43, 73) ∧ coolLimits (t.rf F.SEC_STATUS_GRADE) = (58, -28, 63) ∧
    (68 : Int) < (69 : BitVec 8).toInt ∧ (BitVec.ofInt 8 (-44)).toInt < -43 ∧ (73 : BitVec 8).toInt ≤ 73 ∧ s.rf F.PWR_FLAGS_COOL_WARN = 0 ∧ (63 : Int) < (64 : BitVec 8).toInt ∧
    toSigned 8 (t.rf F.PWR_TEMP_COOLANT) ≤ 63 ∧ t.rf F.PWR_FLAGS_COOL_WARN = 1 ∧ (63 : BitVec 8).toInt ≤ 68 - 5 ∧ -43 + 5 ≤ (BitVec.ofInt 8 (-38)).toInt :=
  ⟨running, (running.wf F.SEC_STATUS_GRADE 1).wf F.PWR_FLAGS_COOL_WARN 1, sound (by decide +kernel), sound (by decide +kernel), by decide +kernel⟩

theorem wit_SupplyThermalAndPower_poc : ∀ trip ∈ [none, some 0], (tripped 1 trip).Sound ∧ (tripped 1 trip).cams[15]? = some { Cam.reset with pocTrip := trip } ∧
    (tripped 1 trip).rf (F.CSI_LINK_POC_ON 15) = 1 ∧ (tripped 1 trip).now ≤ 0 + 4000000000 := by
  have h : ∀ trip ∈ [none, some 0], soundB (tripped 1 trip) = true ∧ (tripped 1 trip).cams[15]? = some { Cam.reset with pocTrip := trip } ∧
    (tripped 1 trip).rf (F.CSI_LINK_POC_ON 15) = 1 ∧ (tripped 1 trip).now ≤ 0 + 4000000000 := by decide +kernel
  exact fun x hx => ⟨sound (h x hx).1, (h x hx).2⟩

theorem wit_SupplyThermalAndPower_restore : (tripped 0 (some 0)).Sound ∧ (tripped 0 (some 0)).cams[15]? = some { Cam.reset with pocTrip := some 0 } ∧
    (tripped 0 (some 0)).pw.under = none ∧ (tripped 0 (some 0)).parked = false ∧ (tripped 0 (some 0)).rf (F.CSI_LINK_POC_ON 15) = 0 :=
  ⟨sound (by decide +kernel), by decide +kernel⟩

theorem wit_ResetStartWakeAndPark_ctrl : running.Sound ∧ running.regAnswers A.PWR_CTRL = true ∧ cp0m .cp1 true = false ∧ cp0m .cp0 true = true ∧
    bits (0x9C3D0001 : BitVec 32).toNat 31 16 ≠ 0x9C3E ∧ bits (0x9C3E0003 : BitVec 32).toNat 31 16 = 0x9C3E ∧ bitAt (0x9C3E0003 : BitVec 32).toNat 0 = true ∧
    bitAt (0x9C3E0003 : BitVec 32).toNat 1 = true ∧ running.pstate = .run ∧ running.rf F.PWR_STATE_MAINT_PENDING = 0 :=
  ⟨sound (by decide +kernel), by decide +kernel⟩

theorem wit_ResetStartWakeAndPark_wake : ∃ s t : State, s.Sound ∧ s.parked = true ∧ s.pw.under = none ∧ s.pw.wake = none ∧
    t.Sound ∧ t.pw.wake = some 0 ∧ t.pw.ready = false ∧ t.rf F.OCM_STATUS_CLEARING = 1 ∧ t.pstate ≠ .off ∧ t.parked = false :=
  ⟨{ running with pstate := .park }, { running with pstate := .park, pw := { running.pw with wake := some 0 } }.wf F.OCM_STATUS_CLEARING 1, sound (by decide +kernel),
    by decide +kernel, by decide +kernel, by decide +kernel, sound (by decide +kernel), by decide +kernel⟩

/-- A start in which nothing fails. -/
def goodStart : StartEnv :=
  { us := List.replicate 7 1, repeats := 0, phase := none, enclosure := false, hbmBad := [], lanesBad := [], coresBad := [], wordBad := none, strandsBad := [], unitsBad := [],
    shkBad := false, rollPhase := none, safeReq := false }

theorem wit_ResetStartWakeAndPark_start : ∃ s t u : State, s.Sound ∧ s.pstate = .off ∧ s.rf F.SEC_STATUS_LC = 0 ∧ s.sec.nextLc = none ∧ goodStart.phase = none ∧
    ({ goodStart with phase := some 5 } : StartEnv).phase = some 5 ∧ t.Sound ∧ t.pstate = .off ∧ t.pw.clkLoss ≠ none ∧ u.Sound ∧ u.pstate ≠ .off ∧ u.pw.warm = some 2 ∧
    running.pstate ≠ .off ∧ running.pw.warm = none :=
  ⟨{ running with pstate := .off }.wf F.SEC_STATUS_LC 0, { running with pstate := .off, pw := { running.pw with clkLoss := some 1 } }, { running with pw := { running.pw with warm := some 2 } },
    sound (by decide +kernel), by decide +kernel, by decide +kernel, by decide +kernel, by decide +kernel, by decide +kernel, sound (by decide +kernel), by decide +kernel,
    by decide +kernel, sound (by decide +kernel), by decide +kernel⟩

/-- A load of slot 1 hangs. -/
def hanging : State := { State.reset with pw := { State.reset.pw with loading := some (0, 1) } }

theorem wit_ResetStartWakeAndPark_watchdog : ∃ u : State, hanging.Sound ∧ hanging.pw.loading = some (0, 1) ∧ u = (hanging.advanceTo (0 + 4000000000)).imgReject 1 8 0 0 ∧
    u.pstate = .boot ∧ (u.slotList.dropWhile (· != 1)).drop 1 = [] :=
  ⟨_, sound (by decide +kernel), by decide +kernel, rfl, by decide +kernel⟩

theorem wit_SecurityCommands : ∃ s : State, s.Sound ∧ s.regAnswers A.SEC_CMD = true ∧ cp0m .cp0 false = false ∧ cp0m .cp0 true = true ∧ s.rf F.SEC_STATUS_BUSY = 0 ∧
    s.sec.signing = none ∧ s.rf F.SEC_STATUS_KEYS = 1 ∧ s.rf F.OCM_STATUS_LOCKET_BAD = 0 ∧ s.rdLe (s.secBuf 32) 1 = 0 ∧ s.pstate ≠ .maint ∧ s.rf F.SEC_STATUS_LC = 2 ∧ s.keyState 2 = 0 ∧
    (s.wf F.SEC_STATUS_BUSY 1).Sound ∧ (s.wf F.SEC_STATUS_BUSY 1).rf F.SEC_STATUS_BUSY = 1 :=
  ⟨((running.wf F.SEC_STATUS_KEYS 1).wf F.SEC_STATUS_LC 2).wf (keyFld 2) 0, sound (by decide +kernel), by decide +kernel, by decide +kernel, by decide +kernel, by decide +kernel, by decide +kernel,
    by decide +kernel, by decide +kernel, by decide +kernel, by decide +kernel, by decide +kernel, by decide +kernel, sound (by decide +kernel), by decide +kernel⟩

theorem wit_SecurityCommands_arb : ∃ s t : State, s.Sound ∧ s.pstate = .maint ∧ s.sec.half = [] ∧ s.rf F.SEC_ARB_SVN ≤ s.rf F.SEC_ARB_COUNTER ∧ s.rf F.SEC_STATUS_LC ≠ 2 ∧
    s.rf F.SEC_STATUS_LC ≠ 3 ∧ t.Sound ∧ t.pstate = .maint ∧ t.rf F.SEC_ARB_COUNTER < t.rf F.SEC_ARB_SVN ∧ t.sec.arb = some 7 ∧ t.sec.half = [] :=
  ⟨({ running with pstate := .maint }.wf F.SEC_STATUS_LC 4).wf F.SEC_ARB_SVN 0, { running with pstate := .maint, sec := { running.sec with arb := some 7 } }.wf F.SEC_ARB_SVN 2, sound (by decide +kernel), by decide +kernel,
    by decide +kernel, by decide +kernel, by decide +kernel, by decide +kernel, sound (by decide +kernel), by decide +kernel⟩

/-- A FIELD device in MAINT with keys. -/
def field : State := ({ running with pstate := .maint, sec := { running.sec with signing := some (0, 0, [1]) } }.wf F.SEC_STATUS_KEYS 1).wf F.SEC_STATUS_LC 3

theorem wit_SecurityCommands_signing : field.Sound ∧ field.sec.signing = some (0, 0, [1]) ∧ field.sec.signing ≠ none ∧ field.rf F.SEC_STATUS_LC = 3 ∧ field.pstate = .maint ∧
    transKeys 2 4 = some [0, 2, 3] := ⟨sound (by decide +kernel), by decide +kernel⟩

theorem wit_SecurityCommands_locket : ∃ s t : State, s.Sound ∧ s.regAnswers A.SEC_LKT_DATA = true ∧ s.rf F.SEC_LKT_ADDR_WORD = 0x4000 ∧ t.Sound ∧ t.rf F.SEC_LKT_ADDR_WORD = 0x5FFF ∧
    s.pstate ≠ .off ∧ s.rf F.SEC_STATUS_LC = 0 ∧ s.sec.nextLc = none ∧ s.sec.signing = none :=
  ⟨(running.wf F.SEC_LKT_ADDR_WORD 0x4000).wf F.SEC_STATUS_LC 0, running.wf F.SEC_LKT_ADDR_WORD 0x5FFF, sound (by decide +kernel), by decide +kernel, by decide +kernel, sound (by decide +kernel),
    by decide +kernel⟩

theorem wit_RegisterAccesses : ∃ row : RegRow, running.Sound ∧ inMemories 0x1007FFFFFF = true ∧ inMemories 0x1008000000 = false ∧ inRegs 0x1008000000 = false ∧
    inRegs 0x2000030010 = true ∧ running.regAnswers 0x2000030010 = true ∧ 0x2000030011 % 4 ≠ 0 ∧ running.mayWrite .i3c true 0x2000030010 = false ∧
    running.mayWrite .cp0 true A.SEC_LKT_ADDR = true ∧ regRow? A.SEC_LKT_ADDR = some row ∧ ownRows.contains row.base = false ∧ row.base ≠ A.CSI_I2C_RD 0 0 ∧ A.SEC_LKT_ADDR ≠ A.SEC_LKT_DATA ∧
    isInj A.SEC_LKT_ADDR = false ∧ isLo A.SEC_LKT_ADDR = false ∧ smFind running.latches (latchKey .cp0 A.SEC_LKT_ADDR) = none ∧ A.SEC_LKT_ADDR % 4 = 0 :=
  ⟨(regRow? A.SEC_LKT_ADDR).get (by decide +kernel), sound (by decide +kernel), by decide +kernel⟩

theorem wit_RegisterAccesses_lo : isLo A.TSU_SEC_LO = true ∧ inRegs A.TSU_SEC_LO = true ∧ running.regAnswers A.TSU_SEC_LO = true ∧ A.TSU_SEC_LO % 4 = 0 ∧
    smFind running.latches (latchKey .cp1 A.TSU_SEC_LO) = none ∧ inWindowRange A.TSU_SEC_LO = true := by decide +kernel

theorem wit_RegisterAccesses_memory : ∃ s : State, s.Sound ∧ s.pstate = .maint ∧ s.memc.bankOff = [] ∧ s.inj.sram = none ∧ s.inj.hbm = none ∧ (flds 8 []).length = 8 ∧
    running.Sound ∧ running.pstate = .run ∧ running.inWindow 0x1007FFFFF8 8 = false ∧ 0x1007FFFFF8 % 8 = 0 ∧ (debugged true).dbgOpen 0 = true ∧
    ((debugged true).hart 0).attached = true ∧ bitAt (debugged true).sec.scope 2 = true ∧ ((debugged false).hart 0).attached = false :=
  ⟨{ running with pstate := .maint }, sound (by decide +kernel), by decide +kernel, by decide +kernel, by decide +kernel, by decide +kernel, by decide +kernel, sound (by decide +kernel),
    by decide +kernel⟩

/-! ### Operands that WellFormed refuses, one for each check, and one it takes -/

theorem wf_ptp_stamp : Instr.wf (.ptpSync { ptpM 0 true true with ts := 2 ^ 48 * 1000000000 }) = false := by decide +kernel
theorem wf_ptp_correction : Instr.wf (.ptpSync { ptpM 0 true true with corr := 2 ^ 63 }) = false := by decide +kernel
theorem wf_ptp_good : Instr.wf (.ptpSync (ptpM 0 true true)) = true := by decide +kernel
theorem wf_jexong_length : Instr.wf (.jxHello { ok := true, payload := flds 39 [] }) = false := by decide +kernel
theorem wf_jexong_good : Instr.wf (.jxHello (jxM 1 [])) = true := by decide +kernel
theorem wf_lanes_twice : Instr.wf (.testLaneRound [3, 3]) = false := by decide +kernel
theorem wf_wake_late : Instr.wf (.wakeReady 20001 none []) = false := by decide +kernel
theorem wf_wake_lanes : Instr.wf (.wakeReady 20000 none [3, 3]) = false := by decide +kernel
theorem wf_upset_twice : Instr.wf (.sramScrub [(0, 1), (0, 2)]) = false := by decide +kernel
theorem wf_upset_none : Instr.wf (.patrolScrub [(0, 0)]) = false := by decide +kernel
theorem wf_access_empty : Instr.wf (.controlPairAccess .cp0 true 0 0 0 []) = false := by decide +kernel
theorem wf_access_short : Instr.wf (.controlPairAccess .cp0 true 1 0 8 [1]) = false := by decide +kernel
theorem wf_access_read_data : Instr.wf (.debugSysbusAccess 0 0 0 8 [1]) = false := by decide +kernel
theorem wf_access_good : Instr.wf (.controlPairAccess .cp0 true 1 0 8 (flds 8 [])) = true := by decide +kernel
theorem wf_dropped_twice : Instr.wf (.ispFrameDone 0 [1, 1]) = false := by decide +kernel
theorem wf_lidar_mtu : Instr.wf (.lidarDatagram 0 0 0 true (List.replicate 8973 0) 0) = false := by decide +kernel
theorem wf_ego_mtu : Instr.wf (.egoMessage 4 0 (List.replicate 1473 0) 0) = false := by decide +kernel
theorem wf_hello_mtu : Instr.wf (.resultHello 5 host (List.replicate 1473 0)) = false := by decide +kernel
theorem wf_stage_mtu : Instr.wf (.stageOpen 4 host (List.replicate 1473 0)) = false := by decide +kernel
theorem wf_stageData_mtu : Instr.wf (.stageData 4 host (List.replicate 1473 0) true) = false := by decide +kernel
theorem wf_replay_mtu : Instr.wf (.replayData 4 host (List.replicate 1473 0)) = false := by decide +kernel
theorem wf_replay_good : Instr.wf (.replayData 4 host (List.replicate 1472 0)) = true := by decide +kernel
theorem wf_strand_twice : Instr.wf (.strandProgramDone 0 0 [(5, 0), (5, 1)]) = false := by decide +kernel
theorem wf_factory_seed : Instr.wf (.factoryJtagTransition 0 0 0 (flds 31 []) (flds 32 []) (flds 32 [])) = false := by decide +kernel
theorem wf_factory_key : Instr.wf (.factoryJtagTransition 0 0 0 (flds 32 []) (flds 32 []) (flds 33 [])) = false := by decide +kernel
theorem wf_poc_ports : Instr.wf (.dieTempSample 0 0 0 0 0 (List.replicate 15 0)) = false := by decide +kernel
theorem wf_start_steps : Instr.wf (.powerOnStart { goodStart with us := [1] }) = false := by decide +kernel
theorem wf_start_twice : Instr.wf (.warmReset { goodStart with coresBad := [4, 4] }) = false := by decide +kernel
theorem wf_start_good : Instr.wf (.powerOnStart goodStart) = true := by decide +kernel
theorem wf_register_empty : Instr.wf (.registerWrite .cp0 true 0 0 0) = false := by decide +kernel
theorem wf_read_empty : Instr.wf (.readClear .cp0 true 0 0) = false := by decide +kernel
theorem wf_private_short : Instr.wf (.i3cPrivateWrite [0]) = false := by decide +kernel

theorem wf_packet_long : Instr.wf (.longPacket 0 0 0 0 true (List.replicate 65536 0) 0) = false := by
  show decide ((List.replicate 65536 (0 : Byte)).length < 65536) = false
  rw [List.length_replicate]
  decide

theorem wf_start_each : ∀ e ∈ [{ goodStart with hbmBad := [1, 1] }, { goodStart with lanesBad := [1, 1] }, { goodStart with strandsBad := [(1, 1, 1, 1), (1, 1, 1, 1)] },
    { goodStart with unitsBad := [(1, 1, 1), (1, 1, 1)] }], Instr.wf (.powerOnStart e) = false := by decide +kernel

/-! ### Worked examples of the text and single commands -/

/-- The block of the FACET4 example (chapter 04). -/
def facetBlock : List Nat := [0x3F30, 0x3F20, 0x3F10, 0x3F00, 0x3EE0, 0x3EC0, 0x3EA0, 0x3E80, 0, 0x4148] ++ List.replicate 22 0

/-- Header 0x0800_3DCA, 24 bytes, side-list entry 0x0009_4148 (chapter 04, FACET4 example). -/
theorem test_facet4 : leAt (facetEncode facetBlock 7) 0 4 = 0x08003DCA ∧ (facetEncode facetBlock 7).length = 24 ∧ leAt (facetEncode facetBlock 7) 20 4 = 0x00094148 := by
  decide +kernel

/-- SHIFT 3 for -20 to 70 in 4 bits (chapter 05, COMPRESS example). -/
theorem test_codec_shift : codecShift 90 4 = 3 := by decide +kernel

/-- 300.0 is 0x79, 470.0 saturates at 0x7E, 464.0 is 0x7E without, 0.001 is 0x01 (chapter 04, E4M3 examples). -/
theorem test_e4m3 : cvtOut 2 0 0x43960000 = (0x79, false, false) ∧ (cvtOut 2 0 0x43EB0000).1 = 0x7E ∧ (cvtOut 2 0 0x43E80000) = (0x7E, false, false) ∧
    (cvtOut 2 0 0x3A83126F).1 = 0x01 := by decide +kernel

/-- Pseudo-channel 2 (chapter 08); library bank 21 and desk bank 18 (chapter 07). -/
theorem test_banks : hbmPc 0x123456780 = 2 ∧ bankOf 0x1001234540 = some 21 ∧ bankOf (keyDesk 17 0x2A40) = some (256 + 17 * 32 + 18) := by decide +kernel

/-- TT_STATUS of physical core 17 is at 0x20_1110_4000 (R60). -/
theorem test_tt_status : (F.TT_STATUS_RUNNING 17).addr = 0x2011104000 := by decide +kernel

/-- The arming example of chapter 11: FIRST_BELL 2,592,002 and GO 400.064 802 666 s. -/
def arming : State :=
  { duo 0 false with image := [rec1 recTime (flds 120 [(0, 6, 1700000000), (10, 4, 33333333), (14, 1, 1)]), rec1 recJexong (flds 16 [(1, 1, 2)])], tsu := { running.tsu with sec := 1700086400, ns := 10000000 } }

theorem test_arm : (match exec .armSend arming with | .next t => t.jx.arm | _ => none) = some (3, 2592002, 1700086400064802666) := by decide +kernel

/-- One TIME edge of 2.5 ns (R277). -/
theorem test_idle : (match step State.reset with | .next t => (t.now, t.tsu.ns, t.tsu.frac) | _ => (0, 0, 0)) = (1, 2, 0x80000000) := by decide +kernel

/-- GETBCR answers 0x26 (R507). -/
theorem test_getbcr : (match exec .getbcr (running.wf F.I3C_STATUS_DA_VALID 1) with | .next t => t.sent | _ => []) = [.i3c [0x26]] := by decide +kernel

/-- ENTDAA answers the provisional ID 0x973A_7264_0000, BCR and DCR (R507); module and serial number are 0. -/
theorem test_entdaa : (match exec (.entdaa 9) State.reset with | .next t => t.sent | _ => []) =
    [.i3c [0x97, 0x3A, 0x72, 0x64, 0, 0, 0x26, 0x00]] := by decide +kernel

/-- A second GO while a command runs is ignored (R510). -/
theorem test_busy : (match exec (.declare 2 0x100) declaring with | .next t => t.i3c.running | _ => none) = some (11, 2, 0, []) := by decide +kernel

/-- Undervoltage switches a port off (R526). -/
theorem test_undervoltage : (match exec (.undervoltage 16000) (tripped 1 none) with | .next t => t.rf (F.CSI_LINK_POC_ON 15) | _ => 9) = 0 := by decide +kernel

end Sys2Proof.Tests
end

section
/-! Register accesses (R12, R280, R509, R544 to R547): what a read and a write of a register do, what a store to the library does
(R180), and the statement about both. -/

namespace Sys2Proof.Machine
open Sys2Proof

/-! ### Bits of a word -/

theorem bitAt_eq_testBit (v i : Nat) : bitAt v i = v.testBit i := by
  unfold bitAt
  rw [Nat.testBit_eq_decide_div_mod_eq, Nat.shiftRight_eq_div_pow]
  exact Bool.beq_eq_decide_eq _ _

theorem bitAt_mod_word (v : Nat) {i : Nat} (hi : i < 32) : bitAt (v % 2 ^ 32) i = bitAt v i := by
  rw [bitAt_eq_testBit, bitAt_eq_testBit, Nat.testBit_mod_two_pow, decide_eq_true hi, Bool.true_and]

/-- Masking a word with the complement of m clears the bits of m. -/
theorem bitAt_clear {m : Nat} (hm : m < 2 ^ 32) (v : Nat) {i : Nat} (hi : i < 32) :
    bitAt (v &&& (2 ^ 32 - 1 - m)) i = (bitAt v i && !bitAt m i) := by
  simp only [bitAt_eq_testBit, Nat.testBit_and]
  rw [show 2 ^ 32 - 1 - m = 2 ^ 32 - (m + 1) by omega, Nat.testBit_two_pow_sub_succ hm, decide_eq_true hi, Bool.true_and]

theorem leNat_lt (bs : List Byte) : leNat bs < 256 ^ bs.length := by
  induction bs with
  | nil => exact Nat.one_pos
  | cons b bs ih =>
    have hb : b.toNat < 256 := b.isLt
    rw [leNat, List.length_cons, Nat.pow_succ]
    omega

/-- Four bytes are one word. -/
theorem toNat_ofNat_leNat {bs : List Byte} (h : bs.length = 4) : (BitVec.ofNat 32 (leNat bs)).toNat = leNat bs := by
  have hl := leNat_lt bs
  rw [h] at hl
  exact Nat.mod_eq_of_lt hl

/-! ### Rows of the register tables -/

theorem regRows_mask_lt : ∀ r ∈ regRows, ∀ c ∈ [Acc.ro, .rw, .wo, .w1c, .rc], r.mask c < 2 ^ 32 := by decide +kernel

/-- Every field of a register lies inside its 32-bit word. -/
theorem mask_lt {a : Nat} {r : RegRow} (h : regRow? a = some r) (c : Acc) : r.mask c < 2 ^ 32 :=
  regRows_mask_lt r (List.mem_of_find?_eq_some h) c (by cases c <;> decide)

/-- A written word, bit by bit (R12, Table 0-6). -/
theorem bitAt_written {a : Nat} {r : RegRow} (h : regRow? a = some r) (old : Nat) {new i : Nat} (hn : new < 2 ^ 32) (hi : i < 32) :
    bitAt (r.written old new) i =
      if bitAt (r.mask .rw) i then bitAt new i else bitAt old i && !(bitAt (r.mask .w1c) i && bitAt new i) := by
  have hor : ∀ x y, bitAt (x ||| y) i = (bitAt x i || bitAt y i) := fun x y => by simp only [bitAt_eq_testBit, Nat.testBit_or]
  have hand : ∀ x y, bitAt (x &&& y) i = (bitAt x i && bitAt y i) := fun x y => by simp only [bitAt_eq_testBit, Nat.testBit_and]
  unfold RegRow.written
  rw [hor, bitAt_clear (Nat.and_lt_two_pow _ hn) _ hi, bitAt_clear (mask_lt h .rw) _ hi, hand, hand]
  cases bitAt (r.mask .rw) i <;> simp

theorem inMemories_of_inRegs {a : Nat} (h : inRegs a = true) : inMemories a = false := by
  simp only [inRegs, inMemories, Bool.or_eq_true, Bool.and_eq_true, decide_eq_true_eq, Bool.or_eq_false_iff, Bool.and_eq_false_iff,
    decide_eq_false_iff_not] at h ⊢
  omega

theorem exists_row_of_isLo {a : Nat} (h : isLo a = true) : ∃ r, regRow? a = some r ∧ r.base ∈ loBases := by
  unfold isLo at h
  split at h
  case h_1 r hr => exact ⟨r, hr, List.contains_iff_mem.1 h⟩
  case h_2 => exact absurd h Bool.false_ne_true

/-- The data register of the locket and the injection registers are no _LO registers. -/
theorem ordinary_of_isLo {a : Nat} (h : isLo a = true) : a ≠ A.SEC_LKT_DATA ∧ isInj a = false := by
  have hne : ∀ b ∈ [A.SEC_LKT_DATA, A.FLT_INJ_CTRL, A.FLT_INJ_ARG0, A.FLT_INJ_ARG1], a ≠ b := fun b hb e =>
    absurd (e ▸ h) (by
      rw [(by decide +kernel : ∀ b ∈ [A.SEC_LKT_DATA, A.FLT_INJ_CTRL, A.FLT_INJ_ARG0, A.FLT_INJ_ARG1], isLo b = false) b hb]
      exact Bool.false_ne_true)
  simp only [List.forall_mem_cons] at hne
  obtain ⟨hdata, hctrl, harg0, harg1, -⟩ := hne
  exact ⟨hdata, by simp [isInj, hctrl, harg0, harg1]⟩

/-! ### Writes -/

theorem State.setReg_eq (s : State) (a : Nat) (w : Word) : s.setReg a w = { s with regs := (s.setReg a w).regs } := rfl

theorem setReg_regs {s : State} (hs : smWf regReset s.regs) (a : Nat) (w : Word) : SameRegsBut s (s.setReg a w) [a] := fun b hb => by
  rw [State.reg_setReg hs, if_neg (fun e => hb (List.mem_singleton.2 e.symm))]

/-- A word stored in a register reads back bit by bit. -/
theorem bitAt_reg_setReg {s : State} (hs : smWf regReset s.regs) (a v : Nat) {i : Nat} (hi : i < 32) :
    bitAt ((s.setReg a (BitVec.ofNat 32 v)).reg a).toNat i = bitAt v i := by
  rw [State.reg_setReg hs, if_pos rfl, BitVec.toNat_ofNat, bitAt_mod_word _ hi]

theorem State.busError_eq (s : State) (r : Requester) : s.busError r = { s with sent := s.sent ++ [.bus r true []] } := rfl

theorem State.deny_busError_eq (s : State) (r : Requester) (a : Nat) :
    (s.deny r a).busError r = { s.deny r a with sent := s.sent ++ [.bus r true []] } := by
  rw [State.busError_eq, show (s.deny r a).sent = s.sent from State.send_sent _ _ _ _]

section
variable {s : State} {req : Requester} {mm : Bool} {a size value : Nat}

theorem State.writeReg_dead (h : inRegs a = false ∨ s.regAnswers a = false) : s.writeReg req mm a size value = s.busError req := by
  unfold State.writeReg
  rw [if_pos (by rcases h with h | h <;> simp [h])]

theorem State.readReg_dead (h : inRegs a = false ∨ s.regAnswers a = false) : s.readReg req mm a size = s.busError req := by
  unfold State.readReg
  rw [if_pos (by rcases h with h | h <;> simp [h])]

variable (hr : inRegs a = true) (ha : s.regAnswers a = true)
include hr ha

theorem State.writeReg_misfit (h : size ≠ 4 ∨ a % 4 ≠ 0) : s.writeReg req mm a size value = (s.deny req a).busError req := by
  unfold State.writeReg
  rw [if_neg (by simp [hr, ha]), if_pos h]

variable (hal : a % 4 = 0)
include hal

theorem State.writeReg_forbidden (hw : s.mayWrite req mm a = false) : s.writeReg req mm a 4 value = s.deny req a := by
  unfold State.writeReg
  rw [if_neg (by simp [hr, ha]), if_neg (by simp [hal]), if_pos (by simp [hw])]

theorem State.writeReg_allowed {row : RegRow} (hw : s.mayWrite req mm a = true) (hrow : regRow? a = some row)
    (hown : ownRows.contains row.base = false) :
    s.writeReg req mm a 4 value = s.setReg a (BitVec.ofNat 32 (row.written (s.reg a).toNat value)) := by
  unfold State.writeReg
  rw [if_neg (by simp [hr, ha]), if_neg (by simp [hal]), if_neg (by simp [hw]), hrow]
  dsimp only
  rw [hown, if_neg Bool.false_ne_true]

/-! ### Reads -/

/-- A read that no latch, no injection register and no locket stands before answers what the register shows. -/
theorem State.readReg_shown (hwin : req ≠ .i3c ∨ inWindowRange a = true) (hdata : a ≠ A.SEC_LKT_DATA) (hinj : isInj a = false)
    (hlatch : smFind s.latches (latchKey req a) = none) :
    s.readReg req mm a 4 = ((s.takeLatches req a).out (.bus req false (leBytes 4 (s.regShown a)))).readClear req a := by
  have hw : s.readWord req a = (s.regShown a, s.takeLatches req a) := by
    unfold State.readWord
    rw [hlatch]
  unfold State.readReg
  rw [if_neg (by simp [hr, ha]), if_neg (by simp [hal]), if_neg (by rcases hwin with h | h <;> simp [h]), if_neg (by simp [hdata]),
    if_neg (by simp [hinj]), hw]

end

/-- A read clears the RC fields of its register and nothing more, or there is nothing it may clear (R12, R509). -/
theorem State.readClear_cases {s : State} {a : Nat} {r : RegRow} (h : regRow? a = some r) (hb : r.base ≠ A.CSI_I2C_RD 0 0) (req : Requester) :
    (req = .i3c ∨ r.mask .rc = 0) ∧ s.readClear req a = s ∨
      req ≠ .i3c ∧ s.readClear req a = s.setReg a (BitVec.ofNat 32 ((s.reg a).toNat &&& (2 ^ 32 - 1 - r.mask .rc))) := by
  unfold State.readClear
  rw [h]
  dsimp only
  by_cases hreq : req = .i3c
  · exact .inl ⟨.inl hreq, if_pos hreq⟩
  rw [if_neg hreq, if_neg (by simpa using hb)]
  by_cases hm : r.mask .rc = 0
  · exact .inl ⟨.inr hm, if_pos hm⟩
  · exact .inr ⟨hreq, if_neg hm⟩

section
variable {s : State} {a : Nat} {r : RegRow} (h : regRow? a = some r) (hb : r.base ≠ A.CSI_I2C_RD 0 0) (req : Requester)
include h hb

theorem State.readClear_eq : s.readClear req a = { s with regs := (s.readClear req a).regs } := by
  rcases State.readClear_cases (s := s) h hb req with ⟨-, e⟩ | ⟨-, e⟩
  · rw [e]
  · rw [e]; exact State.setReg_eq _ _ _

theorem State.readClear_sent : (s.readClear req a).sent = s.sent := by rw [State.readClear_eq h hb req]
theorem State.readClear_mem : (s.readClear req a).mem = s.mem := by rw [State.readClear_eq h hb req]
theorem State.readClear_latches : (s.readClear req a).latches = s.latches := by rw [State.readClear_eq h hb req]

theorem readClear_regs (hs : smWf regReset s.regs) : SameRegsBut s (s.readClear req a) [a] := by
  rcases State.readClear_cases (s := s) h hb req with ⟨-, e⟩ | ⟨-, e⟩
  · rw [e]; exact fun _ _ => rfl
  · rw [e]; exact setReg_regs hs _ _

theorem bitAt_reg_readClear (hs : smWf regReset s.regs) {i : Nat} (hi : i < 32) :
    bitAt ((s.readClear req a).reg a).toNat i = (bitAt (s.reg a).toNat i && !(decide (req ≠ .i3c) && bitAt (r.mask .rc) i)) := by
  rcases State.readClear_cases (s := s) h hb req with ⟨hnone, e⟩ | ⟨hreq, e⟩
  · have hrc : (decide (req ≠ .i3c) && bitAt (r.mask .rc) i) = false := by
      rcases hnone with rfl | hm
      · rfl
      · rw [hm, bitAt_eq_testBit, Nat.zero_testBit, Bool.and_false]
    rw [e, hrc, Bool.not_false, Bool.and_true]
  · rw [e, bitAt_reg_setReg hs _ _ hi, bitAt_clear (mask_lt h .rc) _ hi, decide_eq_true hreq, Bool.true_and]

end

theorem State.takeLatches_of_not_lo {s : State} {a : Nat} (h : isLo a = false) (req : Requester) : s.takeLatches req a = s := by
  unfold State.takeLatches
  rw [h, if_neg Bool.false_ne_true]

theorem State.takeLatches_sent (s : State) (req : Requester) (a : Nat) : (s.takeLatches req a).sent = s.sent := by
  unfold State.takeLatches
  split <;> rfl

theorem State.takeLatches_mem (s : State) (req : Requester) (a : Nat) : (s.takeLatches req a).mem = s.mem := by
  unfold State.takeLatches
  split <;> rfl

/-- A read of a _LO register latches what its _HI shows (R280, R547). -/
theorem State.takeLatches_hi {s : State} {a : Nat} (h : isLo a = true) (req : Requester) :
    smFind (s.takeLatches req a).latches (latchKey req (a + 4)) = some (s.regShown (a + 4)) := by
  have hkey : ∀ x y, x ≠ y → latchKey req x ≠ latchKey req y := fun x y hxy e => hxy (Nat.add_left_cancel e)
  unfold State.takeLatches latchedBy
  rw [if_pos h]
  split
  · simp only [List.foldl_cons, List.foldl_nil]
    rw [smFind_insert, if_neg (hkey _ _ (by omega)), smFind_insert, if_neg (hkey _ _ (by omega)), smFind_insert, if_pos rfl]
  · simp only [List.foldl_cons, List.foldl_nil]
    rw [smFind_insert, if_pos rfl]

/-! ### Stores to memory -/

/-- A list of values reads back as it was written. -/
theorem smGetList_setList {α : Type} [DecidableEq α] {d : Nat → α} {m : List (Nat × α)} (hw : smWf d m) (a : Nat) (xs : List α) :
    smGetList d (smSetList d m a xs) a xs.length = xs := by
  induction xs generalizing m a with
  | nil => rfl
  | cons x xs ih =>
    rw [smSetList, List.length_cons, smGetList, ih (smWf_set hw a x), smGet_setList_outside (smWf_set hw a x) _ _ _ (.inl (Nat.lt_succ_self a)),
      smGet_set hw, if_pos rfl]

section
variable {s : State} (hs : Memory.wf s.mem = true) (k : Nat) (bs : List Byte)
include hs

theorem State.rdN_wrN : (s.wrN k bs).rdN k bs.length = bs := smGetList_setList ((smWfB_iff _).1 hs) k bs

theorem sameMemBut_wrN : SameMemBut s (s.wrN k bs) k bs.length := fun b hb => smGet_setList_outside ((smWfB_iff _).1 hs) k b bs hb

end

/-- With every bank on and no injection armed, a store writes its bytes and gives their words valid check bits. -/
theorem State.store_plain {s : State} (hbank : s.memc.bankOff = []) (hsram : s.inj.sram = none) (hhbm : s.inj.hbm = none) (k : Nat)
    (bs : List Byte) : s.store k bs = (s.wrN k bs).clearEcc (eccGranule k) (k + bs.length - eccGranule k) := by
  have hoff : s.offBanks k bs.length = [] := by
    unfold State.offBanks
    rw [hbank]
    rfl
  unfold State.store
  rw [hoff]
  dsimp only [State.clearEcc]
  rw [State.wrN_inj, hsram]
  dsimp only
  rw [hhbm]
  rfl

/-- A store of 8 bytes to the library: where writes are limited, only into the image's windows (R180). -/
theorem State.cpAccess_library {s : State} (hoff : s.pstate ≠ .off) (hpark : s.parked = false) (r : Requester) {a : Nat} (size : Nat)
    {data : List Byte} (hd : data.length = 8) (hlo : 0x1000000000 ≤ a) (hhi : a + 8 ≤ 0x1008000000) (hal : a % 8 = 0) :
    s.cpAccess r 1 a size data =
      if s.limited && !s.inWindow a 8 then (s.ocmAccess r 2 2 a).busError r else (s.store a data).out (.bus r false []) := by
  unfold State.cpAccess
  simp only [Nat.one_ne_zero, if_false, hd]
  rw [if_neg (by simp [hoff, hpark]), if_neg (by decide : ¬(8 = 0)), if_neg (by omega), if_pos ⟨hlo, hhi⟩,
    if_pos (c := _ ∨ _) (.inr ⟨trivial, trivial, hal⟩)]

/-! ### The commands -/

section
variable (s : State) (req : Requester) (mm : Bool) (a : BitVec 40) (size : Fin 65) (v : BitVec 32)

theorem exec_registerWrite : exec (.registerWrite req mm a size v) s =
    .next (if inMemories a.toNat then s else s.writeReg req mm a.toNat size.val v.toNat) := (apply_ite Host.Outcome.next _ _ _).symm

theorem exec_readClear : exec (.readClear req mm a size) s =
    .next (if inMemories a.toNat then s else s.readReg req mm a.toNat size.val) := (apply_ite Host.Outcome.next _ _ _).symm

theorem exec_loLatchRead {a : BitVec 40} (h : isLo a.toNat = true) : exec (.loLatchRead req mm a) s = .next (s.readReg req mm a.toNat 4) :=
  if_pos h

theorem exec_controlPairAccess {req : Requester} (h : req ≠ .i3c ∧ req ≠ .dbg) (kind : Fin 3) (data : List Byte) :
    exec (.controlPairAccess req mm kind a size data) s = .next (s.busAccess req mm kind.val a.toNat size.val data) :=
  if_neg (by simp [h])

theorem exec_debugSysbusAccess (hart kind : Fin 3) (data : List Byte) : exec (.debugSysbusAccess hart kind a size data) s =
    .next (if s.dbgOpen hart.val && (s.hart hart.val).attached && bitAt s.sec.scope 2 then
      s.busAccess .dbg true kind.val a.toNat size.val data else s) := (apply_ite Host.Outcome.next _ _ _).symm

/-- An access of the bus to a register reads it. -/
theorem exec_readClear_eq_busAccess (hr : inRegs a.toNat = true) (data : List Byte) :
    exec (.readClear req mm a size) s = .next (s.busAccess req mm 0 a.toNat size.val data) := by
  rw [exec_readClear, inMemories_of_inRegs hr]
  unfold State.busAccess
  rw [if_pos hr, if_pos rfl, if_neg Bool.false_ne_true]

/-- A store of one word on the bus to a register writes it. -/
theorem exec_registerWrite_eq_busAccess (hr : inRegs a.toNat = true) {data : List Byte} (hd : data.length = 4) (hsize : size.val = 4) :
    exec (.registerWrite req mm a size (BitVec.ofNat 32 (leNat data))) s = .next (s.busAccess req mm 1 a.toNat size.val data) := by
  rw [exec_registerWrite, inMemories_of_inRegs hr, toNat_ofNat_leNat hd]
  unfold State.busAccess
  rw [if_pos hr, if_neg Nat.one_ne_zero, hd, hsize, if_neg Bool.false_ne_true]

end

/-! ### Parts of the statement -/

section
variable {s : State} {req : Requester} {mm : Bool} {a : BitVec 40} {size : Fin 65} {v : BitVec 32}

theorem registerAccess_dead (hm : inMemories a.toNat = false) (h : inRegs a.toNat = false ∨ s.regAnswers a.toNat = false) (c : Instr)
    (hc : c = .registerWrite req mm a size v ∨ c = .readClear req mm a size) :
    ∃ t : State, exec c s = .next t ∧ t = { s with sent := s.sent ++ [.bus req true []] } := by
  refine ⟨s.busError req, ?_, State.busError_eq s req⟩
  rcases hc with rfl | rfl
  · rw [exec_registerWrite, hm, if_neg Bool.false_ne_true, State.writeReg_dead h]
  · rw [exec_readClear, hm, if_neg Bool.false_ne_true, State.readReg_dead h]

variable (hs : s.Sound) (hr : inRegs a.toNat = true) (ha : s.regAnswers a.toNat = true)
include hs hr ha

theorem registerWrite_misfit (h : size.val ≠ 4 ∨ a.toNat % 4 ≠ 0) : ∃ t u : State, exec (.registerWrite req mm a size v) s = .next t ∧
    Denied s u req a.toNat ∧ t = { u with sent := s.sent ++ [.bus req true []] } := by
  refine ⟨_, s.deny req a.toNat, ?_, deny_denied hs.regs req a.toNat, State.deny_busError_eq s req a.toNat⟩
  rw [exec_registerWrite, inMemories_of_inRegs hr, if_neg Bool.false_ne_true, State.writeReg_misfit hr ha h]

theorem registerWrite_forbidden (hsize : size.val = 4) (hal : a.toNat % 4 = 0) (hw : s.mayWrite req mm a.toNat = false) :
    ∃ t : State, exec (.registerWrite req mm a size v) s = .next t ∧ Denied s t req a.toNat := by
  refine ⟨_, ?_, deny_denied hs.regs req a.toNat⟩
  rw [exec_registerWrite, inMemories_of_inRegs hr, if_neg Bool.false_ne_true, hsize, State.writeReg_forbidden hr ha hal hw]

theorem registerWrite_allowed {row : RegRow} (hsize : size.val = 4) (hal : a.toNat % 4 = 0) (hw : s.mayWrite req mm a.toNat = true)
    (hrow : regRow? a.toNat = some row) (hown : ownRows.contains row.base = false) :
    ∃ t : State, exec (.registerWrite req mm a size v) s = .next t ∧ t = { s with regs := t.regs } ∧ SameRegsBut s t [a.toNat] ∧
      ∀ i, i < 32 → bitAt (t.reg a.toNat).toNat i =
        if bitAt (row.mask .rw) i then bitAt v.toNat i else bitAt (s.reg a.toNat).toNat i && !(bitAt (row.mask .w1c) i && bitAt v.toNat i) := by
  refine ⟨s.setReg a.toNat (BitVec.ofNat 32 (row.written (s.reg a.toNat).toNat v.toNat)), ?_, State.setReg_eq s _ _,
    setReg_regs hs.regs _ _, fun i hi => ?_⟩
  · rw [exec_registerWrite, inMemories_of_inRegs hr, if_neg Bool.false_ne_true, hsize, State.writeReg_allowed hr ha hal hw hrow hown]
  · rw [bitAt_reg_setReg hs.regs _ _ hi, bitAt_written hrow _ v.isLt hi]

theorem readClear_unlatched {row : RegRow} (hsize : size.val = 4) (hal : a.toNat % 4 = 0) (hrow : regRow? a.toNat = some row)
    (hbase : row.base ≠ A.CSI_I2C_RD 0 0) (hdata : a.toNat ≠ A.SEC_LKT_DATA) (hinj : isInj a.toNat = false) (hlo : isLo a.toNat = false)
    (hlatch : smFind s.latches (latchKey req a.toNat) = none) (hwin : req ≠ .i3c ∨ inWindowRange a.toNat = true) :
    ∃ t : State, exec (.readClear req mm a size) s = .next t ∧ t.sent = s.sent ++ [.bus req false (leBytes 4 (s.regShown a.toNat))] ∧
      t = { s with regs := t.regs, sent := t.sent } ∧ SameRegsBut s t [a.toNat] ∧
      ∀ i, i < 32 → bitAt (t.reg a.toNat).toNat i =
        (bitAt (s.reg a.toNat).toNat i && !(decide (req ≠ .i3c) && bitAt (row.mask .rc) i)) := by
  have hsent (u : State) : (u.readClear req a.toNat).sent = u.sent := State.readClear_sent hrow hbase req
  refine ⟨(s.out (.bus req false (leBytes 4 (s.regShown a.toNat)))).readClear req a.toNat, ?_, hsent _, ?_, readClear_regs hrow hbase req hs.regs,
    fun i hi => bitAt_reg_readClear (s := s.out _) hrow hbase req hs.regs hi⟩
  · rw [exec_readClear, inMemories_of_inRegs hr, if_neg Bool.false_ne_true, hsize, State.readReg_shown hr ha hal hwin hdata hinj hlatch,
      State.takeLatches_of_not_lo hlo]
  · rw [hsent]
    exact State.readClear_eq hrow hbase req

omit hs in
theorem loLatchRead_latches (hal : a.toNat % 4 = 0) (hlo : isLo a.toNat = true) (hlatch : smFind s.latches (latchKey req a.toNat) = none)
    (hwin : req ≠ .i3c ∨ inWindowRange a.toNat = true) :
    ∃ t : State, exec (.loLatchRead req mm a) s = .next t ∧ t.sent = s.sent ++ [.bus req false (leBytes 4 (s.regShown a.toNat))] ∧
      smFind t.latches (latchKey req (a.toNat + 4)) = some (s.regShown (a.toNat + 4)) ∧ SameMem s t := by
  obtain ⟨hdata, hinj⟩ := ordinary_of_isLo hlo
  obtain ⟨row, hrow, hmem⟩ := exists_row_of_isLo hlo
  have hbase : row.base ≠ A.CSI_I2C_RD 0 0 := ne_of_mem_of_not_mem hmem (by decide)
  refine ⟨_, exec_loLatchRead s req mm hlo, ?_⟩
  rw [State.readReg_shown hr ha hal hwin hdata hinj hlatch, State.readClear_sent hrow hbase, State.readClear_latches hrow hbase]
  refine ⟨congrArg (· ++ _) (State.takeLatches_sent s req a.toNat), State.takeLatches_hi hlo req, State.rd_of_mem ?_⟩
  rw [State.readClear_mem hrow hbase, State.out_mem, State.takeLatches_mem]

end

section
variable {s : State} {req : Requester} (mm : Bool) {a : BitVec 40} (size : Fin 65) {data : List Byte} (hreq : req = .cp0 ∨ req = .cp1)
  (hd : data.length = 8) (hlo : 0x1000000000 ≤ a.toNat) (hhi : a.toNat + 8 ≤ 0x1008000000) (hal : a.toNat % 8 = 0)
include hreq hd hlo hhi hal

theorem exec_libraryStore (hoff : s.pstate ≠ .off) (hpark : s.pstate ≠ .park) : exec (.controlPairAccess req mm 1 a size data) s =
    .next (if s.limited && !s.inWindow a.toNat 8 then (s.ocmAccess req 2 2 a.toNat).busError req
      else (s.store a.toNat data).out (.bus req false [])) := by
  have hnr : inRegs a.toNat = false := by
    simp only [inRegs, Bool.or_eq_false_iff, Bool.and_eq_false_iff, decide_eq_false_iff_not]
    omega
  rw [exec_controlPairAccess s mm a size (by rcases hreq with rfl | rfl <;> simp)]
  unfold State.busAccess
  rw [hnr, if_neg Bool.false_ne_true]
  exact congrArg _ (State.cpAccess_library hoff (by simp [State.parked, hpark]) req size.val hd hlo hhi hal)

theorem libraryStore_unlimited (hs : s.Sound) (hp : s.pstate = .boot ∨ s.pstate = .maint) (hbank : s.memc.bankOff = [])
    (hsram : s.inj.sram = none) (hhbm : s.inj.hbm = none) :
    ∃ t : State, exec (.controlPairAccess req mm 1 a size data) s = .next t ∧ t.rdN a.toNat 8 = data ∧ SameMemBut s t a.toNat 8 ∧
      t.sent = s.sent ++ [.bus req false []] ∧ t.regs = s.regs := by
  have hlim : s.limited = false := by rcases hp with h | h <;> simp [State.limited, h]
  have hmem : ((s.store a.toNat data).out (.bus req false [])).mem = (s.wrN a.toNat data).mem := by
    rw [State.store_plain hbank hsram hhbm]; rfl
  refine ⟨(s.store a.toNat data).out (.bus req false []), ?_, ?_, fun k hk => ?_, ?_, ?_⟩
  · rw [exec_libraryStore mm size hreq hd hlo hhi hal (by rcases hp with h | h <;> simp [h]) (by rcases hp with h | h <;> simp [h]), hlim,
      Bool.false_and, if_neg Bool.false_ne_true]
  · rw [State.rdN_of_mem hmem, ← hd]
    exact State.rdN_wrN hs.mem _ _
  · rw [State.rd_of_mem hmem]
    exact sameMemBut_wrN hs.mem _ _ k (hd.symm ▸ hk)
  · rw [State.store_plain hbank hsram hhbm]; rfl
  · rw [State.store_plain hbank hsram hhbm]; rfl

theorem libraryStore_outside_windows (hp : s.pstate = .run ∨ s.pstate = .safe ∨ s.pstate = .halt) (hwin : s.inWindow a.toNat 8 = false) :
    ∃ t : State, exec (.controlPairAccess req mm 1 a size data) s = .next t ∧ SameMem s t ∧ t.sent = s.sent ++ [.bus req true []] ∧
      SentMsg s t (if req = .cp1 then 0x8F1 else 0x8F0) .OCM_ACCESS (2 * 2 ^ 36 + 2 * 2 ^ 33 + a.toNat % 2 ^ 33) := by
  have hlim : s.limited = true := by rcases hp with h | h | h <;> simp [State.limited, h]
  refine ⟨(s.ocmAccess req 2 2 a.toNat).busError req, ?_, State.rd_of_mem (State.send_mem _ _ _ _), ?_, ?_⟩
  · rw [exec_libraryStore mm size hreq hd hlo hhi hal (by rcases hp with h | h | h <;> simp [h]) (by rcases hp with h | h | h <;> simp [h]),
      hlim, hwin, Bool.true_and, Bool.not_false, if_pos rfl]
  · exact congrArg (· ++ _) (State.send_sent _ _ _ _)
  · rcases hreq with rfl | rfl <;> exact send_sent _ _ _ _

end

end Sys2Proof.Machine

namespace Sys2Proof.Proofs
open Sys2Proof Sys2Proof.Machine

/-- Settles O60: each clause is one of the parts above; the accesses of the control pairs and of the debugger to a register are the bus
access that READ_CLEAR and REGISTER_WRITE make. -/
theorem registerAccesses : Obligations.RegisterAccesses := by
  intro s req mm a size v hs
  refine ⟨fun hm => ?_, registerAccess_dead, fun hr ha => ?_, fun hart kind data hclosed => ?_, fun data hreq hd hlo hhi hal => ?_⟩
  · rw [exec_registerWrite, exec_readClear, hm, if_pos rfl, if_pos rfl]
    exact ⟨rfl, rfl⟩
  · refine ⟨registerWrite_misfit hs hr ha, registerWrite_forbidden hs hr ha, fun _ => registerWrite_allowed hs hr ha,
      fun _ => readClear_unlatched hs hr ha, loLatchRead_latches hr ha, fun data hreq => ?_, fun hart data hopen hatt hscope => ?_⟩
    · have hpair : req ≠ .i3c ∧ req ≠ .dbg := by rcases hreq with rfl | rfl | rfl <;> simp
      rw [exec_controlPairAccess s mm a size hpair, exec_controlPairAccess s mm a size hpair]
      exact ⟨(exec_readClear_eq_busAccess s req mm a size hr data).symm,
        fun hd hsize => (exec_registerWrite_eq_busAccess s req mm a size hr hd hsize).symm⟩
    · rw [exec_debugSysbusAccess, exec_debugSysbusAccess, hopen, hatt, hscope]
      exact ⟨(exec_readClear_eq_busAccess s .dbg true a size hr data).symm,
        fun hd hsize => (exec_registerWrite_eq_busAccess s .dbg true a size hr hd hsize).symm⟩
  · rw [exec_debugSysbusAccess, if_neg (by rcases hclosed with h | h | h <;> simp [h])]
  · exact ⟨libraryStore_unlimited mm size hreq hd hlo hhi hal hs, libraryStore_outside_windows mm size hreq hd hlo hhi hal⟩

end Sys2Proof.Proofs
end

section
/-! One bell (R17, R25, R26, R290): what BELL_EDGE starts, and what HEALTH_POINT and GATE_POINT judge. -/

namespace Sys2Proof.Machine
open Sys2Proof

/-! ### The bell that a state holds -/

section
variable {s : State}

theorem Fire.fields {b : Bell} (h : Fire b.core s) : s.bell.n = b.n ∧ s.bell.edge = b.edge ∧ s.bell.running = b.running ∧
    s.bell.verdict = b.verdict ∧ s.bell.healthDone = b.healthDone ∧ s.bell.gateDone = b.gateDone ∧ s.bell.gatePassed = b.gatePassed ∧
    s.bell.phase2Done = b.phase2Done ∧ s.bell.hbDone = b.hbDone ∧ s.bell.reloadDone = b.reloadDone := by
  simp only [Fire, Bell.core, Prod.mk.injEq] at h
  obtain ⟨hn, hedge, -, hrunning, hverdict, hhealth, hgate, hpassed, hphase2, hhb, hreload⟩ := h
  exact ⟨hn, hedge, hrunning, hverdict, hhealth, hgate, hpassed, hphase2, hhb, hreload⟩

/-! ### What the passing of time keeps -/

theorem advanceTo_frame {α : Type} (g : State → α) (hnow : ∀ (s : State) n u, g { s with now := n, tsu := u } = g s)
    (hcoll : ∀ (s : State) c u, g { s with coll := c, tsu := u } = g s) (hsend : ∀ (s : State) src k a, g (s.send src k a) = g s)
    (s : State) (t : Nat) : g (s.advanceTo t) = g s := by
  unfold State.advanceTo State.advance
  split
  · rfl
  · exact (rollBell_frame g (fun s c _ => hcoll s c _) hsend _).trans (hnow s _ _)

@[simp] theorem State.advanceTo_bell (s : State) (t : Nat) : (s.advanceTo t).bell = s.bell :=
  advanceTo_frame (·.bell) (fun _ _ _ => rfl) (fun _ _ _ => rfl) State.send_bell s t
@[simp] theorem State.advanceTo_alive (s : State) (t : Nat) : (s.advanceTo t).alive = s.alive :=
  advanceTo_frame (·.alive) (fun _ _ _ => rfl) (fun _ _ _ => rfl) State.send_alive s t
@[simp] theorem State.advanceTo_replay (s : State) (t : Nat) : (s.advanceTo t).replay = s.replay :=
  advanceTo_frame (·.replay) (fun _ _ _ => rfl) (fun _ _ _ => rfl) State.send_replay s t

/-! ### BELL_EDGE -/

theorem fire_startBell (s : State) (n edge : Nat) :
    Fire ((s.advance (s.now % 2)).bellOf n edge).bell.core (s.startBell n edge false) :=
  fire_takeSnapshot (fire_digestEdge (fire_startSeqs (fire_freshTt (fire_rollBell rfl))))

theorem State.edgeAsk_unasked (go : State → State) (hmaint : s.flag F.PWR_STATE_MAINT_PENDING = false)
    (hpark : s.flag F.PWR_STATE_PARK_PENDING = false) : s.edgeAsk go = go (s.wf F.PWR_STATE_PARK_PENDING 0) := by
  unfold State.edgeAsk
  rw [hmaint, hpark]
  rfl

theorem State.heldStep_none (h : s.tsu.held = none) : s.heldStep = s := by
  unfold State.heldStep
  rw [h]

theorem exec_bellEdge_running (hperiod : s.bellPeriod ≠ 0) (hreplay : s.replay = none) (hon : s.pstate ≠ .off)
    (hrun : s.bell.running = true) : exec .bellEdge s = .next s.runningEdge := by
  show execBellEdge s = _
  unfold execBellEdge
  rw [if_neg (by simp only [hperiod, hreplay, hon, Option.isSome_none, Bool.false_eq_true, or_self, not_false_eq_true]), if_pos hrun]

/-- The end of a bell leaves its number and its boundaries, so the edge that follows is the one that was due. -/
theorem State.runningEdge_startsBell {e : State} (hrun : s.bell.running = true) (he : e = (s.advanceToNs s.bell.nextB).endBell)
    (hheld : e.tsu.held = none) (hmaint : e.flag F.PWR_STATE_MAINT_PENDING = false) (hpark : e.flag F.PWR_STATE_PARK_PENDING = false) :
    ∃ u : State, s.runningEdge = u.startBell (s.bell.n + 1) s.bell.nextB false := by
  have hfire : Fire s.bell.core (e.wf F.PWR_STATE_PARK_PENDING 0) := he ▸ fire_wf (fire_endBell (fire_advanceToNs rfl))
  obtain ⟨hn, -, hstill, -⟩ := hfire.fields
  have hnext : (e.wf F.PWR_STATE_PARK_PENDING 0).bell.nextB = s.bell.nextB := congrArg (·.2.2.1) hfire
  unfold State.runningEdge
  rw [← he, State.heldStep_none hheld, State.edgeAsk_unasked _ hmaint hpark, if_pos (hstill.trans hrun)]
  unfold State.nextBell
  rw [hn, hnext]
  exact ⟨_, rfl⟩

/-! ### HEALTH_POINT -/

/-- Every sequencer that runs is at its end, and none met a code error (R25). -/
def State.allEnded (s : State) : Bool :=
  (List.range 64).all fun n => !(s.seqOf n).codeUe && (!(s.seqOf n).runs || s.flag (F.TT_STATUS_ENDED (s.phys n)))

theorem State.allEnded_iff : s.allEnded = true ↔
    ∀ n < 64, (s.seqOf n).codeUe = false ∧ ((s.seqOf n).runs = true → s.flag (F.TT_STATUS_ENDED (s.phys n)) = true) := by
  have hends : ∀ r f : Bool, (r = false ∨ f = true) ↔ (r = true → f = true) := by decide
  simp only [State.allEnded, List.all_eq_true, List.mem_range, Bool.and_eq_true, Bool.or_eq_true, Bool.not_eq_true', hends]

/-- The verdict that a health point forms (R25). -/
def State.healthOk (s : State) : Bool := s.allEnded && !s.bell.bad && decide (s.pstate ≠ .halt)

theorem State.healthOk_iff : s.healthOk = true ↔ s.bell.bad = false ∧ s.pstate ≠ .halt ∧
    ∀ n < 64, (s.seqOf n).codeUe = false ∧ ((s.seqOf n).runs = true → s.flag (F.TT_STATUS_ENDED (s.phys n)) = true) := by
  rw [← State.allEnded_iff, State.healthOk, Bool.and_eq_true, Bool.and_eq_true, Bool.not_eq_true', decide_eq_true_iff]
  exact and_assoc.trans (and_comm.trans and_assoc)

theorem healthPoint_judges (hrun : s.bell.running = true) (hopen : s.bell.healthDone = false) :
    ∃ t : State, exec .healthPoint s = .next t ∧ t.bell.healthDone = true ∧ t.bell.n = s.bell.n ∧
      t.bell.verdict = (s.advanceTo (s.bell.start + 2 * s.healthAt)).healthOk := by
  show ∃ t, execHealthPoint s = _ ∧ _
  unfold execHealthPoint
  rw [hrun, hopen, if_neg (by decide)]
  extract_lets +onlyGivenNames h ended ok b judged
  have hbell : h.bell = s.bell := State.advanceTo_bell s _
  have hfire : Fire judged.bell.core (if judged.pstate = .halt then judged else judged.phase1 ended) := fire_ite rfl (fire_phase1 rfl)
  obtain ⟨hn, -, -, hverdict, hhealth, -⟩ := hfire.fields
  exact ⟨_, rfl, hhealth, hn.trans (show h.bell.n = s.bell.n from congrArg Bell.n hbell), hverdict⟩

/-! ### GATE_POINT -/

@[simp] theorem State.setPState_alive (s : State) (p : PState) : (s.setPState p).alive = s.alive := by
  unfold State.setPState
  split <;> rfl

@[simp] theorem State.sendIbi_alive (s : State) : s.sendIbi.alive = s.alive := by
  unfold State.sendIbi
  split
  · rfl
  · split <;> rfl

@[simp] theorem State.raiseIbi_alive (s : State) : s.raiseIbi.alive = s.alive := State.sendIbi_alive _

@[simp] theorem State.endRecovery_alive (s : State) : s.endRecovery.alive = s.alive := by
  unfold State.endRecovery State.sendSafeExit
  split
  · exact State.send_alive _ _ _ _
  · rfl

@[simp] theorem State.sendHeartbeat_alive (s : State) : s.sendHeartbeat.alive = s.alive := by
  unfold State.sendHeartbeat
  split <;> rfl

theorem State.recoveryGate_toggling (s : State) (pass : Bool) : (s.recoveryGate pass).alive.toggling = s.alive.toggling := by
  unfold State.recoveryGate
  split
  · rfl
  split
  · rw [State.endRecovery_alive]
  split
  · rw [State.raiseIbi_alive, State.setPState_alive]
  · rfl

theorem State.aliveGate_toggling (s : State) (pass : Bool) (cause : Nat) :
    (s.aliveGate pass cause).alive.toggling = (s.alive.toggling && pass) := by
  unfold State.aliveGate
  cases pass with
  | true =>
    rw [if_pos rfl, Bool.and_true]
    split <;> rfl
  | false =>
    rw [if_neg Bool.false_ne_true, Bool.and_false]
    cases h : s.alive.toggling with
    | true => exact congrArg Alive.toggling (State.send_alive _ _ _ _)
    | false => exact h

/-- The gate of the bell that a state holds passes: a healthy verdict, and CP0's heartbeat of this bell (R26; log 28). -/
def Bell.gateOk (b : Bell) : Bool := b.verdict && b.hb.contains (b.n % 2 ^ 32)

theorem Bell.gateOk_iff {b : Bell} : b.gateOk = true ↔ b.verdict = true ∧ b.n % 2 ^ 32 ∈ b.hb := by
  simp only [Bell.gateOk, Bool.and_eq_true, List.contains_iff_mem]

/-- What a gate does outside a replay; `n` is the bell it judged. -/
def State.afterGate (s : State) (n : Nat) (pass : Bool) (cause : Nat) : State :=
  have t := (s.recoveryGate pass).aliveGate pass cause
  (if t.jx.joinBell == some n then { t with jx := { t.jx with joinBell := none } } else t).sendHeartbeat

theorem fire_afterGate {fb} (n : Nat) (pass : Bool) (cause : Nat) (h : Fire fb s) : Fire fb (s.afterGate n pass cause) :=
  have hgate := fire_aliveGate (cause := cause) (fire_recoveryGate (pass := pass) h)
  fire_sendHeartbeat (fire_ite (fire_of hgate) hgate)

theorem State.afterGate_toggling (s : State) (n : Nat) (pass : Bool) (cause : Nat) :
    (s.afterGate n pass cause).alive.toggling = (s.alive.toggling && pass) := by
  unfold State.afterGate
  rw [State.sendHeartbeat_alive, ← State.recoveryGate_toggling s pass, ← State.aliveGate_toggling _ pass cause]
  dsimp only
  split <;> rfl

/-- The judged state `u` holds the verdict of the gate; outside a replay ALIVE and recovery follow it. -/
theorem exec_gatePoint (hrun : s.bell.running = true) (hhealth : s.bell.healthDone = true) (hopen : s.bell.gateDone = false) :
    ∃ (u : State) (cause : Nat), exec .gatePoint s =
        .next (if s.replay.isSome then u else u.afterGate s.bell.n s.bell.gateOk cause) ∧
      u.bell.gateDone = true ∧ u.bell.gatePassed = s.bell.gateOk ∧ u.alive = s.alive := by
  show ∃ u cause, execGatePoint s = _ ∧ _
  unfold execGatePoint
  rw [hrun, hhealth, hopen, if_neg (by decide)]
  extract_lets +onlyGivenNames h n hb pass cause keep b judged u
  have hbell : h.bell = s.bell := State.advanceTo_bell s _
  have hpass : pass = s.bell.gateOk := congrArg Bell.gateOk hbell
  have hu : u.bell = judged.bell ∧ u.alive = h.alive ∧ u.replay = h.replay := by
    unfold u
    split <;> exact ⟨rfl, rfl, rfl⟩
  obtain ⟨hjudged, halive, hreplay⟩ := hu
  refine ⟨u, cause, ?_, congrArg Bell.gateDone hjudged, (congrArg Bell.gatePassed hjudged).trans hpass,
    halive.trans (State.advanceTo_alive s _)⟩
  rw [← hpass, ← hbell, ← State.advanceTo_replay s, ← hreplay]
  exact (apply_ite Host.Outcome.next _ _ _).symm

/-- A gate stops ALIVE when it fails outside a replay, and at no other time. -/
theorem gatePoint_judges (hrun : s.bell.running = true) (hhealth : s.bell.healthDone = true) (hopen : s.bell.gateDone = false) :
    ∃ t : State, exec .gatePoint s = .next t ∧ t.bell.gateDone = true ∧ t.bell.gatePassed = s.bell.gateOk ∧
      t.alive.toggling = (s.alive.toggling && (s.bell.gateOk || s.replay.isSome)) := by
  obtain ⟨u, cause, hexec, hdone, hpassed, halive⟩ := exec_gatePoint hrun hhealth hopen
  refine ⟨_, hexec, ?_⟩
  split
  case isTrue hreplay => exact ⟨hdone, hpassed, by rw [hreplay, Bool.or_true, Bool.and_true, halive]⟩
  case isFalse hreplay =>
    have hfire : Fire u.bell.core (u.afterGate s.bell.n s.bell.gateOk cause) := fire_afterGate _ _ _ rfl
    obtain ⟨-, -, -, -, -, hgate, hpass, -⟩ := hfire.fields
    exact ⟨hgate.trans hdone, hpass.trans hpassed,
      by rw [Bool.eq_false_iff.2 hreplay, Bool.or_false, State.afterGate_toggling, halive]⟩

end

end Sys2Proof.Machine

namespace Sys2Proof.Proofs
open Sys2Proof Sys2Proof.Machine

/-- Settles O18: what ends the bell and what starts the next keeps the number and the boundaries that the edge reads. -/
theorem bellEdgeStartsNextBell : Obligations.BellEdgeStartsNextBell := by
  intro s e hperiod hreplay hon hrun he hheld hmaint hpark
  obtain ⟨u, hu⟩ := State.runningEdge_startsBell hrun he hheld hmaint hpark
  have hfresh := fire_startBell u (s.bell.n + 1) s.bell.nextB
  obtain ⟨hn, hedge, hrunning, hverdict, hhealth, hgate, hpassed, hphase2, hhb, hreload⟩ := hfresh.fields
  exact ⟨_, (exec_bellEdge_running hperiod hreplay hon hrun).trans (congrArg _ hu), hrunning, hn, hedge, hhealth, hgate, hverdict, hpassed,
    hphase2, hreload, hhb⟩

/-- Settles O19: phase 1 of scale adaptation, recovery, ALIVE and the heartbeat message keep what the point judged. -/
theorem healthAndGatePoints : Obligations.HealthAndGatePoints := by
  intro s h _ hrun hh
  subst hh
  refine ⟨fun hopen => ?_, fun hhealth hopen => ?_⟩
  · obtain ⟨t, ht, hdone, hn, hverdict⟩ := healthPoint_judges hrun hopen
    exact ⟨t, ht, hdone, hn, hverdict ▸ State.healthOk_iff⟩
  · obtain ⟨t, ht, hdone, hpassed, htoggling⟩ := gatePoint_judges hrun hhealth hopen
    refine ⟨t, ht, hdone, hpassed ▸ Bell.gateOk_iff, fun hreplay hfail => ?_, fun hpass => ?_⟩
    · rw [htoggling, ← hpassed, hfail, hreplay, Option.isSome_none, Bool.or_false, Bool.and_false]
    · rw [htoggling, ← hpassed, hpass, Bool.true_or, Bool.and_true]

end Sys2Proof.Proofs
end

section
/-! Releases and consumers (R155, R487, R501, R504, R505): what EMIT_RELEASE starts, what ARP_REQUEST and RESULT_HELLO answer, and what
ATTEND's release queue loses. -/

namespace Sys2Proof.Machine
open Sys2Proof

/-! ### What a release keeps: the operations in progress and the outputs released -/

/-- Operations in progress with their marks, and the outputs released in this bell. -/
def State.work (s : State) : Tt × List Nat := (s.tt, s.emit.released)

theorem State.work_of {s t : State} (htt : t.tt = s.tt) (hemit : t.emit = s.emit) : t.work = s.work :=
  Prod.ext htt (congrArg Emit.released hemit)

section
variable (s : State)

@[simp] theorem State.wf_work (f : Fld) (v : Nat) : (s.wf f v).work = s.work := State.work_of (State.wf_tt s f v) (State.wf_emit s f v)
@[simp] theorem State.bump_work (f : Fld) (n : Nat) : (s.bump f n).work = s.work := State.wf_work s f _
@[simp] theorem State.wrN_work (k : Nat) (bs : List Byte) : (s.wrN k bs).work = s.work := State.work_of rfl rfl
@[simp] theorem State.clearEcc_work (k n : Nat) : (s.clearEcc k n).work = s.work := State.work_of rfl rfl
@[simp] theorem State.markEcc_work (k w : Nat) : (s.markEcc k w).work = s.work := State.work_of rfl rfl

@[simp] theorem State.send_work (src : Nat) (k : Kind) (a : Nat) : (s.send src k a).work = s.work :=
  State.work_of (State.send_tt s src k a) (State.send_emit s src k a)
@[simp] theorem State.tally_work (f : Fld) (n : Nat) : (s.tally f n).work = s.work :=
  State.work_of (State.tally_tt s f n) (State.tally_emit s f n)

theorem foldl_work {α : Type} {f : State → α → State} (hf : ∀ s a, (f s a).work = s.work) (l : List α) : (l.foldl f s).work = s.work :=
  List.foldlRecOn l f (motive := fun t => t.work = s.work) rfl fun t ht a _ => (hf t a).trans ht

/-! Memory. -/

@[simp] theorem State.listRow_work (a : Nat) : (s.listRow a).work = s.work := by
  unfold State.listRow
  extract_lets +onlyGivenNames w pc
  split
  · rfl
  split
  · exact State.bump_work s _ _
  extract_lets +onlyGivenNames l u b c
  rw [State.wrN_work, State.wrN_work]
  exact State.work_of rfl rfl

@[simp] theorem State.elog_work (k : Kind) (a req : Nat) : (s.elog k a req).work = s.work := by
  unfold State.elog
  extract_lets +onlyGivenNames i u v w
  have hv : v.work = s.work := by
    unfold v u
    simp only [State.wf_work]
  have hw : w.work = s.work := by
    unfold w
    split
    · rw [State.wf_work, hv]
    · exact hv
  rw [State.wf_work, hw]

@[simp] theorem State.hbmUe_work (a req : Nat) : (s.hbmUe a req).work = s.work := by
  simp only [State.hbmUe, State.send_work, State.listRow_work, State.elog_work, State.bump_work]

@[simp] theorem State.hbmCe_work (a req : Nat) : (s.hbmCe a req).work = s.work := by
  simp only [State.hbmCe, State.send_work, State.bump_work]

@[simp] theorem State.ocmLast_work (k : Kind) (a : Nat) : (s.ocmLast k a).work = s.work := by
  simp only [State.ocmLast, State.wf_work]

@[simp] theorem State.sramCe_work (mem core eng word src : Nat) : (s.sramCe mem core eng word src).work = s.work := by
  simp only [State.sramCe, State.send_work, State.ocmLast_work, State.bump_work]

@[simp] theorem State.sramUe_work (code : Bool) (mem core eng word src : Nat) : (s.sramUe code mem core eng word src).work = s.work := by
  unfold State.sramUe
  extract_lets +onlyGivenNames t a
  have ht : t.work = s.work := State.bump_work s _ _
  split
  · rw [State.send_work, State.wf_work, ht]
  · rw [State.send_work, State.ocmLast_work, ht]

@[simp] theorem State.judge_work (code : Bool) (req : Nat) (marks : List (Nat × Nat)) : (s.judge code req marks).1.work = s.work := by
  unfold State.judge
  refine List.foldlRecOn marks _ (motive := fun p : State × Bool => p.1.work = s.work) rfl fun p hp m _ => ?_
  obtain ⟨t, bad⟩ := p
  dsimp only
  rw [← hp]
  split
  case h_1 => split <;> simp
  case h_2 =>
    split
    · split <;> simp
    · split <;> simp
  case h_3 => rfl

@[simp] theorem State.load_work (code : Bool) (req k n : Nat) : (s.load code req k n).2.2.work = s.work :=
  (foldl_work _ (fun t _ => State.send_work t _ _ _) _).trans (State.judge_work s code req _)

@[simp] theorem State.store_work (k : Nat) (bs : List Byte) : (s.store k bs).work = s.work := by
  unfold State.store
  extract_lets +onlyGivenNames off
  split
  · exact foldl_work s (fun t _ => State.send_work t _ _ _) off
  extract_lets +onlyGivenNames -underBinder u v
  have hu : u.work = s.work := (State.clearEcc_work _ _ _).trans (State.wrN_work _ _ _)
  have hv : v.work = s.work := by
    unfold v
    split
    · split
      · exact (State.markEcc_work _ _ _).trans ((State.work_of rfl rfl).trans hu)
      · exact hu
    · exact hu
  split
  · extract_lets t
    split
    · exact (State.markEcc_work _ _ _).trans ((State.work_of rfl rfl).trans hv)
    · exact hv
  · exact hv

/-! The tiles of the sources. -/

theorem State.receive_work (src checker p req hk pk stream bell idx len : Nat) (quiet : Bool) :
    (s.receive src checker p req hk pk stream bell idx len quiet).2.2.2.work = s.work := by
  unfold State.receive
  split
  · rfl
  have hhead := State.load_work s false req hk 32
  generalize s.load false req hk 32 = head at hhead ⊢
  obtain ⟨hb, ok1, r⟩ := head
  have hload := (State.load_work r false req pk len).trans hhead
  dsimp -zeta only
  generalize r.load false req pk len = body at hload ⊢
  obtain ⟨pb, ok2, t⟩ := body
  dsimp -zeta only at hload ⊢
  extract_lets +onlyGivenNames -underBinder h b fault u clean void
  have hu : u.work = s.work := by
    unfold u
    clear_value fault
    split
    · exact (State.send_work _ _ _ _).trans hload
    · exact hload
  split
  · extract_lets +onlyGivenNames -underBinder v x base
    have hv : v.work = s.work := (State.bump_work _ _ _).trans hu
    show x.work = s.work
    unfold x
    split
    · exact hv
    · exact (State.send_work _ _ _ _).trans hv
  · exact hu

theorem State.recvTile_work (n w src st stream idx : Nat) : (s.recvTile n w src st stream idx).2.2.2.work = s.work := by
  unfold State.recvTile
  dsimp only
  split
  · rfl
  · exact State.receive_work s _ _ _ _ _ _ _ _ _ _ _

theorem State.recvStream_work (n w src st stream : Nat) : (s.recvStream n w src st stream).2.2.2.work = s.work :=
  List.foldlRecOn _ _ (motive := fun p : List Hdr × List Byte × Bool × State => p.2.2.2.work = s.work) rfl
    fun _ hp _ _ => (State.recvTile_work _ _ _ _ _ _ _).trans hp

theorem State.readSrcs_work (n w : Nat) (l : List Nat) : (s.readSrcs n w l).2.2.2.work = s.work :=
  List.foldlRecOn _ _ (motive := fun p : List Hdr × List (List Byte) × Bool × State => p.2.2.2.work = s.work) rfl
    fun _ hp _ _ => (State.recvStream_work _ _ _ _ _ _).trans hp

/-! The record of the output. -/

@[simp] theorem State.outPort_work (src cause port dataId : Nat) : (s.outPort src cause port dataId).work = s.work :=
  State.send_work s _ _ _

@[simp] theorem State.countDrop_work (q n : Nat) : (s.countDrop q n).work = s.work := by
  unfold State.countDrop
  split <;> exact State.bump_work s _ _

@[simp] theorem State.setOutQueue_work (q : Nat) (l : List OutRec) : (s.setOutQueue q l).work = s.work := rfl

@[simp] theorem State.reuseHalf_work (bell : Nat) : (s.reuseHalf bell).work = s.work := by
  refine foldl_work s (fun t q => ?_) _
  refine (foldl_work _ (fun u r => ?_) _).trans (State.setOutQueue_work t q _)
  dsimp only
  split <;> rw [State.outPort_work, State.countDrop_work]

@[simp] theorem State.queueRec_work (q kind : Nat) (r : OutRec) : (s.queueRec q kind r).work = s.work := by
  unfold State.queueRec
  split
  · rfl
  split
  · exact State.countDrop_work s q 1
  · rfl

@[simp] theorem State.emitRecord_work (o bell : Nat) (bytes : List Byte) : (s.emitRecord o bell bytes).work = s.work := by
  unfold State.emitRecord
  extract_lets +onlyGivenNames -underBinder e kind t u r v
  have hu : u.work = s.work := by
    unfold u
    split
    · rw [State.store_work, State.reuseHalf_work]
    · exact State.reuseHalf_work s bell
  have hv : v.work = u.work := foldl_work u (fun x i => by dsimp only; split <;> simp) _
  refine (foldl_work v (fun x d => ?_) _).trans (hv.trans hu)
  split <;> simp

@[simp] theorem State.noteContested_work : s.noteContested.work = s.work := by
  unfold State.noteContested
  extract_lets +onlyGivenNames -underBinder first n lim hit x t
  have ht : t.work = s.work := State.work_of rfl rfl
  split
  · rw [State.send_work, ht]
  · exact ht

@[simp] theorem State.noteRelease_work (o bell reason flags : Nat) : (s.noteRelease o bell reason flags).work = s.work := by
  unfold State.noteRelease
  extract_lets +onlyGivenNames -underBinder e void cont t u card y v safe safety x traj
  have hu : u.work = s.work := by
    have ht : t.work = s.work := State.wf_work s _ _
    unfold u
    split
    · rw [State.bump_work, ht]
    split
    · rw [State.bump_work, ht]
    · exact ht
  have hv : v.work = s.work := by
    unfold v
    split
    · exact (State.work_of rfl rfl).trans hu
    · exact hu
  have hx : x.work = s.work := by
    unfold x
    split
    · exact hv
    split
    · exact (State.work_of rfl rfl).trans hv
    split
    · rw [State.noteContested_work, hv]
    · exact (State.work_of rfl rfl).trans hv
  split
  · exact hv
  split
  · exact (State.work_of rfl rfl).trans hx
  · exact hx

@[simp] theorem State.hallRelease_work (o bell : Nat) (h : OutHead) : (s.hallRelease o bell h).work = s.work := by
  unfold State.hallRelease
  extract_lets +onlyGivenNames -underBinder e st
  split
  · rfl
  extract_lets +onlyGivenNames -underBinder d t c u
  have hu : u.work = s.work := by
    refine (State.work_of rfl rfl).trans (?_ : t.work = s.work)
    unfold t State.absorb
    simp only [State.tally_work]
  split
  · exact hu
  · rw [State.wf_work, State.emitRecord_work, hu]

@[simp] theorem State.releaseRec_work (o bell reason : Nat) (h : OutHead) (payload : List Byte) :
    (s.releaseRec o bell reason h payload).work = s.work := by
  simp only [State.releaseRec, State.hallRelease_work, State.noteRelease_work, State.emitRecord_work]

@[simp] theorem State.releaseVoid_work (o bell reason : Nat) : (s.releaseVoid o bell reason).work = s.work := by
  unfold State.releaseVoid
  extract_lets +onlyGivenNames -underBinder e h c t
  have ht : t.work = s.work := by
    unfold t
    split
    · rfl
    · exact State.work_of rfl rfl
  rw [State.releaseRec_work, ht]

/-- What a release reads, sends, stores and queues ends no operation and takes back no release. -/
@[simp] theorem State.releaseOut_work (n w o : Nat) : (s.releaseOut n w o).work = s.work := by
  unfold State.releaseOut
  extract_lets +onlyGivenNames -underBinder e bell free p l anc
  split
  · exact (State.releaseRec_work _ _ _ _ _ _).trans (State.work_of rfl rfl)
  split
  · rfl
  split
  · exact State.releaseVoid_work s _ _ _
  have hread := State.readSrcs_work s n w l
  generalize s.readSrcs n w l = read at hread ⊢
  obtain ⟨hs, ps, void, t⟩ := read
  dsimp -zeta only at hread ⊢
  extract_lets +onlyGivenNames -underBinder why h
  split
  · exact (State.releaseVoid_work _ _ _ _).trans hread
  split
  · exact (State.releaseVoid_work _ _ _ _).trans hread
  split
  · exact (State.releaseVoid_work _ _ _ _).trans ((State.send_work _ _ _ _).trans hread)
  split
  · exact (State.releaseVoid_work _ _ _ _).trans ((State.send_work _ _ _ _).trans hread)
  · exact (State.releaseRec_work _ _ _ _ _ _).trans hread

end

/-! ### EMIT_RELEASE -/

/-- The length of a release is a matter of the image (R487). -/
theorem State.emitCycles_of_image {s t : State} (h : t.image = s.image) (o : Nat) : t.emitCycles o = s.emitCycles o := by
  have hbytes : ∀ typ idx, t.recBytes typ idx = s.recBytes typ idx := fun typ idx => by
    unfold State.recBytes
    rw [h]
  unfold State.emitCycles State.recMax State.outElem
  rw [hbytes]

/-- The operation that an EMIT takes the word w of core n at place i as, at tick at0 and for some ARITH cycles (R487). -/
def emitJob (n w i at0 cycles : Nat) : Job :=
  { kind := .emit, core := n, unit := insArg w 55 40, task := insTask w, at0 := at0, due := at0 + 2 * cycles, instr := w, idx := i,
    deadline := 0, desc := [], outs := [] }

theorem exec_emitRelease {s : State} {core : Fin 64} {w i : Nat} (hnext : s.Next core.val w i)
    (hfree : s.unitBusy (insArg w 55 40) = false) (hop : insOp w = 0x20) (hhalt : s.pstate ≠ .halt) (hkind : stKind (insArg w 55 40) = 10)
    (hout : insArg w 39 24 < s.nOut) :
    ∃ u t : State, exec (.emitRelease core) s = .next t ∧
      t.tt = { u.tt with jobs := u.tt.jobs ++ [emitJob core.val w i u.now (s.emitCycles (insArg w 39 24))] } ∧
      insArg w 39 24 ∈ t.emit.released := by
  obtain ⟨u, hissue, hissued, -, -⟩ := issue_next hnext (ok := fun w => insOp w == 0x20 && stKind (insArg w 55 40) == 10 &&
    decide (insArg w 39 24 < s.nOut) && !s.unitBusy (insArg w 55 40)) (by simp [hop, hkind, hout, hfree])
  show ∃ u t, execEmitRelease core s = _ ∧ _
  unfold execEmitRelease State.issueSta
  rw [if_neg (fun h => hhalt h.1), hissue]
  dsimp -zeta only
  extract_lets o v
  have hv : v.tt = { u.tt with jobs := u.tt.jobs ++ [emitJob core.val w i u.now (s.emitCycles o)] } := by
    rw [← State.emitCycles_of_image hissued.image]
    rfl
  refine ⟨u, _, rfl, ?_⟩
  split
  case isTrue hreleased => exact ⟨hv, List.contains_iff_mem.1 hreleased⟩
  case isFalse =>
    have hwork := State.releaseOut_work (v.noteOut o) core.val w o
    have hreleased : ((v.noteOut o).releaseOut core.val w o).emit.released = v.emit.released ++ [o] := congrArg Prod.snd hwork
    exact ⟨(congrArg Prod.fst hwork).trans hv, hreleased ▸ List.mem_append_right _ (List.mem_singleton_self o)⟩

/-! ### ATT_RELEASE_FRAME -/

/-- The registers that show ATTEND's pools are all that a refresh writes. -/
theorem attRegs_frame {α : Type} (g : State → α) (hg : ∀ (s : State) f v, g (s.wf f v) = g s) (s : State) : g s.attRegs = g s := by
  unfold State.attRegs
  refine List.foldlRecOn _ _ (motive := fun t => g t = g s) ?_ fun t ht k _ => (hg _ _ _).trans ht
  simp only [hg]

@[simp] theorem State.attRegs_att (s : State) : s.attRegs.att = s.att := attRegs_frame (·.att) State.wf_att s
@[simp] theorem State.attRegs_mem (s : State) : s.attRegs.mem = s.mem := attRegs_frame (·.mem) State.wf_mem s
@[simp] theorem State.attRegs_now (s : State) : s.attRegs.now = s.now := attRegs_frame (·.now) State.wf_now s

@[simp] theorem State.advanceTo_att (s : State) (t : Nat) : (s.advanceTo t).att = s.att :=
  advanceTo_frame (·.att) (fun _ _ _ => rfl) (fun _ _ _ => rfl) State.send_att s t

theorem Att.release1_relq (a : Att) : a.release1.relq = a.relq.tail := by
  unfold Att.release1
  split
  case h_1 h => rw [h, List.tail_nil]
  case h_2 h => rw [h, List.tail_cons]

/-- Two ticks without a command take one entry (R155). -/
theorem State.attDrain_one {s : State} (hidle : s.attBusy = false) (hq : s.att.relq ≠ []) (hnow : s.now = s.att.relAt + 2) :
    s.attDrain = (s.setAtt (fun a => { a.release1 with relAt := s.now })).attRegs := by
  have hlen : 0 < s.att.relq.length := List.length_pos_iff.2 hq
  have hone : min s.att.relq.length ((s.now - s.att.relAt) / 2) = 1 := by
    rw [hnow]
    omega
  unfold State.attDrain
  rw [hidle, if_neg Bool.false_ne_true, hone]
  rfl

theorem exec_attReleaseFrame {s : State} (hoff : s.pstate ≠ .off) (hidle : s.attBusy = false) (hnow : s.now ≤ s.att.relAt + 2) {f : Nat}
    {rest : List Nat} (hq : s.att.relq = f :: rest) :
    ∃ t : State, exec .attReleaseFrame s = .next t ∧ t.att.relq = rest ∧ t.now = s.att.relAt + 2 ∧ SameMem s t := by
  obtain ⟨hmem, -, -, htt, -⟩ := State.advanceTo_same s (s.att.relAt + 2)
  have hreach : (s.advanceTo (s.att.relAt + 2)).now = s.att.relAt + 2 := (State.advanceTo_now hoff _).trans (Nat.max_eq_right hnow)
  refine ⟨(s.advanceTo (s.att.relAt + 2)).attDrain, if_neg (by simp [hidle, hq]), ?_⟩
  rw [State.attDrain_one (by unfold State.attBusy at hidle ⊢; rwa [htt]) (by simp [hq]) (by rw [hreach, State.advanceTo_att])]
  refine ⟨?_, (State.attRegs_now _).trans hreach, State.rd_of_mem ((State.attRegs_mem _).trans hmem)⟩
  rw [State.attRegs_att]
  exact (Att.release1_relq _).trans (by rw [State.advanceTo_att, hq, List.tail_cons])

/-! ### ARP_REQUEST and the refused HELLO -/

section
variable {s : State} {n : Fin 6} (peer : UdpFrom) (hup : s.rf (F.ETH_STATUS_LINK n.val) = 1)
include hup

theorem flag_of_rf : s.flag (F.ETH_STATUS_LINK n.val) = true := beq_iff_eq.2 hup

theorem exec_arpRequest_own (hip : s.portIp n.val ≠ 0) {ip : BitVec 32} (h : ip.toNat = s.portIp n.val) :
    exec (.arpRequest n ip peer) s = .next (s.out (.arp n.val peer.mac.toNat peer.ip.toNat)) :=
  if_neg (by simp [hip, h, flag_of_rf hup])

omit hup in
theorem exec_arpRequest_other {ip : BitVec 32} (h : ip.toNat ≠ s.portIp n.val) : exec (.arpRequest n ip peer) s = .next s :=
  if_pos (.inr (.inl h))

/-- Destinations of a port at a consumer's address (R505). -/
def State.destsOf (s : State) (n : Nat) (peer : UdpFrom) : List Nat :=
  (List.range s.nDest).filter (fun d => s.destPort d == n && leAt (s.destElem d) 4 4 == peer.ip.toNat &&
    leAt (s.destElem d) 14 2 == peer.udp.toNat)

omit hup in
theorem State.mem_destsOf {d : Nat} : d ∈ s.destsOf n.val peer ↔
    d < s.nDest ∧ s.destPort d = n.val ∧ leAt (s.destElem d) 4 4 = peer.ip.toNat ∧ leAt (s.destElem d) 14 2 = peer.udp.toNat := by
  simp only [State.destsOf, List.mem_filter, List.mem_range, Bool.and_eq_true, beq_iff_eq, and_assoc]

theorem exec_resultHello_unknown (hip : s.portIp n.val ≠ 0) (data : List Byte) (hds : s.destsOf n.val peer = []) :
    exec (.resultHello n peer data) s = .next (s.replyDg n.val peer 4 (leBytes 1 3 ++ leBytes 3 0)) := by
  show execResultHello n peer data s = _
  unfold execResultHello
  rw [if_neg (by simp [hip, flag_of_rf hup])]
  exact if_pos (List.isEmpty_iff.2 hds)

end

/-! ### The HELLO of a destination -/

/-- What a fold's step establishes at one element of the list, and keeps at every other, holds in the end. -/
theorem foldl_establishes {α : Type} {f : State → α → State} {Q P : State → Prop} {l : List α} {a : α} (ha : a ∈ l)
    (hQ : ∀ s b, Q s → Q (f s b)) (hset : ∀ s, Q s → P (f s a)) (hkeep : ∀ s b, Q s → P s → P (f s b)) {s : State} (hs : Q s) :
    P (l.foldl f s) := by
  obtain ⟨before, after, rfl⟩ := List.append_of_mem ha
  rw [List.foldl_append, List.foldl_cons]
  have hbefore : Q (before.foldl f s) := List.foldlRecOn before f hs fun t ht b _ => hQ t b ht
  exact (List.foldlRecOn after f (motive := fun t => Q t ∧ P t) ⟨hQ _ a hbefore, hset _ hbefore⟩
    fun t ht b _ => ⟨hQ t b ht.1, hkeep t b ht.1 ht.2⟩).2

/-- A bit of a field is a bit of its word. -/
theorem bitAt_bits (v : Nat) {hi lo i : Nat} (h : lo + i ≤ hi) : bitAt (bits v hi lo) i = decide (bits v (lo + i) (lo + i) = 1) := by
  rw [bitAt_eq_testBit]
  unfold bits
  rw [Nat.testBit_mod_two_pow, Nat.testBit_shiftRight, decide_eq_true (by omega), Bool.true_and, Nat.testBit_eq_decide_div_mod_eq,
    Nat.shiftRight_eq_div_pow, Nat.add_sub_cancel_left, Nat.pow_one]

/-- The bit of destination d that shows whether class k is refused (R505). -/
def refusedBit (d k : Nat) : Fld := ⟨A.ETH_DEST d, 1 + k, 1 + k⟩

/-- Class k of a HELLO shown at destination d. -/
def State.showClass (s : State) (es : List (List Byte)) (d k : Nat) : State :=
  if k < 5 then s.wf (refusedBit d k) (if helloServes es k then 0 else 1) else s

theorem State.helloDest_eq (s : State) (es : List (List Byte)) (classes : List Nat) (d : Nat) :
    s.helloDest es classes d = classes.foldl (fun (s : State) k => s.showClass es d k) (s.wf (F.ETH_DEST_HELLO d) 1) := rfl

/-- Destination d is marked, and shows of every class k below 5 of the HELLO whether it is refused. -/
def HelloShown (es : List (List Byte)) (classes : List Nat) (d : Nat) (s : State) : Prop :=
  s.rf (F.ETH_DEST_HELLO d) = 1 ∧ ∀ k ∈ classes, k < 5 → s.rf (refusedBit d k) = if helloServes es k then 0 else 1

section
variable {s t : State} {es : List (List Byte)} {classes : List Nat} {d : Nat}

theorem HelloShown.of_regs (h : HelloShown es classes d s) {l : List Nat} (hr : SameRegsBut s t l) (hd : A.ETH_DEST d ∉ l) :
    HelloShown es classes d t :=
  ⟨(hr.rf hd).trans h.1, fun k hk h5 => (hr.rf hd).trans (h.2 k hk h5)⟩

theorem HelloShown.bit (h : HelloShown es classes d s) {k : Nat} (hk : k ∈ classes) (h5 : k < 5) :
    bitAt (s.rf (F.ETH_DEST_REFUSED d)) k = !helloServes es k := by
  have hbit : bitAt (s.rf (F.ETH_DEST_REFUSED d)) k = decide (s.rf (refusedBit d k) = 1) := bitAt_bits _ (show 1 + k ≤ 5 by omega)
  rw [hbit, h.2 k hk h5]
  cases helloServes es k <;> rfl

end

/-- From s to t only the registers of l were written, and no memory. -/
structure Writes (l : List Nat) (s t : State) : Prop where
  canonical : smWf regReset t.regs
  regs : SameRegsBut s t l
  mem : t.mem = s.mem

theorem Writes.refl {s : State} (hs : smWf regReset s.regs) (l : List Nat) : Writes l s s := ⟨hs, fun _ _ => rfl, rfl⟩

theorem Writes.wf {s : State} (hs : smWf regReset s.regs) (f : Fld) (v : Nat) : Writes [f.addr] s (s.wf f v) :=
  ⟨wf_smWf hs f v, wf_regs hs f v, State.wf_mem s f v⟩

theorem Writes.trans {l : List Nat} {s t u : State} (h : Writes l s t) (g : Writes l t u) : Writes l s u :=
  ⟨g.canonical, fun a ha => (g.regs a ha).trans (h.regs a ha), g.mem.trans h.mem⟩

theorem Writes.mono {l m : List Nat} {s t : State} (h : Writes l s t) (hl : ∀ a ∈ l, a ∈ m) : Writes m s t :=
  ⟨h.canonical, h.regs.mono hl, h.mem⟩

theorem Writes.foldl {α : Type} {f : State → α → State} {l : List Nat} {xs : List α}
    (hf : ∀ t, smWf regReset t.regs → ∀ x ∈ xs, Writes l t (f t x)) {s : State} (hs : smWf regReset s.regs) : Writes l s (xs.foldl f s) :=
  List.foldlRecOn xs f (Writes.refl hs l) fun t ht x hx => ht.trans (hf t ht.canonical x hx)

section
variable (es : List (List Byte)) (classes : List Nat) {s : State} (hs : smWf regReset s.regs) (d : Nat)
include hs

theorem showClass_writes (k : Nat) : Writes [A.ETH_DEST d] s (s.showClass es d k) := by
  unfold State.showClass
  split
  · exact Writes.wf hs (refusedBit d k) _
  · exact Writes.refl hs _

theorem helloDest_writes : Writes [A.ETH_DEST d] s (s.helloDest es classes d) :=
  (Writes.wf hs (F.ETH_DEST_HELLO d) 1).trans (Writes.foldl (fun _ ht k _ => showClass_writes es ht d k) (wf_smWf hs _ _))

theorem showClass_self {k : Nat} (h5 : k < 5) : (s.showClass es d k).rf (refusedBit d k) = if helloServes es k then 0 else 1 := by
  unfold State.showClass
  rw [if_pos h5, State.rf_wf_self hs ⟨Nat.le_refl _, show 1 + k < 32 by omega⟩]
  dsimp only [refusedBit]
  rw [Nat.add_sub_cancel_left]
  split <;> rfl

theorem showClass_apart {j : Nat} {f : Fld} (hf : f.hi < 32) (h : f.hi < 1 + j ∨ 1 + j < f.lo) : (s.showClass es d j).rf f = s.rf f := by
  unfold State.showClass
  split
  · exact State.rf_wf_apart hs ⟨Nat.le_refl _, show 1 + j < 32 by omega⟩ hf (.inr h) _
  · rfl

theorem helloDest_shown : HelloShown es classes d (s.helloDest es classes d) := by
  have hmark : (s.wf (F.ETH_DEST_HELLO d) 1).rf (F.ETH_DEST_HELLO d) = 1 := State.rf_wf_self hs ⟨Nat.le_refl 0, show 0 < 32 by decide⟩ 1
  rw [State.helloDest_eq]
  refine ⟨?_, fun k hk h5 => ?_⟩
  · exact (List.foldlRecOn classes _ (motive := fun t : State => smWf regReset t.regs ∧ t.rf (F.ETH_DEST_HELLO d) = 1) ⟨wf_smWf hs _ _, hmark⟩
      fun t ht k _ => ⟨(showClass_writes es ht.1 d k).canonical,
        (showClass_apart es ht.1 d (show 0 < 32 by decide) (.inl (show 0 < 1 + k by omega))).trans ht.2⟩).2
  · refine foldl_establishes (Q := fun t => smWf regReset t.regs) (P := fun t => t.rf (refusedBit d k) = if helloServes es k then 0 else 1) hk
      (fun t j ht => (showClass_writes es ht d j).canonical)
      (fun t ht => showClass_self es ht d h5) (fun t j ht hshown => ?_) (wf_smWf hs _ _)
    rcases Nat.lt_trichotomy k j with hlt | rfl | hgt
    · exact (showClass_apart es ht d (show 1 + k < 32 by omega) (.inl (show 1 + k < 1 + j by omega))).trans hshown
    · exact showClass_self es ht d h5
    · exact (showClass_apart es ht d (show 1 + k < 32 by omega) (.inr (show 1 + j < 1 + k by omega))).trans hshown

/-- Another destination's register is another register. -/
theorem helloDests_shown {ds : List Nat} (hd : d ∈ ds) :
    HelloShown es classes d (ds.foldl (fun (s : State) d => s.helloDest es classes d) s) := by
  refine foldl_establishes (Q := fun t => smWf regReset t.regs) hd (fun t b ht => (helloDest_writes es classes ht b).canonical)
    (fun t ht => helloDest_shown es classes ht d) (fun t b ht hshown => ?_) hs
  by_cases hb : b = d
  · exact hb ▸ helloDest_shown es classes ht b
  · exact hshown.of_regs (helloDest_writes es classes ht b).regs (by simp only [A.ETH_DEST, List.mem_singleton]; omega)

omit d in
theorem helloDests_write (ds : List Nat) :
    Writes (ds.map A.ETH_DEST) s (ds.foldl (fun (s : State) d => s.helloDest es classes d) s) :=
  Writes.foldl (fun _ ht d hd => (helloDest_writes es classes ht d).mono fun _ ha => List.mem_singleton.1 ha ▸ List.mem_map_of_mem hd) hs

omit d in
theorem helloRefuse_writes (n : Nat) (peer : UdpFrom) (k : Nat) :
    Writes [A.FLT_SRC_CNT (srcEth n)] s (s.helloRefuse n peer es k) :=
  have hsent (dg : List Byte) : smWf regReset (s.replyDg n peer 4 dg).regs := hs
  ⟨send_smWf (hsent _) _ _ _, send_regs (hsent _) _ _ _, State.send_mem _ _ _ _⟩

end

/-- Classes that a HELLO names (R505). -/
def helloClasses (es : List (List Byte)) : List Nat := (es.map (fun e => leAt e 0 1)).eraseDups

/-- What a HELLO of known destinations does but for the answer: the destinations' registers, and the refusals. -/
def State.helloKnown (s : State) (n : Nat) (peer : UdpFrom) (es : List (List Byte)) : State :=
  ((helloClasses es).filter (fun k => !helloServes es k)).foldl (fun (s : State) k => s.helloRefuse n peer es k)
    ((s.destsOf n peer).foldl (fun (s : State) d => s.helloDest es (helloClasses es) d) s)

theorem exec_resultHello_known {s : State} {n : Fin 6} {peer : UdpFrom} (hup : s.rf (F.ETH_STATUS_LINK n.val) = 1)
    (hip : s.portIp n.val ≠ 0) {data : List Byte} {es : List (List Byte)}
    (hes : es = (List.range (min (leAt data 0 1) ((data.length - 4) / 4))).map (fun i => (data.drop (4 + 4 * i)).take 4))
    (hds : s.destsOf n.val peer ≠ []) :
    ∃ t : State, exec (.resultHello n peer data) s = .next t ∧ t.regs = (s.helloKnown n.val peer es).regs ∧
      t.mem = (s.helloKnown n.val peer es).mem := by
  subst hes
  show ∃ t, execResultHello n peer data s = _ ∧ _
  unfold execResultHello
  rw [if_neg (by simp [hip, flag_of_rf hup])]
  refine ⟨_, if_neg (mt List.isEmpty_iff.1 hds), ?_⟩
  split <;> exact ⟨rfl, rfl⟩

theorem helloKnown_mem {s : State} (hs : smWf regReset s.regs) (n : Nat) (peer : UdpFrom) (es : List (List Byte)) :
    (s.helloKnown n peer es).mem = s.mem :=
  have hshow := helloDests_write es (helloClasses es) hs (s.destsOf n peer)
  (Writes.foldl (fun _ ht k _ => helloRefuse_writes es ht n peer k) hshow.canonical).mem.trans hshow.mem

/-- The refusals count at the port's source, not at a destination. -/
theorem helloKnown_shown {s : State} (hs : smWf regReset s.regs) (n : Fin 6) (peer : UdpFrom) (es : List (List Byte)) {d : Nat}
    (hd : d ∈ s.destsOf n.val peer) : HelloShown es (helloClasses es) d (s.helloKnown n.val peer es) := by
  have hshow := helloDests_write es (helloClasses es) hs (s.destsOf n.val peer)
  have hrefuse := Writes.foldl (xs := (helloClasses es).filter (fun k => !helloServes es k))
    (fun _ ht k _ => helloRefuse_writes es ht n.val peer k) hshow.canonical
  refine (helloDests_shown es (helloClasses es) hs d hd).of_regs hrefuse.regs ?_
  simp only [A.ETH_DEST, A.FLT_SRC_CNT, srcEth, List.mem_singleton]
  omega

theorem helloServes_iff {es : List (List Byte)} {k : Nat} (h5 : k < 5) :
    helloServes es k = true ↔ ∃ e ∈ es, leAt e 0 1 = k ∧ leAt e 1 1 = 1 := by
  simp only [helloServes, h5, decide_true, Bool.true_and, List.any_eq_true, Bool.and_eq_true, beq_iff_eq]

end Sys2Proof.Machine

namespace Sys2Proof.Proofs
open Sys2Proof Sys2Proof.Machine

/-- Settles O49: a release keeps the operation it starts, every destination's writes stay in its own register, and two idle ticks take one
entry of the release queue. -/
theorem releasesAndConsumers : Obligations.ReleasesAndConsumers := by
  refine ⟨fun core s w i _ hnext hfree hop hhalt hkind hout => ?_, fun s n peer hs hip hup => ⟨fun ip hown => ?_, fun ip hother => ?_,
    fun data hnone => ?_, fun data d hd _ hport haddr hudp => ?_⟩, fun s _ hoff hidle hnow f rest hq => exec_attReleaseFrame hoff hidle hnow hq⟩
  · obtain ⟨u, t, hexec, htt, hreleased⟩ := exec_emitRelease hnext hfree hop hhalt hkind hout
    refine ⟨t, emitJob core.val w i u.now (s.emitCycles (insArg w 39 24)), hexec, ?_, rfl, rfl, rfl, rfl, rfl, hreleased⟩
    rw [htt]
    exact List.mem_append_right _ (List.mem_singleton_self _)
  · exact ⟨_, exec_arpRequest_own peer hup hip hown, rfl⟩
  · exact exec_arpRequest_other peer hother
  · refine ⟨_, exec_resultHello_unknown peer hup hip data (List.eq_nil_iff_forall_not_mem.2 fun d hd => ?_), rfl⟩
    obtain ⟨hlt, hport, haddr, hudp⟩ := (State.mem_destsOf peer).1 hd
    exact hnone d hlt hport haddr hudp
  · have hmem : d ∈ s.destsOf n.val peer := (State.mem_destsOf peer).2 ⟨hd, hport, haddr, hudp⟩
    obtain ⟨t, hexec, hregs, htmem⟩ := exec_resultHello_known hup hip (data := data) rfl (List.ne_nil_of_mem hmem)
    refine ⟨t, hexec, ?_, State.rd_of_mem (htmem.trans (helloKnown_mem hs.regs _ _ _)), fun es k hes h5 hk => ?_⟩
    · exact (State.rf_of_regs hregs _).trans (helloKnown_shown hs.regs n peer _ hmem).1
    · subst hes
      rw [State.rf_of_regs hregs, (helloKnown_shown hs.regs n peer _ hmem).bit (List.mem_eraseDups.2 hk) h5, Bool.not_eq_false',
        helloServes_iff h5]

end Sys2Proof.Proofs
end

section
/-! HBM temperature (R211, R212): what HBM_TEMP_POLL shows of a reading in the NORMAL state, and of a read that fails. -/

namespace Sys2Proof.Machine
open Sys2Proof

/-- The 8-bit code of a reading is the reading's own byte. -/
theorem ofSigned_toInt {w : Nat} (r : BitVec w) : ofSigned w r.toInt = r.toNat := by
  unfold ofSigned
  rw [BitVec.toInt_eq_toNat_bmod, Int.bmod_emod, ← Int.natCast_emod, Int.toNat_natCast, Nat.mod_eq_of_lt r.isLt]

/-! ### What the temperature registers show -/

/-- What a temperature read leaves to be seen: the failures in a row, and the reading, the state and the refresh interval shown. -/
structure HbmView where
  fails : Nat
  temp : Nat
  state : Nat
  interval : Nat

/-- State t shows the view v, and its memory is that of s. -/
structure HbmShows (s : State) (v : HbmView) (t : State) : Prop where
  canonical : smWf regReset t.regs
  mem : t.mem = s.mem
  fails : t.memc.tempFails = v.fails
  temp : t.rf F.MEM_TEMP_TEMP = v.temp
  state : t.rf F.MEM_STATUS_TEMP_STATE = v.state
  interval : t.rf F.MEM_REFRESH_INTERVAL = v.interval

theorem State.rf_wf_eq_or_apart {s : State} (hs : smWf regReset s.regs) {f g : Fld} (hf : f.ok) (hg : g.ok) (h : f = g ∨ f.apart g) {x : Nat}
    (hx : x < 2 ^ (f.hi + 1 - f.lo)) : (s.wf f x).rf g = if f = g then x else s.rf g := by
  split
  case isTrue heq => rw [← heq, State.rf_wf_self hs hf, Nat.mod_eq_of_lt hx]
  case isFalse hne => exact State.rf_wf_apart hs hf hg.2 (h.resolve_left hne) x

section
variable {s t : State} {v : HbmView}

theorem HbmShows.refl (hs : smWf regReset s.regs) :
    HbmShows s ⟨s.memc.tempFails, s.rf F.MEM_TEMP_TEMP, s.rf F.MEM_STATUS_TEMP_STATE, s.rf F.MEM_REFRESH_INTERVAL⟩ s :=
  ⟨hs, rfl, rfl, rfl, rfl, rfl⟩

theorem HbmShows.setFails (h : HbmShows s v t) (n : Nat) :
    HbmShows s { v with fails := n } { t with memc := { t.memc with tempFails := n } } :=
  ⟨h.canonical, h.mem, rfl, h.temp, h.state, h.interval⟩

/-- A field write shows at the field, and at the fields apart from it changes nothing. -/
theorem HbmShows.wf (h : HbmShows s v t) (f : Fld) {x : Nat} (hx : x < 2 ^ (f.hi + 1 - f.lo))
    (hf : f.ok ∧ ∀ g ∈ [F.MEM_TEMP_TEMP, F.MEM_STATUS_TEMP_STATE, F.MEM_REFRESH_INTERVAL], f = g ∨ f.apart g) :
    HbmShows s ⟨v.fails, if f = F.MEM_TEMP_TEMP then x else v.temp, if f = F.MEM_STATUS_TEMP_STATE then x else v.state,
      if f = F.MEM_REFRESH_INTERVAL then x else v.interval⟩ (t.wf f x) where
  canonical := wf_smWf h.canonical f x
  mem := (State.wf_mem t f x).trans h.mem
  fails := (congrArg (·.tempFails) (State.wf_memc t f x)).trans h.fails
  temp := h.temp ▸ State.rf_wf_eq_or_apart h.canonical hf.1 (by decide) (hf.2 _ (by simp)) hx
  state := h.state ▸ State.rf_wf_eq_or_apart h.canonical hf.1 (by decide) (hf.2 _ (by simp)) hx
  interval := h.interval ▸ State.rf_wf_eq_or_apart h.canonical hf.1 (by decide) (hf.2 _ (by simp)) hx

/-- A message of channel 0 counts at its source's own register. -/
theorem HbmShows.send (h : HbmShows s v t) (k : Kind) (a : Nat) : HbmShows s v (t.send (srcHbm 0) k a) :=
  have hregs := send_regs h.canonical (srcHbm 0) k a
  { canonical := send_smWf h.canonical _ k a
    mem := (State.send_mem t _ k a).trans h.mem
    fails := (congrArg (·.tempFails) (State.send_memc t _ k a)).trans h.fails
    temp := (hregs.rf (by decide)).trans h.temp
    state := (hregs.rf (by decide)).trans h.state
    interval := (hregs.rf (by decide)).trans h.interval }

/-! ### The temperature states (Table 8-4) -/

theorem HbmShows.hbmHot (h : HbmShows s v t) : HbmShows s { v with state := 1, interval := 1560 } t.hbmHot :=
  (h.wf F.MEM_STATUS_TEMP_STATE (x := 1) (by decide) (by decide)).wf F.MEM_REFRESH_INTERVAL (x := 1560) (by decide) (by decide)

theorem HbmShows.overtemp (h : HbmShows s v t) (code : Nat) : HbmShows s { v with state := 2, interval := 1560 } (t.overtemp code) :=
  ((h.wf F.MEM_STATUS_TEMP_STATE (x := 2) (by decide) (by decide)).wf F.MEM_REFRESH_INTERVAL (x := 1560) (by decide) (by decide)).send _ _

/-- The highest reading stands beside the last one. -/
theorem HbmShows.raiseMax (h : HbmShows s v t) (c : Int) {code : Nat} (hcode : code < 256) :
    HbmShows s v (if toSigned 8 (t.rf F.MEM_TEMP_MAX) < c then t.wf F.MEM_TEMP_MAX code else t) := by
  split
  · exact h.wf F.MEM_TEMP_MAX hcode (by decide)
  · exact h

/-- A valid reading in the NORMAL state, by the two limits of Table 8-4. -/
theorem HbmShows.hbmTemp_normal {n temp interval : Nat} (h : HbmShows s ⟨n, temp, 0, interval⟩ t) (r : BitVec 8) :
    HbmShows s ⟨0, r.toNat, if 95 < r.toInt then 2 else if 85 < r.toInt then 1 else 0, if 85 < r.toInt then 1560 else interval⟩
      (t.hbmTemp r.toInt) := by
  unfold State.hbmTemp
  rw [ofSigned_toInt]
  extract_lets code memc cleared shown read st judged
  have hread : HbmShows s ⟨0, r.toNat, 0, interval⟩ read :=
    ((h.setFails 0).wf F.MEM_TEMP_TEMP r.isLt (by decide)).raiseMax r.toInt r.isLt
  have hst : st = 0 := hread.state
  rw [hst, if_neg (by decide : ¬(0 = 2))]
  by_cases hhot : 85 < r.toInt
  case neg =>
    have hjudged : judged = read := by simp [judged, hst, hhot]
    have hcool : ¬95 < r.toInt := by omega
    simp only [hcool, hhot, if_false, hjudged]
    exact hread
  case pos =>
    have hjudged : HbmShows s ⟨0, r.toNat, 1, 1560⟩ judged := by
      simp only [judged, hst, hhot, and_self, if_true]
      exact hread.hbmHot.send _ _
    rw [if_pos hhot, if_pos hhot]
    split
    · exact hjudged.overtemp _
    · exact hjudged

/-- The number of polls stands beside the reading. -/
theorem HbmShows.countPoll (h : HbmShows s v t) : HbmShows s v (t.bump F.MEM_TEMP_POLLS 1) :=
  h.wf F.MEM_TEMP_POLLS (Nat.lt_succ_of_le (Nat.min_le_right _ _)) (by decide)

theorem HbmShows.tempRead_reading {n temp interval : Nat} (h : HbmShows s ⟨n, temp, 0, interval⟩ t) (r : BitVec 8) :
    HbmShows s ⟨0, r.toNat, if 95 < r.toInt then 2 else if 85 < r.toInt then 1 else 0, if 85 < r.toInt then 1560 else interval⟩
      (t.tempRead (some r)) :=
  h.countPoll.hbmTemp_normal r

/-- A failed read in the NORMAL state counts as HOT, and the fourth in a row as OVER (R212). -/
theorem HbmShows.tempRead_none {n temp interval : Nat} (h : HbmShows s ⟨n, temp, 0, interval⟩ t) :
    HbmShows s ⟨n + 1, temp, if n = 3 then 2 else 1, 1560⟩ (t.tempRead none) := by
  unfold State.tempRead
  extract_lets counted fails memc failed hot told
  have hfails : fails = n + 1 := congrArg (· + 1) h.countPoll.fails
  have hfailed : HbmShows s ⟨n + 1, temp, 0, interval⟩ failed := hfails ▸ h.countPoll.setFails fails
  have htold : HbmShows s ⟨n + 1, temp, 1, 1560⟩ told := by
    simp only [told, hot, if_pos hfailed.state]
    exact hfailed.hbmHot.send _ _
  simp only [hfails, Nat.reduceEqDiff]
  split
  · exact htold.overtemp _
  · exact htold

end

/-- A poll reads the sensor of a powered part whose HBM is trained and out of self refresh. -/
theorem exec_hbmTempPoll {s : State} (hoff : s.pstate ≠ .off) (htrained : s.rf F.MEM_STATUS_TRAINED = 1)
    (hself : s.rf F.MEM_STATUS_SELF_REFRESH = 0) (reading : Option (BitVec 8)) :
    exec (.hbmTempPoll reading) s = .next (s.tempRead reading) :=
  if_neg (by simp [State.flag, htrained, hself, hoff])

end Sys2Proof.Machine

namespace Sys2Proof.Proofs
open Sys2Proof Sys2Proof.Machine

/-- Settles O33: a poll's effect on what the temperature registers show, read off after a valid and after a failed read. -/
theorem hbmTemperature : Obligations.HbmTemperature := by
  intro s hs hoff htrained hself hnormal
  have hshown := HbmShows.refl hs.regs
  rw [hnormal] at hshown
  refine ⟨fun r => ?_, ?_⟩
  · obtain ⟨-, hmem, hfails, htemp, hstate, hinterval⟩ := hshown.tempRead_reading r
    exact ⟨_, exec_hbmTempPoll hoff htrained hself (some r), State.rd_of_mem hmem, htemp, hfails, hstate, hinterval⟩
  · obtain ⟨-, hmem, hfails, -, hstate, hinterval⟩ := hshown.tempRead_none
    exact ⟨_, exec_hbmTempPoll hoff htrained hself none, State.rd_of_mem hmem, hfails, hstate, hinterval⟩

end Sys2Proof.Proofs
end

section
/-! SIEVE's inputs (R254 to R261): what a lidar datagram, an ego message and the insertion of a point leave, and the statement about them. -/

namespace Sys2Proof.Machine
open Sys2Proof

/-! ### Time and messages -/

theorem State.advance_eq_advanceTo (s : State) (k : Nat) : s.advance k = s.advanceTo (s.now + k) := by
  unfold State.advanceTo
  rw [Nat.add_sub_cancel_left]

@[simp] theorem State.advanceTo_sieve (s : State) (t : Nat) : (s.advanceTo t).sieve = s.sieve :=
  advanceTo_frame (·.sieve) (fun _ _ _ => rfl) (fun _ _ _ => rfl) State.send_sieve s t
@[simp] theorem State.advanceTo_pw (s : State) (t : Nat) : (s.advanceTo t).pw = s.pw :=
  advanceTo_frame (·.pw) (fun _ _ _ => rfl) (fun _ _ _ => rfl) State.send_pw s t
@[simp] theorem State.advance_sieve (s : State) (k : Nat) : (s.advance k).sieve = s.sieve := by
  rw [State.advance_eq_advanceTo, State.advanceTo_sieve]
@[simp] theorem State.advance_pw (s : State) (k : Nat) : (s.advance k).pw = s.pw := by
  rw [State.advance_eq_advanceTo, State.advanceTo_pw]
@[simp] theorem State.advance_replay (s : State) (k : Nat) : (s.advance k).replay = s.replay := by
  rw [State.advance_eq_advanceTo, State.advanceTo_replay]

theorem State.sieveOn_advance (s : State) (k : Nat) : (s.advance k).sieveOn = s.sieveOn := by
  obtain ⟨-, -, -, -, -, hpstate, -⟩ := State.advance_same s k
  unfold State.sieveOn
  rw [State.advance_pw, hpstate]

theorem send_writes {s : State} (hs : smWf regReset s.regs) (src : Nat) (k : Kind) (a : Nat) :
    Writes [A.FLT_SRC_CNT src] s (s.send src k a) :=
  ⟨send_smWf hs _ _ _, send_regs hs _ _ _, State.send_mem _ _ _ _⟩

/-- What a new bell number reports, it reports as the collector (R340, R350). -/
theorem rollBell_writes {s : State} (hs : smWf regReset s.regs) : Writes [A.FLT_SRC_CNT srcColl] s s.rollBell := by
  unfold State.rollBell
  extract_lets n merged lost coll tsu cleared told
  have hcleared : Writes [A.FLT_SRC_CNT srcColl] s cleared := ⟨hs, fun _ _ => rfl, rfl⟩
  have htold : Writes [A.FLT_SRC_CNT srcColl] s told := by
    unfold told
    split
    · exact hcleared
    · exact hcleared.trans (send_writes hcleared.canonical _ _ _)
  split
  · exact Writes.refl hs _
  · split
    · exact htold
    · exact htold.trans (send_writes htold.canonical _ _ _)

theorem advance_writes {s : State} (hs : smWf regReset s.regs) (k : Nat) : Writes [A.FLT_SRC_CNT srcColl] s (s.advance k) := by
  unfold State.advance
  split
  · exact Writes.refl hs _
  · have hlater : Writes [A.FLT_SRC_CNT srcColl] s { s with now := s.now + k, tsu := s.tsu.advance s.rate k } := ⟨hs, fun _ _ => rfl, rfl⟩
    exact hlater.trans (rollBell_writes hlater.canonical)

theorem rf_advance {s : State} (hs : smWf regReset s.regs) (k : Nat) {f : Fld} (hf : f.addr ≠ A.FLT_SRC_CNT srcColl) :
    (s.advance k).rf f = s.rf f :=
  (advance_writes hs k).regs.rf (mt List.mem_singleton.1 hf)

/-- After a message was sent, one waits at its source. -/
theorem send_waits (s : State) (src : Nat) (k : Kind) (a : Nat) : (smFind (s.send src k a).coll.pend src).isSome = true := by
  unfold State.send State.sendMsg
  dsimp only
  split
  · dsimp only
    rw [smFind_insert, if_pos rfl, Option.isSome_some]
  · rw [State.bump_coll]
    dsimp only
    rw [smFind_insert, if_pos rfl, Option.isSome_some]

/-- Merged messages are counted in the upper half of a register, whichever source they are of (R340). -/
theorem rf_send_lower {s : State} (hs : smWf regReset s.regs) {f : Fld} (hf : f.hi < 16) (src : Nat) (k : Kind) (a : Nat) :
    (s.send src k a).rf f = s.rf f := by
  obtain ⟨c, h | h⟩ := sendMsg_shape s (plainMsg src k.code (a % 2 ^ 40) false)
  · exact congrArg (·.rf f) h
  · exact (congrArg (·.rf f) h).trans
      (State.rf_wf_apart (s := { s with coll := c }) hs ⟨show 16 ≤ 31 by decide, show 31 < 32 by decide⟩ (by omega) (.inr (.inl hf)) _)

/-! ### What the image fixes -/

section
variable {s t : State} (h : t.image = s.image)
include h

theorem State.recBytes_of_image (typ idx : Nat) : t.recBytes typ idx = s.recBytes typ idx := by
  unfold State.recBytes
  rw [h]

theorem State.recLe_of_image (typ off n : Nat) : t.recLe typ off n = s.recLe typ off n := by
  unfold State.recLe
  rw [State.recBytes_of_image h]

theorem State.lidMatch_of_image (port ip udp : Nat) : t.lidMatch port ip udp = s.lidMatch port ip udp := by
  unfold State.lidMatch
  rw [State.recBytes_of_image h]

theorem State.voxBase_of_image : t.voxBase = s.voxBase := by
  unfold State.voxBase State.hbmRegion
  rw [State.recBytes_of_image h]

end

/-! ### The parts of SIEVE's operations -/

section
variable (s : State)

@[simp] theorem State.setLg_mem (l : Nat) (f : LidGen → LidGen) : (s.setLg l f).mem = s.mem := rfl
@[simp] theorem State.setLg_queue (l : Nat) (f : LidGen → LidGen) : (s.setLg l f).sieve.queue = s.sieve.queue := rfl

@[simp] theorem State.sieveShow_mem : s.sieveShow.mem = s.mem := by
  unfold State.sieveShow
  rw [State.wf_mem, State.wf_mem]
@[simp] theorem State.sieveShow_sieve : s.sieveShow.sieve = s.sieve := by
  unfold State.sieveShow
  rw [State.wf_sieve, State.wf_sieve]

/-- A value that the spec leaves open takes nothing but the next free value. -/
theorem State.toFix_state (v : Nat) : ∃ n, (s.toFix v).2 = { s with freeCount := n } := by
  unfold State.toFix
  dsimp only
  split
  · exact ⟨_, rfl⟩
  · exact ⟨s.freeCount, rfl⟩

/-- A dropped point is counted in the drop register of its lidar. -/
theorem State.dropPt_counts (l : Nat) (d : LidDrop) :
    ∃ f : Fld, f.ok ∧ f.addr = A.SVE_DROP l ∧ s.dropPt l d = s.bump f 1 := by
  cases d with
  | stale => exact ⟨F.SVE_DROP_STALE l, ⟨show 0 ≤ 7 by decide, show 7 < 32 by decide⟩, rfl, rfl⟩
  | future => exact ⟨F.SVE_DROP_FUTURE l, ⟨show 8 ≤ 15 by decide, show 15 < 32 by decide⟩, rfl, rfl⟩
  | range => exact ⟨F.SVE_DROP_RANGE l, ⟨show 16 ≤ 23 by decide, show 23 < 32 by decide⟩, rfl, rfl⟩
  | ovf => exact ⟨F.SVE_DROP_OVF l, ⟨show 24 ≤ 31 by decide, show 31 < 32 by decide⟩, rfl, rfl⟩

@[simp] theorem State.dropPt_mem (l : Nat) (d : LidDrop) : (s.dropPt l d).mem = s.mem := by
  obtain ⟨f, -, -, h⟩ := s.dropPt_counts l d
  rw [h, State.bump_mem]
@[simp] theorem State.dropPt_sieve (l : Nat) (d : LidDrop) : (s.dropPt l d).sieve = s.sieve := by
  obtain ⟨f, -, -, h⟩ := s.dropPt_counts l d
  rw [h, State.bump_sieve]

@[simp] theorem State.dgSeq_mem (r pkt : List Byte) : (s.dgSeq r pkt).mem = s.mem := by
  unfold State.dgSeq
  dsimp only
  split
  · rfl
  · rw [State.setLg_mem, State.bump_mem]
@[simp] theorem State.dgSeq_queue (r pkt : List Byte) : (s.dgSeq r pkt).sieve.queue = s.sieve.queue := by
  unfold State.dgSeq
  dsimp only
  split
  · rfl
  · rw [State.setLg_queue, State.bump_sieve]

end

/-! ### LIDAR_DATAGRAM -/

/-- From s to t at most n points joined the queue, behind those that wait, and no memory was written. -/
def Queues (n : Nat) (s t : State) : Prop := t.mem = s.mem ∧ ∃ l, t.sieve.queue = s.sieve.queue ++ l ∧ l.length ≤ n

section
variable {s t u : State} {n m : Nat}

theorem Queues.of_same (hmem : t.mem = s.mem) (hqueue : t.sieve.queue = s.sieve.queue) : Queues n s t :=
  ⟨hmem, [], by rw [hqueue, List.append_nil], Nat.zero_le n⟩

theorem Queues.trans (h : Queues n s t) (g : Queues m t u) : Queues (n + m) s u := by
  obtain ⟨hmem, l, hl, hn⟩ := h
  obtain ⟨gmem, k, hk, hm⟩ := g
  exact ⟨gmem.trans hmem, l ++ k, by rw [hk, hl, List.append_assoc], by rw [List.length_append]; omega⟩

theorem Queues.of_toFix {v x : Nat} (e : s.toFix v = (x, t)) : Queues 0 s t := by
  obtain ⟨k, hk⟩ := s.toFix_state v
  rw [e] at hk
  exact Queues.of_same (congrArg (·.mem) hk) (congrArg (·.sieve.queue) hk)

/-- One point at most for each element of a list. -/
theorem Queues.foldl {α : Type} {f : State → α → State} (hf : ∀ s a, Queues 1 s (f s a)) (l : List α) (s : State) :
    Queues l.length s (l.foldl f s) := by
  induction l generalizing s with
  | nil => exact Queues.of_same rfl rfl
  | cons a l ih =>
    rw [List.length_cons, Nat.add_comm]
    exact (hf s a).trans (ih (f s a))

end

theorem queuePoint_queues (s : State) (r : List Byte) (rx ry rz ri t : Nat) (out : Option LidDrop) :
    Queues 1 s (s.queuePoint r rx ry rz ri t out) := by
  have hdrop (u : State) (l : Nat) (d : LidDrop) {n : Nat} : Queues n u (u.dropPt l d) :=
    Queues.of_same (State.dropPt_mem u l d) (congrArg (·.queue) (State.dropPt_sieve u l d))
  unfold State.queuePoint
  extract_lets +onlyGivenNames -underBinder l
  split
  case h_1 => exact hdrop s l _
  case h_2 =>
    split
    case isTrue => exact hdrop s l .range
    split
    case isTrue => exact Queues.of_same rfl rfl
    extract_lets +onlyGivenNames -underBinder sc sx sy sz row
    generalize row = row'
    split
    next x sx hx =>
    split
    next y sy hy =>
    split
    next z sz hz =>
    have hfixed : Queues 0 s sz := ((Queues.of_toFix hx).trans (Queues.of_toFix hy)).trans (Queues.of_toFix hz)
    split
    case isTrue =>
      extract_lets +onlyGivenNames -underBinder first dropped
      have hcounted : Queues 1 s (sz.dropPt l .ovf) := hfixed.trans (m := 1) (hdrop sz l .ovf)
      have hdropped : Queues 1 s dropped :=
        hcounted.trans (m := 0) (Queues.of_same (State.setLg_mem _ _ _) (State.setLg_queue _ _ _))
      split
      · exact hdropped.trans (m := 0) (Queues.of_same (State.send_mem _ _ _ _) (congrArg (·.queue) (State.send_sieve _ _ _ _)))
      · exact hdropped
    case isFalse => exact hfixed.trans (m := 1) ⟨rfl, [_], rfl, Nat.le_refl 1⟩

/-- A datagram of the lidar l is discarded: it counts as bad, and LID_BAD_PKT is sent (R254). -/
def State.discardDatagram (s : State) (l udp : Nat) : State :=
  ((s.bump (F.SVE_BAD_BAD l) 1).setLg l (fun g => { g with bad := g.bad + 1 })).send (srcSieve l) .LID_BAD_PKT (l * 2 ^ 37 + udp)

theorem discardDatagram_queues (s : State) (l udp n : Nat) : Queues n s (s.discardDatagram l udp) := by
  unfold State.discardDatagram
  refine Queues.of_same ?_ ?_
  · rw [State.send_mem, State.setLg_mem, State.bump_mem]
  · rw [State.send_sieve, State.setLg_queue, State.bump_sieve]

section
variable {s : State} {port ip udp : Nat} {r : List Byte} (ck : Bool) (pl : List Byte) (now : Nat)

theorem lidarTake_unmatched (h : s.lidMatch port ip udp = none) : s.lidarTake port ip udp ck pl now = s := by
  unfold State.lidarTake
  rw [h]

variable {ck pl} (h : s.lidMatch port ip udp = some r)
include h

theorem lidarTake_discards (hbad : pl.length ≠ leAt r 10 2 ∨ ck = false) :
    s.lidarTake port ip udp ck pl now = s.discardDatagram (leAt r 0 1) udp := by
  unfold State.lidarTake
  rw [h]
  exact if_pos (hbad.imp_right fun hck => .inl (by simp [hck]))

/-- A matched datagram is discarded, or its points are taken in turn. -/
theorem lidarTake_queues : Queues (leAt r 14 2) s (s.lidarTake port ip udp ck pl now) := by
  unfold State.lidarTake
  rw [h]
  dsimp -zeta only
  extract_lets +onlyGivenNames -underBinder l mo t0
  split
  case isTrue => exact discardDatagram_queues s l udp _
  case isFalse =>
    extract_lets +onlyGivenNames -underBinder noted
    have hnoted : Queues 0 s noted := Queues.of_same (State.dgSeq_mem s r pl) (State.dgSeq_queue s r pl)
    have htaken := Queues.foldl (f := fun (s : State) i => s.takePoint r pl (t0.getD 0) i) (fun s i => queuePoint_queues s r _ _ _ _ _ _)
      (List.range (leAt r 14 2)) noted
    rw [List.length_range] at htaken
    have hshown := (hnoted.trans htaken).trans (m := 0)
      (Queues.of_same (State.sieveShow_mem _) (congrArg (·.queue) (State.sieveShow_sieve _)))
    rwa [Nat.zero_add, Nat.add_zero] at hshown

end

/-! ### EGO_MESSAGE -/

theorem leAt_drop (bs : List Byte) (k off n : Nat) : leAt (bs.drop k) off n = leAt bs (k + off) n := by
  unfold leAt
  rw [List.drop_drop]

/-- The ring with one more message keeps the latest 256 (R256). -/
def latestEgo (ring : List (Nat × List Byte)) (m : Nat × List Byte) : List (Nat × List Byte) :=
  (ring ++ [m]).drop ((ring ++ [m]).length - 256)

theorem latestEgo_getLast? (ring : List (Nat × List Byte)) (m : Nat × List Byte) : (latestEgo ring m).getLast? = some m := by
  have hshort : ¬(ring ++ [m]).length ≤ (ring ++ [m]).length - 256 := by
    rw [List.length_append, List.length_singleton]
    omega
  unfold latestEgo
  rw [List.getLast?_drop, if_neg hshort, List.getLast?_concat]

theorem latestEgo_length (ring : List (Nat × List Byte)) (m : Nat × List Byte) : (latestEgo ring m).length ≤ 256 := by
  unfold latestEgo
  rw [List.length_drop]
  omega

section
variable {s : State} {record : List Byte} {ns : Nat} (hns : ns = leAt record 32 6 * 1000000000 + leAt record 38 4)
include hns

theorem egoTake_joins (hlen : record.length = 72) (hid : leAt record 0 2 % 4096 = s.recLe recFusion 14 2 % 4096) (hmajor : leAt record 2 1 = 1)
    (hpayload : leAt record 20 4 = 40) (hcrc : leAt record 28 4 = crc32c (record.take 28 ++ record.drop 32))
    (hlater : ∀ m ∈ s.sieve.ego, m.1 < ns) :
    s.egoTake record = (({ s with sieve := { s.sieve with ego := latestEgo s.sieve.ego (ns, record.drop 32) } } : State).wf F.SVE_EGO_HELD
      (latestEgo s.sieve.ego (ns, record.drop 32)).length).wf F.SVE_EGO_NS_NS (ns % 1000000000) := by
  unfold State.egoTake
  simp only [leAt_drop, ← hns]
  exact if_pos (by simpa [hlen, hid, hmajor, hpayload, hcrc] using hlater)

theorem egoTake_rejects (hbad : record.length ≠ 72 ∨ ∃ m ∈ s.sieve.ego, ns ≤ m.1) :
    ∃ n b, s.egoTake record = (({ s with sieve := { s.sieve with egoRej := n, egoBell := b } } : State).bump F.SVE_EGO_REJECT 1).send
      srcSieveAll .EGO_REJECT (satU 16 n) := by
  unfold State.egoTake
  simp only [leAt_drop, ← hns]
  refine ⟨_, _, if_neg fun hok => ?_⟩
  simp only [Bool.and_eq_true, beq_iff_eq, List.all_eq_true, decide_eq_true_eq, List.length_drop] at hok
  obtain ⟨⟨⟨-, hlen⟩, -⟩, hlater⟩ := hok
  rcases hbad with hbad | ⟨m, hm, hle⟩
  · omega
  · exact Nat.not_lt.2 hle (hlater m hm)

end

/-! ### The commands while SIEVE takes its inputs -/

section
variable {s : State} {port : Fin 6} {udp : BitVec 16} (hs : smWf regReset s.regs) (hon : s.sieveOn = true) (hreplay : s.replay = none)
  (hup : s.flag (F.ETH_STATUS_LINK port.val) = true) (dt : Nat)
include hs hup

theorem flag_link_advance : (s.advance dt).flag (F.ETH_STATUS_LINK port.val) = true := by
  have haddr : A.ETH_STATUS port.val ≠ A.FLT_SRC_CNT srcColl := by
    unfold A.ETH_STATUS A.FLT_SRC_CNT srcColl
    omega
  rw [← hup]
  unfold State.flag
  rw [rf_advance hs dt (f := F.ETH_STATUS_LINK port.val) haddr]

include hon hreplay

theorem exec_lidarDatagram_taken (hport : port.val < 4) (ip : BitVec 32) (ck : Bool) (pl : List Byte) :
    exec (.lidarDatagram port ip udp ck pl dt) s =
      .next ((s.advance dt).lidarTake port.val ip.toNat udp.toNat ck pl (s.advance dt).timeNs) :=
  if_neg (by simp [State.sieveOn_advance, hon, hreplay, hport, flag_link_advance hs hup])

theorem exec_egoMessage_taken (hfrom : bitAt (s.recLe recFusion 16 1) port.val = true) (hudp : udp.toNat = s.recLe recFusion 12 2)
    (record : List Byte) : exec (.egoMessage port udp record dt) s = .next ((s.advance dt).egoTake record) := by
  obtain ⟨-, -, -, -, -, -, himage, -⟩ := State.advance_same s dt
  refine if_neg ?_
  simp [State.sieveOn_advance, hon, hreplay, State.recLe_of_image himage, hfrom, hudp, flag_link_advance hs hup]

end

/-! ### VOXEL_INSERT -/

/-- Fields of SVE_STATUS that the statement reads. -/
def sieveFields : List Fld := [F.SVE_STATUS_QUEUE, F.SVE_STATUS_CLEARING]

theorem sieveFields_lower : ∀ f ∈ sieveFields, f.addr = A.SVE_STATUS ∧ f.hi < 16 := by decide

/-- From s to t a point was inserted, or a part of that done: the waiting points and what SVE_STATUS shows stay, no wrong bit is marked or
armed, and memory changed in the voxel table only. -/
structure Inserts (s t : State) : Prop where
  regs : smWf regReset t.regs
  mem : Memory.wf t.mem = true
  ecc : t.ecc = []
  sram : t.inj.sram = none
  hbm : t.inj.hbm = none
  image : t.image = s.image
  queue : t.sieve.queue = s.sieve.queue
  shown : ∀ f ∈ sieveFields, t.rf f = s.rf f
  table : SameMemBut s t (keyHbm s.voxBase) (32 * 16777216)

section
variable {s t u : State}

theorem Inserts.refl (hregs : smWf regReset s.regs) (hmem : Memory.wf s.mem = true) (hecc : s.ecc = []) (hsram : s.inj.sram = none)
    (hhbm : s.inj.hbm = none) : Inserts s s :=
  ⟨hregs, hmem, hecc, hsram, hhbm, rfl, rfl, fun _ _ => rfl, fun _ _ => rfl⟩

theorem Inserts.setSieve (h : Inserts s t) (x : Sieve) (hx : x.queue = t.sieve.queue) : Inserts s { t with sieve := x } :=
  ⟨h.regs, h.mem, h.ecc, h.sram, h.hbm, h.image, hx.trans h.queue, h.shown, h.table⟩

theorem Inserts.setLg (h : Inserts s t) (l : Nat) (f : LidGen → LidGen) : Inserts s (t.setLg l f) := h.setSieve _ rfl

theorem Inserts.setFree (h : Inserts s t) (n : Nat) : Inserts s { t with freeCount := n } :=
  ⟨h.regs, h.mem, h.ecc, h.sram, h.hbm, h.image, h.queue, h.shown, h.table⟩

theorem Inserts.addUnits (h : Inserts s t) (n : Nat) : Inserts s (t.addUnits n) :=
  ⟨h.regs, h.mem, h.ecc, h.sram, h.hbm, h.image, h.queue, h.shown, h.table⟩

theorem Inserts.bump (h : Inserts s t) {f : Fld} (hf : f.ok) (haddr : f.addr ≠ A.SVE_STATUS) (n : Nat) : Inserts s (t.bump f n) where
  regs := wf_smWf h.regs f _
  mem := (State.bump_mem t f n).symm ▸ h.mem
  ecc := (State.bump_ecc t f n).trans h.ecc
  sram := (congrArg (·.sram) (State.bump_inj t f n)).trans h.sram
  hbm := (congrArg (·.hbm) (State.bump_inj t f n)).trans h.hbm
  image := (State.bump_image t f n).trans h.image
  queue := (congrArg (·.queue) (State.bump_sieve t f n)).trans h.queue
  shown := fun g hg => by
    obtain ⟨hstatus, hhi⟩ := sieveFields_lower g hg
    exact (State.rf_wf_apart h.regs hf (by omega) (.inl (hstatus ▸ haddr)) _).trans (h.shown g hg)
  table := fun k hk => (State.rd_bump t f n k).trans (h.table k hk)

theorem Inserts.send (h : Inserts s t) (src : Nat) (k : Kind) (a : Nat) : Inserts s (t.send src k a) where
  regs := send_smWf h.regs src k a
  mem := (State.send_mem t src k a).symm ▸ h.mem
  ecc := (State.send_ecc t src k a).trans h.ecc
  sram := (congrArg (·.sram) (State.send_inj t src k a)).trans h.sram
  hbm := (congrArg (·.hbm) (State.send_inj t src k a)).trans h.hbm
  image := (State.send_image t src k a).trans h.image
  queue := (congrArg (·.queue) (State.send_sieve t src k a)).trans h.queue
  shown := fun g hg => (rf_send_lower h.regs (sieveFields_lower g hg).2 src k a).trans (h.shown g hg)
  table := fun b hb => (State.rd_send t src k a b).trans (h.table b hb)

theorem Inserts.dropPt (h : Inserts s t) (l : Nat) (d : LidDrop) : Inserts s (t.dropPt l d) := by
  obtain ⟨f, hf, haddr, hdrop⟩ := t.dropPt_counts l d
  rw [hdrop]
  refine h.bump hf ?_ 1
  rw [haddr]
  unfold A.SVE_DROP A.SVE_STATUS
  omega

/-- Of a value that the spec leaves open only the count of free values tells. -/
theorem Inserts.toFix (h : Inserts s t) {v x : Nat} (e : t.toFix v = (x, u)) : Inserts s u := by
  obtain ⟨n, hn⟩ := t.toFix_state v
  rw [e] at hn
  obtain rfl : u = _ := hn
  exact h.setFree n

theorem Inserts.freeEgo (h : Inserts s t) : Inserts s t.freeEgo.2 := by
  unfold State.freeEgo
  exact List.foldlRecOn _ _ (motive := fun p : List Nat × State => Inserts s p.2) h fun p hp i _ => hp.setFree _

/-! ### The voxel table -/

theorem Inserts.bankOff (h : Inserts s t) (banks : List Nat) :
    Inserts s (banks.foldl (fun s b => s.send (bankSrc b) .BANK_OFF (bankAddr b)) t) :=
  List.foldlRecOn banks _ h fun _ hu _ _ => hu.send _ _ _

theorem Inserts.hbmAccess (h : Inserts s t) (req a : Nat) : Inserts s (t.hbmAccess req a) :=
  (h.bump (f := F.MEM_UE_ACCESS) (by decide) (by decide) 1).send _ _ _

/-- With no wrong bit marked, a read reports at most banks that are off. -/
theorem State.load_unmarked (h : t.ecc = []) (code : Bool) (req k n : Nat) :
    (t.load code req k n).2.2 = (t.offBanks k n).foldl (fun s b => s.send (bankSrc b) .BANK_OFF (bankAddr b)) t := by
  have hmarks : t.eccIn (eccGranule k) (k + n - eccGranule k) = [] := by
    unfold State.eccIn
    rw [h, List.filter_nil]
  unfold State.load
  rw [hmarks]
  rfl

theorem Inserts.fetch (h : Inserts s t) {req k n : Nat} {bs : List Byte} {ok : Bool} (e : t.fetch req k n = (bs, ok, u)) : Inserts s u := by
  have hu : u = (t.fetch req k n).2.2 := by rw [e]
  rw [hu]
  unfold State.fetch
  split
  · exact h.hbmAccess req k
  · rw [State.load_unmarked (h.addUnits n).ecc]
    exact (h.addUnits n).bankOff _

/-- With no injection armed, a store reports the banks that are off, or writes its bytes and gives their words valid check bits. -/
theorem State.store_unarmed (hsram : t.inj.sram = none) (hhbm : t.inj.hbm = none) (k : Nat) (bs : List Byte) :
    t.store k bs = if !(t.offBanks k bs.length).isEmpty then
        (t.offBanks k bs.length).foldl (fun s b => s.send (bankSrc b) .BANK_OFF (bankAddr b)) t
      else (t.wrN k bs).clearEcc (eccGranule k) (k + bs.length - eccGranule k) := by
  have hinj : (t.wrN k bs).inj = t.inj := State.wrN_inj t k bs
  unfold State.store
  dsimp only [State.clearEcc]
  rw [hinj, hsram]
  dsimp only
  rw [hhbm]

/-- A store to a slot of the table. -/
theorem Inserts.storeSlot (h : Inserts s t) {slot : Nat} (hslot : slot < 16777216) {bs : List Byte} (hbs : bs.length = 32) :
    Inserts s (t.store (keyHbm (t.voxBase + 32 * slot)) bs) := by
  rw [State.store_unarmed h.sram h.hbm, State.voxBase_of_image h.image]
  generalize hk : keyHbm (s.voxBase + 32 * slot) = k
  have hkey : k = keyHbm s.voxBase + 32 * slot := hk.symm
  split
  case isTrue => exact h.bankOff _
  case isFalse =>
    have hmem := (smWfB_iff _).1 h.mem
    exact {
      regs := h.regs
      mem := (smWfB_iff _).2 (smWf_setList hmem k bs)
      ecc := by
        unfold State.clearEcc
        rw [State.wrN_ecc, h.ecc, List.filter_nil]
      sram := h.sram
      hbm := h.hbm
      image := h.image
      queue := h.queue
      shown := h.shown
      table := fun b hb => (sameMemBut_wrN h.mem k bs b (by omega)).trans (h.table b hb) }

theorem length_leBytes (n v : Nat) : (leBytes n v).length = n := by
  induction n generalizing v with
  | zero => rfl
  | succ n ih => rw [leBytes, List.length_cons, ih]

theorem Vox.bytes_length (v : Vox) : v.bytes.length = 32 := by
  unfold Vox.bytes
  simp only [List.length_append, length_leBytes]

theorem Inserts.voxWrite (h : Inserts s t) {slot : Nat} (hslot : slot < 16777216) (v : Vox) : Inserts s (t.voxWrite slot v) := by
  have hput : Inserts s (t.put 6 (keyHbm (t.voxBase + 32 * slot)) v.bytes) := by
    unfold State.put
    split
    · exact h.hbmAccess _ _
    · exact (h.addUnits _).storeSlot hslot v.bytes_length
  exact hput.setSieve _ rfl

/-- The insert loop visits slots of the table (R261). -/
theorem Inserts.voxInsert (h : Inserts s t) (l : Nat) (carry : Vox) {slot : Nat} (hslot : slot < 16777216) (bound : Nat) :
    Inserts s (t.voxInsert l carry slot bound) := by
  induction bound generalizing t carry slot with
  | zero => exact h
  | succ bound ih =>
    unfold State.voxInsert
    split
    case isTrue =>
      extract_lets +onlyGivenNames -underBinder first old full dropped
      have hfull : Inserts s full := h.setSieve _ rfl
      have hdropped : Inserts s dropped := hfull.dropPt _ _
      split
      · exact hdropped.send _ _ _
      · exact hdropped
    case isFalse =>
      split
      next b ok read hread =>
      extract_lets +onlyGivenNames -underBinder judged e m own obstacle next
      have hjudged : Inserts s judged := by
        unfold judged
        split
        · exact h.fetch hread
        · exact (h.fetch hread).setLg _ _
      have hnext : next < 16777216 := Nat.mod_lt _ (by decide)
      split
      case isTrue => exact (hjudged.voxWrite hslot carry).setSieve _ rfl
      split
      case isTrue => exact hjudged.voxWrite hslot _
      split
      case isTrue =>
        extract_lets +onlyGivenNames -underBinder de dc
        split
        · exact ih (hjudged.voxWrite hslot carry) e hnext
        · exact ih hjudged carry hnext
      case isFalse => exact ih hjudged carry hnext

theorem voxHome_lt (key : Nat) : voxHome key < 16777216 := by
  unfold voxHome
  omega

/-! ### The point -/

theorem Inserts.insertPoint (h : Inserts s t) (p : LidPt) (out : Option LidDrop) : Inserts s (t.insertPoint p out) := by
  unfold State.insertPoint
  split
  case h_1 => exact h.dropPt _ _
  case h_2 =>
    extract_lets +onlyGivenNames -underBinder l age stale sel
    generalize sel = sel'
    split
    next w nd far chosen hchosen =>
    have hego : Inserts s chosen := by
      split at hchosen
      case h_1 => cases hchosen; exact h
      case h_2 => cases hchosen; exact h.freeEgo
    clear hchosen
    extract_lets +onlyGivenNames -underBinder first told marked e d ax x y z
    have htold : Inserts s told := by
      unfold told
      split
      case h_1 =>
        split
        · exact (hego.setLg _ _).send _ _ _
        · exact hego.setLg _ _
      case h_2 => exact hego
    have hmarked : Inserts s marked := by
      unfold marked
      split
      · exact htold.setLg _ _
      · exact htold
    generalize marked = marked' at hmarked ⊢
    split
    next xc sx hx =>
    split
    next yc sy hy =>
    split
    next zc sz hz =>
    have hfixed : Inserts s sz := ((hmarked.toFix hx).toFix hy).toFix hz
    clear hx hy hz
    extract_lets +onlyGivenNames -underBinder fu cell cx cy cz outside
    split
    case isTrue => exact hfixed.dropPt _ _
    case isFalse =>
      extract_lets +onlyGivenNames -underBinder key v recorded used
      have hrecorded : Inserts s recorded := hfixed.setLg _ _
      have hused : Inserts s used := by
        unfold used
        split
        case h_1 =>
          split
          · exact hrecorded
          · exact hrecorded.setSieve _ rfl
        case h_2 => exact hrecorded
      exact hused.voxInsert _ _ (voxHome_lt key) _

end

/-- The front point has left the queue, and SVE_STATUS shows the others (R257, R274). -/
def State.takeFront (s : State) (rest : List LidPt) : State :=
  (({ s with sieve := { s.sieve with queue := rest } } : State).wf F.SVE_STATUS_CLEARING 0).sieveShow

theorem exec_voxelInsert {s : State} {p : LidPt} {rest : List LidPt} (hq : s.sieve.queue = p :: rest) (hon : s.sieveOn = true) :
    ∃ out, exec .voxelInsert s = .next (((s.advanceTo s.sieve.clearTo).takeFront rest).insertPoint p out) := by
  show ∃ out, execVoxelInsert s = _
  unfold execVoxelInsert
  rw [hq]
  exact ⟨_, if_neg (by simp [hon])⟩

theorem takeFront_only (s : State) (rest : List LidPt) :
    OnlyRegs ({ s with sieve := { s.sieve with queue := rest } } : State) (s.takeFront rest) :=
  (((OnlyRegs.refl _).wf F.SVE_STATUS_CLEARING 0).wf F.SVE_STATUS_QUEUE _).wf F.SVE_STATUS_BUSY _

theorem takeFront_shows {s : State} (hs : smWf regReset s.regs) (rest : List LidPt) :
    smWf regReset (s.takeFront rest).regs ∧ (s.takeFront rest).sieve.queue = rest ∧
      (s.takeFront rest).rf F.SVE_STATUS_QUEUE = min 2047 rest.length ∧ (s.takeFront rest).rf F.SVE_STATUS_CLEARING = 0 := by
  have hwait : smWf regReset ({ s with sieve := { s.sieve with queue := rest } } : State).regs := hs
  have hclear := wf_smWf hwait F.SVE_STATUS_CLEARING 0
  have hqueue := wf_smWf hclear F.SVE_STATUS_QUEUE (min 2047 rest.length)
  refine ⟨wf_smWf hqueue _ _, by unfold State.takeFront; rw [State.sieveShow_sieve, State.wf_sieve], ?_, ?_⟩
  · calc (s.takeFront rest).rf F.SVE_STATUS_QUEUE = _ := State.rf_wf_apart hqueue (by decide) (by decide) (by decide) _
      _ = min 2047 rest.length % 2 ^ 11 := State.rf_wf_self hclear (by decide) _
      _ = min 2047 rest.length := Nat.mod_eq_of_lt (by omega)
  · calc (s.takeFront rest).rf F.SVE_STATUS_CLEARING = _ := State.rf_wf_apart hqueue (by decide) (by decide) (by decide) _
      _ = _ := State.rf_wf_apart hclear (by decide) (by decide) (by decide) _
      _ = 0 := State.rf_wf_self hwait (by decide) 0

end Sys2Proof.Machine

namespace Sys2Proof.Proofs
open Sys2Proof Sys2Proof.Machine

/-! ### Parts of the statement -/

section
variable {s : State} {port : Fin 6} {udp : BitVec 16} (hs : s.Sound) (hon : s.sieveOn = true) (hreplay : s.replay = none)
  (hup : s.flag (F.ETH_STATUS_LINK port.val) = true) (dt : Nat)
include hs hon hreplay hup

theorem lidarDatagram_unmatched (hport : port.val < 4) {ip : BitVec 32} (ck : Bool) (pl : List Byte)
    (hmatch : s.lidMatch port.val ip.toNat udp.toNat = none) :
    ∃ t : State, exec (.lidarDatagram port ip udp ck pl dt) s = .next t ∧ t.sieve = s.sieve ∧ SameMem s t := by
  obtain ⟨hmem, -, -, -, -, -, himage, -⟩ := State.advance_same s dt
  refine ⟨_, exec_lidarDatagram_taken hs.regs hon hreplay hup dt hport ip ck pl, ?_⟩
  rw [lidarTake_unmatched ck pl _ ((State.lidMatch_of_image himage _ _ _).trans hmatch)]
  exact ⟨State.advance_sieve s dt, State.rd_of_mem hmem⟩

theorem lidarDatagram_discarded (hport : port.val < 4) {ip : BitVec 32} {ck : Bool} {pl r : List Byte}
    (hmatch : s.lidMatch port.val ip.toNat udp.toNat = some r) (hbad : pl.length ≠ leAt r 10 2 ∨ ck = false) :
    ∃ t : State, exec (.lidarDatagram port ip udp ck pl dt) s = .next t ∧ t.sieve.queue = s.sieve.queue ∧
      (smFind t.coll.pend (srcSieve (leAt r 0 1))).isSome = true ∧ SameMem s t := by
  obtain ⟨hmem, -, -, -, -, -, himage, -⟩ := State.advance_same s dt
  refine ⟨_, exec_lidarDatagram_taken hs.regs hon hreplay hup dt hport ip ck pl, ?_⟩
  rw [lidarTake_discards _ ((State.lidMatch_of_image himage _ _ _).trans hmatch) hbad]
  obtain ⟨hkept, l, hqueue, hl⟩ := discardDatagram_queues (s.advance dt) (leAt r 0 1) udp.toNat 0
  obtain rfl : l = [] := List.eq_nil_of_length_eq_zero (Nat.le_zero.1 hl)
  rw [List.append_nil, State.advance_sieve] at hqueue
  exact ⟨hqueue, send_waits _ _ _ _, State.rd_of_mem (hkept.trans hmem)⟩

theorem lidarDatagram_queues (hport : port.val < 4) {ip : BitVec 32} (ck : Bool) (pl : List Byte) {r : List Byte}
    (hmatch : s.lidMatch port.val ip.toNat udp.toNat = some r) :
    ∃ (t : State) (l : List LidPt), exec (.lidarDatagram port ip udp ck pl dt) s = .next t ∧ t.sieve.queue = s.sieve.queue ++ l ∧
      l.length ≤ leAt r 14 2 ∧ SameMem s t := by
  obtain ⟨hmem, -, -, -, -, -, himage, -⟩ := State.advance_same s dt
  obtain ⟨hkept, l, hqueue, hl⟩ := lidarTake_queues (ck := ck) (pl := pl) (s.advance dt).timeNs
    ((State.lidMatch_of_image himage port.val ip.toNat udp.toNat).trans hmatch)
  rw [State.advance_sieve] at hqueue
  exact ⟨_, l, exec_lidarDatagram_taken hs.regs hon hreplay hup dt hport ip ck pl, hqueue, hl, State.rd_of_mem (hkept.trans hmem)⟩

section
variable (hfrom : bitAt (s.recLe recFusion 16 1) port.val = true) (hudp : udp.toNat = s.recLe recFusion 12 2) {record : List Byte} {ns : Nat}
  (hns : ns = leAt record 32 6 * 1000000000 + leAt record 38 4)
include hfrom hudp hns

theorem egoMessage_joins (hlen : record.length = 72) (hid : leAt record 0 2 % 4096 = s.recLe recFusion 14 2 % 4096)
    (hmajor : leAt record 2 1 = 1) (hpayload : leAt record 20 4 = 40)
    (hcrc : leAt record 28 4 = crc32c (record.take 28 ++ record.drop 32)) (hlater : ∀ m ∈ s.sieve.ego, m.1 < ns) :
    ∃ t : State, exec (.egoMessage port udp record dt) s = .next t ∧ t.sieve.ego.getLast? = some (ns, record.drop 32) ∧
      t.sieve.ego.length ≤ 256 ∧ t.rf F.SVE_EGO_HELD = t.sieve.ego.length ∧ SameMem s t := by
  obtain ⟨hmem, -, -, -, -, -, himage, -⟩ := State.advance_same s dt
  refine ⟨_, exec_egoMessage_taken hs.regs hon hreplay hup dt hfrom hudp record, ?_⟩
  rw [egoTake_joins hns hlen (hid.trans (congrArg (· % 4096) (State.recLe_of_image himage _ _ _).symm)) hmajor hpayload hcrc
    (by rw [State.advance_sieve]; exact hlater)]
  have hring := latestEgo_length (s.advance dt).sieve.ego (ns, record.drop 32)
  have hlast := latestEgo_getLast? (s.advance dt).sieve.ego (ns, record.drop 32)
  generalize latestEgo (s.advance dt).sieve.ego (ns, record.drop 32) = ring at hring hlast ⊢
  have hregs : smWf regReset ({ s.advance dt with sieve := { (s.advance dt).sieve with ego := ring } } : State).regs :=
    (advance_writes hs.regs dt).canonical
  simp only [State.wf_sieve]
  refine ⟨hlast, hring, ?_, State.rd_of_mem ?_⟩
  · rw [State.rf_wf_apart (wf_smWf hregs _ _) (by decide) (by decide) (by decide), State.rf_wf_self hregs (by decide)]
    exact Nat.mod_eq_of_lt (show ring.length < 2 ^ 16 by omega)
  · rw [State.wf_mem, State.wf_mem]
    exact hmem

theorem egoMessage_rejected (hbad : record.length ≠ 72 ∨ ∃ m ∈ s.sieve.ego, ns ≤ m.1) :
    ∃ t : State, exec (.egoMessage port udp record dt) s = .next t ∧ t.sieve.ego = s.sieve.ego ∧
      (smFind t.coll.pend srcSieveAll).isSome = true ∧ SameMem s t := by
  obtain ⟨hmem, -⟩ := State.advance_same s dt
  obtain ⟨n, b, hreject⟩ := egoTake_rejects (s := s.advance dt) hns (by rw [State.advance_sieve]; exact hbad)
  refine ⟨_, exec_egoMessage_taken hs.regs hon hreplay hup dt hfrom hudp record, ?_⟩
  rw [hreject]
  refine ⟨?_, send_waits _ _ _ _, State.rd_of_mem ?_⟩
  · rw [State.send_sieve, State.bump_sieve]
    exact congrArg (·.ego) (State.advance_sieve s dt)
  · rw [State.send_mem, State.bump_mem]
    exact hmem

end

omit hreplay hup in
theorem voxelInsert_inserts {p : LidPt} {rest : List LidPt} (hq : s.sieve.queue = p :: rest) (hecc : s.ecc = []) (hhbm : s.inj.hbm = none)
    (hsram : s.inj.sram = none) :
    ∃ t : State, exec .voxelInsert s = .next t ∧ t.sieve.queue = rest ∧ t.rf F.SVE_STATUS_QUEUE = min 2047 rest.length ∧
      t.rf F.SVE_STATUS_CLEARING = 0 ∧ SameMemBut s t (keyHbm s.voxBase) (32 * 16777216) := by
  obtain ⟨out, hexec⟩ := exec_voxelInsert hq hon
  obtain ⟨hmem, hmarks, -, -, -, -, himage, hinj, -⟩ := State.advanceTo_same s s.sieve.clearTo
  have hregs : smWf regReset (s.advanceTo s.sieve.clearTo).regs := (advance_writes hs.regs _).canonical
  generalize s.advanceTo s.sieve.clearTo = u at *
  obtain ⟨hwf, hqueue, hshown, hclear⟩ := takeFront_shows hregs rest
  have honly := takeFront_only u rest
  generalize u.takeFront rest = front at *
  have hfmem : front.mem = s.mem := (congrArg (·.mem) honly).trans hmem
  have hfinj : front.inj = s.inj := (congrArg (·.inj) honly).trans hinj
  have hfimage : front.image = s.image := (congrArg (·.image) honly).trans himage
  have hinsert : Inserts front (front.insertPoint p out) :=
    (Inserts.refl hwf (hfmem ▸ hs.mem) ((congrArg (·.ecc) honly).trans (hmarks.trans hecc)) (hfinj ▸ hsram) (hfinj ▸ hhbm)).insertPoint p out
  refine ⟨_, hexec, hinsert.queue.trans hqueue, (hinsert.shown _ (by decide)).trans hshown, (hinsert.shown _ (by decide)).trans hclear,
    fun k hk => ?_⟩
  rw [← State.voxBase_of_image hfimage] at hk
  exact (hinsert.table k hk).trans (State.rd_of_mem hfmem k)

end

/-- Settles O47: a datagram, an ego message and the insertion of a point each meet one of the parts above. -/
theorem sieveTakesItsInputs : Obligations.SieveTakesItsInputs := by
  intro s port udp dt hs hon hreplay hup
  refine ⟨fun ip ck pl hport => ⟨lidarDatagram_unmatched hs hon hreplay hup dt hport ck pl, fun r hmatch =>
      ⟨lidarDatagram_discarded hs hon hreplay hup dt hport hmatch, lidarDatagram_queues hs hon hreplay hup dt hport ck pl hmatch⟩⟩,
    fun record hfrom hudp ns hns => ⟨egoMessage_joins hs hon hreplay hup dt hfrom hudp hns,
      egoMessage_rejected hs hon hreplay hup dt hfrom hudp hns⟩,
    fun p rest hq hecc hhbm hsram => voxelInsert_inserts hs hon hq hecc hhbm hsram⟩

end Sys2Proof.Proofs
end
